-- ==== Sys2Proof/Word.lean ====
section
/-! DEFINITION. The words the K16 computes on, and the sparse stores that hold the model's large memories.

R42 (integers are plain binary or two's complement), R6 (little-endian). -/

namespace Sys2Proof

/-- One byte of memory (R6). -/
abbrev Byte := BitVec 8

/-- A 32-bit word: a scalar register, a lane, a syllable (R17, R75). -/
abbrev Word := BitVec 32

/-- A Bool as the number 0 or 1. -/
def b2n (b : Bool) : Nat := if b then 1 else 0

/-- Bits `[lo + n - 1 : lo]` of the number `x`. -/
def field (x lo n : Nat) : Nat := x / 2 ^ lo % 2 ^ n

/-- Bit `i` of the number `x`. -/
def bitOf (x i : Nat) : Bool := x.testBit i

/-- A number below `2^n` read as an `n`-bit two's-complement number (R69 SignExtend). -/
def toSigned (x n : Nat) : Int :=
  if x % 2 ^ n < 2 ^ (n - 1) then Int.ofNat (x % 2 ^ n) else Int.ofNat (x % 2 ^ n) - 2 ^ n

/-- The low `n` bits of an integer (R69 WrapN), as a number. -/
def wrapN (x : Int) (n : Nat) : Nat := (x % (2 ^ n : Int)).toNat

/-- SatN (R69): the nearest `n`-bit signed value. -/
def satN (x : Int) (n : Nat) : Int := min (max x (-(2 ^ (n - 1) : Int))) ((2 ^ (n - 1) : Int) - 1)

/-- SatUN (R69): the nearest `n`-bit unsigned value. -/
def satUN (x : Int) (n : Nat) : Int := min (max x 0) ((2 ^ n : Int) - 1)

/-- Popcount (R69) of the low `n` bits. -/
def popcount (x : Nat) : Nat → Nat
  | 0 => 0
  | n + 1 => b2n (bitOf x n) + popcount x n

/-- Clz (R69): leading zero bits of an `n`-bit value, `n` when it is 0. -/
def clz (x : Nat) : Nat → Nat
  | 0 => 0
  | n + 1 => if bitOf x n then 0 else 1 + clz x n

/-- Number of significant bits of `x` (0 for 0). -/
def bitLen (x : Nat) : Nat := if x = 0 then 0 else Nat.log2 x + 1

/-- A sparse table of values by number: keys strictly rising, no entry equal to the default. -/
abbrev Store (α : Type) := List (Nat × α)

/-- The value at a key, the default where the key is not listed. -/
def Store.get {α : Type} (d : α) : Store α → Nat → α
  | [], _ => d
  | (k', v) :: l, k => if k = k' then v else if k < k' then d else Store.get d l k

/-- The table with the entry of a key taken out. -/
def Store.erase {α : Type} : Store α → Nat → Store α
  | [], _ => []
  | (k', v) :: l, k =>
    if k = k' then l else if k < k' then (k', v) :: l else (k', v) :: Store.erase l k

/-- The table with a key listed. -/
def Store.insert {α : Type} : Store α → Nat → α → Store α
  | [], k, x => [(k, x)]
  | (k', v) :: l, k, x =>
    if k = k' then (k, x) :: l
    else if k < k' then (k, x) :: (k', v) :: l
    else (k', v) :: Store.insert l k x

/-- The table with a key set: writing the default takes the entry out, so equal tables are equal data. -/
def Store.set {α : Type} [DecidableEq α] (d : α) (l : Store α) (k : Nat) (x : α) : Store α :=
  if x = d then Store.erase l k else Store.insert l k x

/-- The canonical form of a table: keys strictly rising, above a bound, and no default listed. -/
def Store.okAbove {α : Type} [DecidableEq α] (d : α) : Nat → Store α → Bool
  | _, [] => true
  | b, (k, v) :: l => decide (b ≤ k) && decide (v ≠ d) && Store.okAbove d (k + 1) l

/-- The canonical form of a table. -/
def Store.wf {α : Type} [DecidableEq α] (d : α) (l : Store α) : Bool := Store.okAbove d 0 l

/-- Every key of a list set to one function of the key. -/
def Store.setAll {α : Type} [DecidableEq α] (d : α) (f : Nat → α) : List Nat → Store α → Store α
  | [], l => l
  | k :: ks, l => Store.setAll d f ks (Store.set d l k (f k))

/-- The value of a list at a position, 0 where there is none. -/
def nth0 {w : Nat} (l : List (BitVec w)) (i : Nat) : BitVec w := l.getD i 0#w

/-- A number split into `n` little-endian bytes (R6). -/
def toBytes (x : Nat) : Nat → List Byte
  | 0 => []
  | n + 1 => BitVec.ofNat 8 x :: toBytes (x / 256) n

/-- Little-endian bytes as a number (R6). -/
def ofBytes : List Byte → Nat
  | [] => 0
  | b :: l => b.toNat + 256 * ofBytes l

/-- Little-endian words of `w` bits as a number: word 0 lowest (R71, R75). -/
def ofWords (w : Nat) : List Nat → Nat
  | [] => 0
  | x :: l => x % 2 ^ w + 2 ^ w * ofWords w l

/-- Ceiling division. -/
def ceilDiv' (a b : Nat) : Nat := (a + b - 1) / b

/-- The first entry of a list that answers, by structural recursion. -/
def firstSome {α β : Type} (f : α → Option β) : List α → Option β
  | [] => none
  | x :: l => match f x with
    | some y => some y
    | none => firstSome f l

/-- Replace the first element that meets a test. -/
def replaceFirst {α : Type} (p : α → Bool) (f : α → α) : List α → List α
  | [] => []
  | x :: l => if p x then f x :: l else x :: replaceFirst p f l

end Sys2Proof
end

