-- ==== Sys2Proof/Config.lean ====
section
/-! DEFINITION. What an implementation fixes, and the free values: constants without a body, so that no proof can
see what they are (log entry 2). -/

namespace Sys2Proof

/-- The free values that stand for times the spec leaves open (R194, R217, R221, R273, R283, R314): a number for each
use, drawn by the counter `State.free`. No body: any value. -/
opaque Config.freeNat : Nat → Nat

/-- The last bit of the elementary functions (R68, within 1 ulp): of the two representable neighbours of the exact
result, true takes the one above. By function (0 FRCP, 1 FEXP2, 2 FLOG2, 3 FSIN, 4 FCOS) and operand, since every core
returns the same bits for the same argument. No body. -/
opaque Config.roundUp : Nat → Word → Bool

/-- A tie in MK8 between two codes whose bit 0 is the same (between 2^15 and 2^16, and between 2^-17 and 2^-16), of
which R52 names neither: true takes the larger magnitude. By sign and the exponent of the smaller. No body. -/
opaque Config.mkTieUp : Bool → Int → Bool

/-- PKG of CORE_ID, set by firmware (R40): the package's number in its pod. No body. -/
opaque Config.pkgNumber : BitVec 6

/-- While an entry of a translation table that was valid is changed, a translation uses the old entry, which a TLB or a walk
cache still holds, or the new one (R330): true uses the old one. By the counter of the free values and the 64 KB unit. No
body. -/
opaque Config.keepsOld : Nat → Nat → Bool

/-- Whether the package that a KIND 2 address names belongs to the pod (R344): which packages form one is no register of
the device. No body. -/
opaque Config.inPod : Nat → Bool

/-- Whether a package has members of the pod barrier with a tag (R298, R345). No body. -/
opaque Config.podMember : Nat → Nat → Bool

/-- The place in the lending pool of a block that a ring has been lent (R281, R300, R347): by the ring's number and the
count of its blocks. Firmware chooses it. No body. -/
opaque Config.lentBlock : Nat → Nat → Nat

/-- Free blocks of the lending pool of each die when the distributor starts (R281, R347 stage 4): firmware lends
them. DESIGN CHOICE (log 4). -/
def Config.lendBlocks : Nat := 4096

end Sys2Proof
end

