-- ==== Sys2Proof/Syntax.lean ====
section
/-! DEFINITION. The instructions and steps of the K16: one constructor of `Instr` per row of the opcode table.

Slot instructions carry the fields of their encoding (03_bundle_encoding.md, R84 to R101); the machine's own steps
(95_what_each_step_holds.md) carry what they act on. -/

namespace Sys2Proof

/-- The guard of a C, E or scalar-guarded M slot: guard true when `sp XOR sense = 1` (R81). -/
structure SGuard where
  sp : BitVec 3
  sense : Bool
  deriving DecidableEq, Repr

/-- The two scalar slots (R75). -/
inductive SSlot where
  | s0
  | s1
  deriving DecidableEq, Repr

/-- The two vector slots (R75). -/
inductive VSlot where
  | v0
  | v1
  deriving DecidableEq, Repr

/-- Guard and slot of a scalar operation (R86): true sense only. -/
structure SHead where
  slot : SSlot
  sp : BitVec 3
  deriving DecidableEq, Repr

/-- The fields of a vector slot (R88), opcode apart. -/
structure VOp where
  slot : VSlot
  mask : BitVec 8
  gp : BitVec 4
  gs : Bool
  dst : BitVec 10
  src1 : BitVec 10
  src2 : BitVec 10
  d : Bool
  type : BitVec 4
  sat : Bool
  rnd : BitVec 2
  kind : BitVec 2
  deriving DecidableEq, Repr

/-- The head of an M slot (R95), opcode apart. -/
structure MHead where
  gk : Bool
  gn : BitVec 4
  gs : Bool
  d : Bool
  mask : BitVec 8
  deriving DecidableEq, Repr

/-- Format MV (R96). -/
structure MvOp where
  head : MHead
  v : BitVec 10
  base : BitVec 4
  off : BitVec 16
  type : BitVec 4
  pi : Bool
  deriving DecidableEq, Repr

/-- Format MS (R96). -/
structure MsOp where
  head : MHead
  s : BitVec 6
  base : BitVec 4
  off : BitVec 16
  type : BitVec 4
  pi : Bool
  deriving DecidableEq, Repr

/-- Format MX (R96). -/
structure MxOp where
  head : MHead
  data : BitVec 10
  index : BitVec 10
  base : BitVec 4
  type : BitVec 4
  deriving DecidableEq, Repr

/-- Format MM (R96). -/
structure MmOp where
  head : MHead
  m : BitVec 5
  dir : BitVec 2
  ki : Bool
  k : BitVec 6
  base : BitVec 4
  off : BitVec 16
  deriving DecidableEq, Repr

/-- Format MA (R96). -/
structure MaOp where
  head : MHead
  dst : BitVec 6
  src : BitVec 6
  addr : BitVec 4
  aop : BitVec 4
  cmp : BitVec 6
  type : BitVec 4
  deriving DecidableEq, Repr

/-- Format MB (R96). -/
structure MbOp where
  head : MHead
  q : BitVec 4
  kind : BitVec 2
  addr : BitVec 4
  deriving DecidableEq, Repr

/-- Format MC (R96). -/
structure McOp where
  head : MHead
  tl : BitVec 5
  addr : BitVec 4
  s : BitVec 6
  deriving DecidableEq, Repr

/-- The head of an E slot (R93), opcode and BEATS apart. -/
structure EHead where
  guard : SGuard
  d : Bool
  beats : BitVec 8
  deriving DecidableEq, Repr

/-- Format EM (R93). -/
structure EmOp where
  head : EHead
  acc : BitVec 6
  dir : BitVec 2
  areg : BitVec 5
  ax : BitVec 4
  ay : BitVec 4
  mode : BitVec 2
  tri : Bool
  sl : BitVec 2
  ovr : Bool
  deriving DecidableEq, Repr

/-- Format EX (R93). -/
structure ExOp where
  head : EHead
  addr : BitVec 4
  q : BitVec 4
  qn : Bool
  query : BitVec 6
  deriving DecidableEq, Repr

/-- Who acts on a control-window register or on what firmware keeps beside it: firmware or the host writes it (R11, R340);
firmware opens it to the host or closes it (R340); firmware sets the root of the address space that the offset numbers, in
units of 256 bytes (R326); whoever puts an image into memory says how long it is, in bytes, 0 for no end (R125, log 58); a
sensor sets what it reads (R349); firmware saves the context that is out on the core whose
block holds the offset, under the word as its name, or restores the one of that name (R244). -/
inductive Actor where
  | firmware
  | host
  | opens
  | closes
  | root
  | image
  | sensor
  | saves
  | restores
  deriving DecidableEq, Repr

/-- What a host access goes to: the memory window, the control window, the mailbox space (R340), or the host's own memory
(R343). -/
inductive HostSpace where
  | window
  | control
  | mailbox
  | own
  deriving DecidableEq, Repr

/-- Where a host access goes: an offset in a space. -/
structure HostPlace where
  space : HostSpace
  off : Nat
  deriving DecidableEq, Repr

/-- What arrives over a link (R344): a write at an address of this package, or a message to the mailbox registered there. -/
inductive LinkPlace where
  | memory (addr : Nat)
  | mailbox (addr : Nat)
  deriving DecidableEq, Repr

/-- What fails in a stack (R348): a channel, or the 256-byte unit that holds an address. -/
inductive Failed where
  | channel (n : BitVec 5)
  | unit (addr : Nat)
  deriving DecidableEq, Repr

/-- One constructor per row of the opcode table. Operand names follow the table's fields. -/
inductive Instr where
  -- steps of the sequencer
  | bundleIssue (core : Nat)
  | nullifierSkip (core : Nat)
  | markCommit (core : Nat)
  | markDistanceTrap (core : Nat)
  | fpTrap (core : Nat)
  | rollback (core : Nat)
  -- control slot (R85)
  | nop (g : SGuard)
  | br (g : SGuard) (t : BitVec 15)
  | brx (g : SGuard) (n : BitVec 6)
  | call (g : SGuard) (t : BitVec 15)
  | ret (g : SGuard)
  | loop (g : SGuard) (c : BitVec 10) (e : BitVec 12)
  | loops (g : SGuard) (n : BitVec 6) (e : BitVec 12)
  | loopsW (g : SGuard) (n : BitVec 6) (e : BitVec 12)
  | brk (g : SGuard)
  | halt (g : SGuard)
  | trap (g : SGuard) (k : BitVec 16)
  | wait (g : SGuard) (t : BitVec 5) (n : BitVec 6)
  | waitRel (g : SGuard) (t : BitVec 5) (i : BitVec 10)
  | waito (g : SGuard) (t : BitVec 5) (n : BitVec 6)
  | waitoImm (g : SGuard) (t : BitVec 5) (i : BitVec 10)
  | waitSatisfied (core : Nat)
  | bar (g : SGuard) (c : BitVec 3)
  | barrierRelease (inst : Nat)
  | yield (g : SGuard)
  | shutc (g : SGuard) (h : BitVec 1)
  | shutd (g : SGuard) (h : BitVec 1)
  | sysrd (g : SGuard) (n : BitVec 6) (r : BitVec 12)
  | syswr (g : SGuard) (n : BitVec 6) (r : BitVec 12)
  | launch (g : SGuard) (n : BitVec 6) (t : BitVec 5)
  | relaunch (g : SGuard) (n : BitVec 6) (t : BitVec 5)
  | trace (g : SGuard) (n : BitVec 6) (t : BitVec 5)
  -- scalar slots (R87)
  | add (g : SHead) (d a b : BitVec 6)
  | sub (g : SHead) (d a b : BitVec 6)
  | mul (g : SHead) (d a b : BitVec 6)
  | mulh (g : SHead) (d a b : BitVec 6)
  | and (g : SHead) (d a b : BitVec 6)
  | or (g : SHead) (d a b : BitVec 6)
  | xor (g : SHead) (d a b : BitVec 6)
  | andn (g : SHead) (d a b : BitVec 6)
  | shl (g : SHead) (d a b : BitVec 6)
  | shlImm (g : SHead) (d a : BitVec 6) (k : BitVec 5)
  | shr (g : SHead) (d a b : BitVec 6)
  | shrImm (g : SHead) (d a : BitVec 6) (k : BitVec 5)
  | sar (g : SHead) (d a b : BitVec 6)
  | sarImm (g : SHead) (d a : BitVec 6) (k : BitVec 5)
  | min (g : SHead) (d a b : BitVec 6)
  | max (g : SHead) (d a b : BitVec 6)
  | sel (g : SHead) (d a : BitVec 6) (p : BitVec 3) (b : BitVec 6)
  | popc (g : SHead) (d a : BitVec 6)
  | clz (g : SHead) (d a : BitVec 6)
  | addi (g : SHead) (d a : BitVec 6) (i : BitVec 10)
  | andi (g : SHead) (d a : BitVec 6) (i : BitVec 10)
  | ori (g : SHead) (d a : BitVec 6) (i : BitVec 10)
  | xori (g : SHead) (d a : BitVec 6) (i : BitVec 10)
  | movi (g : SHead) (d : BitVec 6) (i : BitVec 16)
  | movhi (g : SHead) (d : BitVec 6) (i : BitVec 16)
  | mova (g : SHead) (a : BitVec 4) (n : BitVec 6)
  | movaD (g : SHead) (a : BitVec 4) (n : BitVec 6) (l : BitVec 3)
  | movs (g : SHead) (d : BitVec 6) (a : BitVec 4)
  | pset (g : SHead) (p : BitVec 3) (a : BitVec 6) (b : BitVec 5)
  | bext (g : SHead) (d a : BitVec 6) (q w : BitVec 5)
  | bins (g : SHead) (d a : BitVec 6) (q w : BitVec 5)
  | cmp (g : SHead) (c : BitVec 3) (p : BitVec 3) (a b : BitVec 6)
  | cmpi (g : SHead) (c : BitVec 3) (p : BitVec 3) (a : BitVec 6) (i : BitVec 10)
  -- vector slots (R91)
  | vadd (o : VOp)
  | vsub (o : VOp)
  | vmul (o : VOp)
  | vmulh (o : VOp)
  | vmad (o : VOp)
  | vabs (o : VOp)
  | vmin (o : VOp)
  | vmax (o : VOp)
  | vand (o : VOp)
  | vor (o : VOp)
  | vxor (o : VOp)
  | vshl (o : VOp)
  | vshr (o : VOp)
  | vsar (o : VOp)
  | vpopc (o : VOp)
  | vclz (o : VOp)
  | vsel (o : VOp)
  | vcmp (c : BitVec 3) (o : VOp)
  | fadd (o : VOp)
  | fsub (o : VOp)
  | fmul (o : VOp)
  | ffma (o : VOp)
  | fmin (o : VOp)
  | fmax (o : VOp)
  | fclass (o : VOp)
  | fdiv (o : VOp)
  | fsqrt (o : VOp)
  | frcp (o : VOp)
  | fexp2 (o : VOp)
  | flog2 (o : VOp)
  | fsin (o : VOp)
  | fcos (o : VOp)
  | frnd (o : VOp)
  | fcmp (c : BitVec 3) (o : VOp)
  | cvt (o : VOp)
  | dsplit (o : VOp)
  | qpack (o : VOp)
  | qunpack (o : VOp)
  | vimm (o : VOp)
  | vmov (o : VOp)
  | vbcast (o : VOp)
  | vmovs (o : VOp)
  | vshuf (o : VOp)
  | vxcl (o : VOp)
  | vlane (o : VOp)
  | vred (o : VOp)
  | rdrain (o : VOp)
  | vmrd (o : VOp)
  | vmwr (o : VOp)
  -- memory slot (R97)
  | ldv (o : MvOp)
  | stv (o : MvOp)
  | lds (o : MsOp)
  | sts (o : MsOp)
  | ldx (o : MxOp)
  | stx (o : MxOp)
  | ldt (o : MvOp)
  | stt (o : MvOp)
  | ldm (o : MmOp)
  | stm (o : MmOp)
  | amo (o : MaOp)
  | fence (h : MHead) (set : BitVec 2)
  | bind (o : MbOp)
  | unbind (o : MbOp)
  | cbset (o : MbOp)
  | copy (o : McOp)
  | copyo (o : McOp)
  | gatherp (o : McOp)
  | mpost (o : McOp)
  | tqpush (o : McOp)
  | streamPushLand (core : Nat)
  -- engine slot (R94) and its steps
  | mma (o : EmOp)
  | mmaSplit (o : EmOp)
  | mmas (o : EmOp)
  | mmaRepeat (core : Nat)
  | mmaComplete (core : Nat)
  | mzero (h : EHead) (acc : BitVec 6)
  | mdrain (h : EHead) (acc : BitVec 6) (m : BitVec 5) (type : BitVec 4) (rows : BitVec 6)
  | mdrainComplete (core : Nat)
  | mbsel (h : EHead) (a : BitVec 4)
  | fmtt (h : EHead) (e : BitVec 4) (n : BitVec 6)
  | pload (h : EHead) (a : BitVec 4) (n : BitVec 8)
  | ploadStart (core : Nat)
  | ploadComplete (core : Nat)
  | prun (h : EHead) (bank : BitVec 6) (index : BitVec 8)
  | paneRunStart (core : Nat)
  -- pane micro-operations (R98 to R100), executed by the pane sequencer of the current core
  | wact (x y : Bool) (a b : BitVec 8)
  | wwb (l p : Bool) (f : BitVec 3) (r : BitVec 8)
  | wlat (l t : Bool) (c : BitVec 2) (r : BitVec 8)
  | wbr (t c : BitVec 8) (k : BitVec 4)
  | wend
  | arbitrationWindow (core : Nat)
  | paneRunComplete (core : Nat)
  -- facet engine and stack search units
  | fsel (o : ExOp)
  | fselm (o : ExOp)
  | fins (o : ExOp)
  | fupd (o : ExOp)
  | fdel (o : ExOp)
  | fspill (o : ExOp)
  | ffill (o : ExOp)
  | fclr (o : ExOp)
  | ssq (o : ExOp)
  | facetCommandStart (core : Nat)
  | facetMerge (core : Nat)
  | ssuRequest (core : Nat)
  | ssuScan (core : Nat) (unit : Nat)
  | spillVisible (core : Nat)
  | fillTransitEnd (core : Nat)
  | facetCommandComplete (core : Nat)
  -- copy engines
  | copyRow (op : Nat)
  | pageWalk (op : Nat)
  | copyComplete (op : Nat)
  -- distributor
  | launchAccept (id : Nat)
  | relaunchRun (id : Nat)
  | relaunchComplete (id : Nat)
  | traceComplete (id : Nat)
  | launchComplete (id : Nat)
  | distributorPlace
  | dieReport
  | tickAdvance
  | runmaxBreach (level : Nat)
  | taskStart (core : Nat)
  | taskRetire (core : Nat)
  | lentSlotMove (queue : Nat)
  | swapRequest (core : Nat)
  | quantumExpiry (core : Nat)
  | contextSwap (core : Nat)
  | park (core : Nat)
  | waitTableWake (core : Nat)
  | mailboxRegister (slot : Nat) (va : Nat) (queue : Nat) (n : Nat) (ring : Nat) (asid : Nat) (handler : List Word)
  | mailboxAccept (slot : Nat)
  | hostMessage (slot : Nat) (words : List Word)
  | hostMemoryWrite (place : HostPlace) (bytes : List Byte)
  | hostMemoryRead (place : HostPlace) (n : Nat)
  | stampedWriteApply (die : Nat)
  | frontierPublish (die : Nat)
  | replicatedWrite (id : Nat)
  | linkIngressWrite (die : Nat) (place : LinkPlace) (bytes : List Byte)
  | linkReplay (link : Nat)
  | coreResume (core : Nat)
  | taskKill (core : Nat)
  | cwinWrite (core : Nat) (w : Word)
  | cpartWrite (core : Nat) (w : Word)
  | cfstatWrite (core : Nat) (n : BitVec 3) (w : Word)
  | spdatRead (core : Nat)
  | spdatWrite (core : Nat) (w : Word)
  | ticklenWrite (w : Word)
  | slipLogPop
  | tlbInvalidate (die : Nat)
  | tlbInvalidateAsid (die : Nat)
  | splinter (die : Nat)
  | invalidationComplete (die : Nat)
  | faultRetry (die : Nat) (tag : BitVec 6)
  | faultRefuse (die : Nat) (tag : BitVec 6)
  | faultLogPop (die : Nat)
  | trsbaseWrite (w : Word)
  | registerWrite (actor : Actor) (die : Nat) (off : Nat) (w : Word)
  | deviceReset
  | powerOn
  | bootStageAdvance (die : Nat)
  | recoveryImage (die : Nat) (verified : Bool)
  | channelFence (stack : BitVec 4) (failed : Failed)
  | softErrorCorrect (die : Nat)
  | powerThrottle (blocks : Nat)
  | thermalTrip (die : Nat)
  | packageRestart (temp : Nat)
  | routeReturn (die : Nat) (pkg : Nat)
  | hostLinkDown
  | firmwareMemoryWrite (die : Nat) (addr : Nat) (bytes : List Byte)
  deriving DecidableEq, Repr

end Sys2Proof
end

