-- ==== Sys2Proof/WellFormed.lean ====
section
/-! DEFINITION. Which instructions the hardware accepts: the checks the bits of one slot decide (R74, R84 to R101).

A check is in `wfHigh` when the field that breaks it lies in the upper syllable of a 64-bit slot, and in `wfLow`
otherwise, so that the trap record can name the lowest failing syllable (R238). Checks that need two slots are in
Decode.lean (`Bundle.wf`). -/

namespace Sys2Proof

/-- How a vector instruction uses SRC2 (R92). -/
inductive Src2Use where
  | operand   -- a source operand by KIND 0, 1, 2
  | zero      -- must be zero, KIND 0
  | control   -- a control value by KIND 1 or 2
  | index     -- the index k of a matrix operand, by KIND 1 or 2
  | value     -- VMOVS: the value itself, by KIND 1 or 2
  | cvtType   -- CVT: the destination type code, KIND 0
  | imm       -- VIMM: the low half of the immediate, KIND 0
  deriving DecidableEq, Repr

/-- How a vector instruction uses SRC1 (R92, R154). -/
inductive Src1Use where
  | operand
  | register
  | zero
  | latch
  | matrix
  | imm
  deriving DecidableEq, Repr

/-- How a vector instruction uses DST (R92, R154). -/
inductive DstUse where
  | operand
  | register
  | pred
  | latch
  | matrix
  deriving DecidableEq, Repr

/-- What the entry of a vector instruction accepts (R157 to R172). -/
structure VRule where
  types : List Nat
  sat : Bool
  rnd : Bool
  src2 : Src2Use
  dst : DstUse
  src1 : Src1Use
  deriving DecidableEq, Repr

/-- Is a type code of R44 a floating format? -/
def isFloatType (t : Nat) : Bool := decide (8 ≤ t) && decide (t ≤ 13)

/-- The rule of each vector instruction and its fields; none for the others. -/
def vRule : Instr → Option (VRule × VOp)
  | .vadd o | .vsub o | .vmul o | .vshl o => some (⟨[0,1,2,3,4,5,6,7], true, false, .operand, .operand, .operand⟩, o)
  | .vmad o => some (⟨[0,1,2,3,4,5,6,7], true, false, .operand, .register, .operand⟩, o)
  | .vmulh o | .vmin o | .vmax o | .vand o | .vor o | .vxor o | .vshr o | .vsar o =>
    some (⟨[0,1,2,3,4,5,6,7], false, false, .operand, .operand, .operand⟩, o)
  | .vabs o => some (⟨[0,2,4,6], true, false, .zero, .operand, .operand⟩, o)
  | .vpopc o | .vclz o => some (⟨[0,1,2,3,4,5,6,7], false, false, .zero, .operand, .operand⟩, o)
  | .vsel o => some (⟨[4,10], false, false, .operand, .operand, .operand⟩, o)
  | .vcmp _ o => some (⟨[4,5], false, false, .operand, .pred, .operand⟩, o)
  | .fadd o | .fsub o | .fmul o => some (⟨[8,9,10], false, true, .operand, .operand, .operand⟩, o)
  | .ffma o => some (⟨[8,9,10], false, true, .operand, .register, .operand⟩, o)
  | .fmin o | .fmax o => some (⟨[8,9,10], false, false, .operand, .operand, .operand⟩, o)
  | .fclass o => some (⟨[8,9,10], false, false, .zero, .operand, .operand⟩, o)
  | .frnd o => some (⟨[8,9,10], false, true, .zero, .operand, .operand⟩, o)
  | .fcmp _ o => some (⟨[9,10], false, false, .operand, .pred, .operand⟩, o)
  | .fdiv o => some (⟨[9,10], false, true, .operand, .operand, .operand⟩, o)
  | .fsqrt o => some (⟨[9,10], false, true, .zero, .operand, .operand⟩, o)
  | .frcp o | .fexp2 o | .flog2 o | .fsin o | .fcos o => some (⟨[9], false, false, .zero, .operand, .operand⟩, o)
  | .cvt o => some (⟨[0,1,2,3,4,5,6,7,8,9,10,11,12,13], true, true, .cvtType, .operand, .operand⟩, o)
  | .dsplit o => some (⟨[10], false, false, .control, .register, .register⟩, o)
  | .qpack o | .qunpack o => some (⟨[9], false, true, .control, .register, .register⟩, o)
  | .vimm o => some (⟨[0,1,2,3,4,5,6,7,8,9,10,11,12,13], false, false, .imm, .operand, .imm⟩, o)
  | .vmov o => some (⟨[4,10], false, false, .zero, .operand, .operand⟩, o)
  | .vbcast o => some (⟨[4,10], false, false, .control, .operand, .operand⟩, o)
  | .vmovs o => some (⟨[4], false, false, .value, .operand, .zero⟩, o)
  | .vshuf o => some (⟨[4], false, false, .control, .operand, .operand⟩, o)
  | .vxcl o => some (⟨[4], false, false, .control, .operand, .register⟩, o)
  | .vlane o => some (⟨[4], false, false, .control, .operand, .zero⟩, o)
  | .vred o => some (⟨[4,9,10], false, false, .zero, .latch, .operand⟩, o)
  | .rdrain o => some (⟨[4,9,10], false, false, .zero, .operand, .latch⟩, o)
  | .vmrd o => some (⟨[4], false, false, .index, .operand, .matrix⟩, o)
  | .vmwr o => some (⟨[4], false, false, .index, .matrix, .operand⟩, o)
  | _ => none

/-- A matrix operand in 10 bits: direction not 0b11, [7:5] zero (R82, R92). -/
def matrixFieldOk (x : Nat) : Bool := decide (field x 8 2 ≠ 3) && decide (field x 5 3 = 0)

/-- A control value that stands for something (R153, R164 to R169), for the instruction and its TYPE. -/
def controlOk (i : Instr) (c : Nat) : Bool :=
  match i with
  | .dsplit _ => decide (c < 3)
  | .qpack _ | .qunpack _ => decide (c / 32 = 0) && (decide (c % 16 = 11) || decide (c % 16 = 12) || decide (c % 16 = 13))
  | .vbcast o => decide (c / 16 = 0) && (decide (o.type.toNat ≠ 10) || decide (c % 2 = 0))
  | .vshuf _ => decide (c / 128 = 0) && decide (c / 16 ≤ 4) && (decide (c / 16 < 2) || decide (c % 16 = 0))
  | .vxcl _ => decide (c / 16 = 0)
  | .vlane _ => decide (c < 3)
  | _ => true

/-- The registers a vector instruction names beside DST and SRC1 (R152, R164 to R166), as register numbers. -/
def companions (i : Instr) : List Nat :=
  match i with
  | .dsplit o => [o.dst.toNat + 1]
  | .qpack o => [o.dst.toNat + 1, o.src1.toNat + 1, o.src1.toNat + 2, o.src1.toNat + 3]
  | .qunpack o => [o.src1.toNat + 1, o.dst.toNat + 1, o.dst.toNat + 2, o.dst.toNat + 3]
  | _ => []

/-- The SRC2 checks of R89, R92, R153. -/
def vSrc2Ok (i : Instr) (r : VRule) (o : VOp) : Bool :=
  let x := o.src2.toNat
  let k := o.kind.toNat
  let t := o.type.toNat
  match r.src2 with
  | .operand =>
    match k with
    | 0 => decide (x < 792)
    | 1 => decide (x / 64 = 0) && decide (t ≠ 10)
    | 2 => !isFloatType t
    | _ => false
  | .zero => decide (k = 0) && decide (x = 0)
  | .control => (decide (k = 1) && decide (x / 64 = 0)) || (decide (k = 2) && controlOk i x)
  | .index => (decide (k = 1) && decide (x / 64 = 0)) || (decide (k = 2) && decide (x < 64))
  | .value => (decide (k = 1) && decide (x / 64 = 0)) || decide (k = 2)
  | .cvtType => decide (k = 0) && decide (x / 16 = 0) && decide (x ≤ 13) && decide (x ≠ t)
  | .imm => decide (k = 0)

/-- The SRC1 checks of R82, R92, R154, R167. -/
def vSrc1Ok (r : VRule) (o : VOp) : Bool :=
  let x := o.src1.toNat
  match r.src1 with
  | .operand => decide (x < 792)
  | .register => decide (x < 768)
  | .zero => decide (x = 0)
  | .latch => decide (x < 4)
  | .matrix => matrixFieldOk x
  | .imm =>
    let e := x * 1024 + o.src2.toNat
    match o.type.toNat with
    | 8 => decide (e < 65536)
    | 11 => decide (e < 256)
    | 13 => decide (e < 256)
    | 12 => decide (e < 16)
    | _ => true

/-- SAT and RND by R88 and the entry; for CVT by R163. A modifier that the entry or the type gives no meaning is illegal
(log 125). -/
def vModifiersOk (i : Instr) (r : VRule) (o : VOp) : Bool :=
  let fl := match i with
    | .cvt _ => isFloatType o.type.toNat || isFloatType o.src2.toNat
    | _ => isFloatType o.type.toNat
  let satOk := !o.sat || (r.sat && !fl)
  let rndOk := decide (o.rnd = 0#2) || (r.rnd && fl)
  let dOk := !o.d || (!o.sat && decide (o.rnd = 0#2) && decide (o.kind = 0#2))
  satOk && rndOk && dOk

/-- The checks on the low syllable of a vector slot. -/
def vLowOk (i : Instr) (r : VRule) (o : VOp) : Bool :=
  r.types.contains o.type.toNat && vSrc2Ok i r o && vSrc1Ok r o && vModifiersOk i r o

/-- The checks on the high syllable of a vector slot: MASK, guard and destination. -/
def vHighOk (i : Instr) (r : VRule) (o : VOp) : Bool :=
  let x := o.dst.toNat
  let dstOk := match r.dst with
    | .operand => decide (x < 784)
    | .register => decide (x < 768)
    | .pred => decide (x < 16)
    | .latch => decide (x < 4)
    | .matrix => matrixFieldOk x
  let guardOk := match i with
    | .dsplit _ | .qpack _ | .qunpack _ => decide (o.gp = 0#4)
    | _ => true
  let maskOk := match i with
    | .vmwr _ => decide (o.mask.toNat % 16 &&& o.mask.toNat / 16 = 0)
    | _ => true
  let ccOk := match i with
    | .vcmp c _ => decide (c.toNat < 6)
    | _ => true
  decide (o.mask ≠ 0#8) && dstOk && guardOk && maskOk && ccOk && (companions i).all (fun c => decide (c ≤ 767))

/-- The head of an M slot: GK and MASK only with the vector formats; a scalar guard is below sp8 (R81, R95). -/
def mHeadOk (h : MHead) (vector : Bool) : Bool :=
  if vector then decide (h.mask ≠ 0#8) && (h.gk || decide (h.gn.toNat < 8))
  else decide (h.mask = 0#8) && !h.gk && decide (h.gn.toNat < 8)

/-- A one-beat engine command encodes BEATS = 0 (R94). -/
def eOneBeat (h : EHead) : Bool := decide (h.beats = 0#8)

/-- The checks on the low syllable (the only one of a 32-bit slot). -/
def wfLow (i : Instr) : Bool :=
  match i with
  | .wait _ _ n => decide (n.toNat % 2 = 0)
  | .loopsW _ n _ => decide (n.toNat ≠ 63)
  | .bar _ c => decide (1 ≤ c.toNat) && decide (c.toNat ≤ 4)
  | .launch _ _ t | .relaunch _ _ t | .trace _ _ t => decide (4 ≤ t.toNat)
  | .movaD _ _ _ l => decide (l.toNat ≤ 5)
  | .bext _ _ _ q w | .bins _ _ _ q w => decide (q.toNat + w.toNat + 1 ≤ 32)
  | .ldv o | .stv o => decide (o.type = 4#4) && (!o.head.d || !o.pi)
  | .ldt o | .stt o => decide (o.type.toNat ≤ 5) && (!o.head.d || !o.pi)
  | .lds o | .sts o => decide (o.type.toNat ≤ 5) && (!o.head.d || !o.pi)
  | .ldx o => decide (o.type.toNat ≤ 5) && (decide (o.index.toNat < 768) || (decide (784 ≤ o.index.toNat) && decide (o.index.toNat < 792)))
  | .stx o => decide (o.type.toNat ≤ 5) && (decide (o.index.toNat < 768) || (decide (784 ≤ o.index.toNat) && decide (o.index.toNat < 792)))
  | .amo o => (decide (o.type = 4#4) || decide (o.type = 5#4)) && decide (o.aop.toNat ≤ 9) && (decide (o.aop = 9#4) || decide (o.cmp = 0#6))
  | .mma o => decide (o.mode = 0#2) && !o.tri && decide (o.sl = 0#2) && (!o.head.d || !o.ovr)
  | .mmaSplit o => decide (o.mode = 3#2) && decide (o.sl.toNat ≤ 2) && (!o.head.d || (!o.ovr && !o.tri))
  | .mmas o => (decide (o.mode = 1#2) || decide (o.mode = 2#2)) && !o.tri && decide (o.sl = 0#2) && (!o.head.d || !o.ovr)
  | .mdrain _ _ _ t _ => decide (t.toNat ≤ 13)
  | .fins o | .fupd o | .fdel o | .fspill o | .ffill o | .fclr o => decide (o.query = 0#6)
  | i => match vRule i with
    | some (r, o) => vLowOk i r o
    | none => true

/-- The checks on the high syllable of a 64-bit slot. -/
def wfHigh (i : Instr) : Bool :=
  match i with
  | .ldv o | .ldt o => mHeadOk o.head true && decide (o.v.toNat < 784)
  | .stv o | .stt o => mHeadOk o.head true && decide (o.v.toNat < 792)
  | .lds o | .sts o => mHeadOk o.head false
  | .ldx o => mHeadOk o.head true && decide (o.data.toNat < 784)
  | .stx o => mHeadOk o.head true && decide (o.data.toNat < 792)
  | .ldm o | .stm o => mHeadOk o.head false && decide (o.dir ≠ 3#2)
  | .amo o => mHeadOk o.head false
  | .fence h set => mHeadOk h false && decide (set ≠ 3#2)
  | .bind o => mHeadOk o.head false
  | .unbind o => mHeadOk o.head false && decide (o.kind = 0#2) && decide (o.addr = 0#4)
  | .cbset o => mHeadOk o.head false && decide (o.kind = 0#2)
  | .copy o | .copyo o | .gatherp o | .mpost o | .tqpush o => mHeadOk o.head false && decide (4 ≤ o.tl.toNat)
  | .mma o | .mmas o => decide (o.acc.toNat ≤ 33) && decide (o.dir ≠ 3#2)
  | .mmaSplit o => decide (o.acc.toNat ≤ 31) && decide (o.dir ≠ 3#2)
  | .mzero h acc => eOneBeat h && decide (acc.toNat ≤ 33)
  | .mdrain h acc _ _ rows => decide (h.beats.toNat = 16 + rows.toNat) && decide (acc.toNat ≤ 31)
  | .mbsel h _ => eOneBeat h
  | .fmtt h _ _ => eOneBeat h
  | .pload h _ _ => eOneBeat h
  | .prun h _ _ => eOneBeat h
  | .fsel o | .fselm o | .ssq o => eOneBeat o.head && !o.qn
  | .fins o | .fupd o | .fdel o | .fspill o | .ffill o | .fclr o => eOneBeat o.head && o.qn && decide (o.q = 0#4)
  | i => match vRule i with
    | some (r, o) => vHighOk i r o
    | none => true

/-- An instruction the hardware accepts. -/
def wf (i : Instr) : Bool := wfLow i && wfHigh i

/-- A pane micro-operation that PLOAD accepts (R101): CUPD writes no row, so its row and RL are zero (R99). -/
def microOk (i : Instr) : Bool :=
  match i with
  | .wwb l _ f r => decide (f ≠ 6#3) || (!l && decide (r = 0#8))
  | _ => true

end Sys2Proof
end

