-- ==== Sys2Proof/Decode.lean ====
section
/-! DEFINITION. Decoding and encoding: indices and bundles (R70 to R80), slots (R84 to R97), micro-operations (R98 to R101).

A slot's decoder reads the fields of its opcode, and accepts the instruction only when it is well-formed and its own
encoding is the word it was read from; so a must-be-zero field that is not zero refuses the word. -/

namespace Sys2Proof

/-- Why a word is refused (R104). -/
inductive DecodeWhy where
  | unassigned   -- an opcode no table assigns
  | notEmpty     -- opcode 0 with other bits set (R76)
  | reserved     -- a must-be-zero field is not zero
  | illegal      -- a field value the entry does not accept
  | ports        -- matrix read ports over-subscribed (R80)
  | repeatRule   -- RPT on a slot that may not repeat, or more than 256 beats (R79)
  | latch        -- two latch operations on one latch in one bundle (R60, R92)
  deriving DecidableEq, Repr

/-- A refused word: why, and whether the lowest failing syllable is the upper one of its slot. -/
structure DecodeFault where
  why : DecodeWhy
  high : Bool
  deriving DecidableEq, Repr

/-- An `n`-bit field of a word at bit `lo`. -/
def fbits (x lo n : Nat) : BitVec n := BitVec.ofNat n (field x lo n)

/-- A one-bit field of a word. -/
def fbool (x lo : Nat) : Bool := decide (field x lo 1 = 1)

/-! ## Encoders -/

/-- Guard and sense of a C slot in [25:22] (R84). -/
def encCGuard (g : SGuard) : Nat := g.sp.toNat * 2 ^ 23 + b2n g.sense * 2 ^ 22

/-- The C slot word of a control instruction (R84, R85); 0 for an instruction of another slot. -/
def encodeC (i : Instr) : Nat :=
  match i with
  | .nop g => encCGuard g
  | .br g t => 0x01 * 2 ^ 26 + encCGuard g + t.toNat
  | .brx g n => 0x02 * 2 ^ 26 + encCGuard g + n.toNat * 2 ^ 16
  | .call g t => 0x03 * 2 ^ 26 + encCGuard g + t.toNat
  | .ret g => 0x04 * 2 ^ 26 + encCGuard g
  | .loop g c e => 0x05 * 2 ^ 26 + encCGuard g + c.toNat * 2 ^ 12 + e.toNat
  | .loops g n e => 0x06 * 2 ^ 26 + encCGuard g + n.toNat * 2 ^ 16 + e.toNat
  | .loopsW g n e => 0x06 * 2 ^ 26 + encCGuard g + n.toNat * 2 ^ 16 + 2 ^ 12 + e.toNat
  | .brk g => 0x07 * 2 ^ 26 + encCGuard g
  | .halt g => 0x08 * 2 ^ 26 + encCGuard g
  | .trap g k => 0x09 * 2 ^ 26 + encCGuard g + k.toNat
  | .wait g t n => 0x0A * 2 ^ 26 + encCGuard g + t.toNat * 2 ^ 17 + n.toNat * 2 ^ 10
  | .waitRel g t e => 0x0A * 2 ^ 26 + encCGuard g + t.toNat * 2 ^ 17 + 2 ^ 16 + e.toNat
  | .waito g t n => 0x0B * 2 ^ 26 + encCGuard g + t.toNat * 2 ^ 17 + n.toNat * 2 ^ 10
  | .waitoImm g t e => 0x0B * 2 ^ 26 + encCGuard g + t.toNat * 2 ^ 17 + 2 ^ 16 + e.toNat
  | .bar g c => 0x0C * 2 ^ 26 + encCGuard g + c.toNat * 2 ^ 19
  | .yield g => 0x0D * 2 ^ 26 + encCGuard g
  | .shutc g h => 0x0E * 2 ^ 26 + encCGuard g + h.toNat
  | .shutd g h => 0x0F * 2 ^ 26 + encCGuard g + h.toNat
  | .sysrd g n r => 0x10 * 2 ^ 26 + encCGuard g + n.toNat * 2 ^ 16 + r.toNat
  | .syswr g n r => 0x11 * 2 ^ 26 + encCGuard g + n.toNat * 2 ^ 16 + r.toNat
  | .launch g n t => 0x12 * 2 ^ 26 + encCGuard g + n.toNat * 2 ^ 16 + t.toNat * 2 ^ 11
  | .relaunch g n t => 0x13 * 2 ^ 26 + encCGuard g + n.toNat * 2 ^ 16 + t.toNat * 2 ^ 11
  | .trace g n t => 0x14 * 2 ^ 26 + encCGuard g + n.toNat * 2 ^ 16 + t.toNat * 2 ^ 11
  | _ => 0

/-- Opcode, guard, destination and source 1 of a scalar slot (R86). -/
def encS (op : Nat) (g : SHead) (d a : Nat) : Nat := op * 2 ^ 25 + g.sp.toNat * 2 ^ 22 + d * 2 ^ 16 + a * 2 ^ 10

/-- The scalar slot word of a scalar instruction (R86, R87); 0 for an instruction of another slot. -/
def encodeS (i : Instr) : Nat :=
  match i with
  | .add g d a b => encS 0x01 g d.toNat a.toNat + b.toNat
  | .sub g d a b => encS 0x02 g d.toNat a.toNat + b.toNat
  | .mul g d a b => encS 0x03 g d.toNat a.toNat + b.toNat
  | .mulh g d a b => encS 0x04 g d.toNat a.toNat + b.toNat
  | .and g d a b => encS 0x05 g d.toNat a.toNat + b.toNat
  | .or g d a b => encS 0x06 g d.toNat a.toNat + b.toNat
  | .xor g d a b => encS 0x07 g d.toNat a.toNat + b.toNat
  | .andn g d a b => encS 0x08 g d.toNat a.toNat + b.toNat
  | .min g d a b => encS 0x0C g d.toNat a.toNat + b.toNat
  | .max g d a b => encS 0x0D g d.toNat a.toNat + b.toNat
  | .shl g d a b => encS 0x09 g d.toNat a.toNat + b.toNat
  | .shlImm g d a k => encS 0x09 g d.toNat a.toNat + 2 ^ 9 + k.toNat
  | .shr g d a b => encS 0x0A g d.toNat a.toNat + b.toNat
  | .shrImm g d a k => encS 0x0A g d.toNat a.toNat + 2 ^ 9 + k.toNat
  | .sar g d a b => encS 0x0B g d.toNat a.toNat + b.toNat
  | .sarImm g d a k => encS 0x0B g d.toNat a.toNat + 2 ^ 9 + k.toNat
  | .sel g d a p b => encS 0x0E g d.toNat a.toNat + p.toNat * 2 ^ 7 + b.toNat
  | .popc g d a => encS 0x0F g d.toNat a.toNat
  | .clz g d a => encS 0x10 g d.toNat a.toNat
  | .addi g d a e => encS 0x11 g d.toNat a.toNat + e.toNat
  | .andi g d a e => encS 0x12 g d.toNat a.toNat + e.toNat
  | .ori g d a e => encS 0x13 g d.toNat a.toNat + e.toNat
  | .xori g d a e => encS 0x14 g d.toNat a.toNat + e.toNat
  | .movi g d e => encS 0x15 g d.toNat 0 + e.toNat
  | .movhi g d e => encS 0x16 g d.toNat 0 + e.toNat
  | .mova g a n => encS 0x17 g a.toNat n.toNat
  | .movaD g a n l => encS 0x17 g a.toNat n.toNat + 2 ^ 9 + l.toNat * 2 ^ 6
  | .movs g d a => encS 0x18 g d.toNat a.toNat
  | .pset g p a b => encS 0x19 g p.toNat a.toNat + b.toNat
  | .bext g d a q w => encS 0x1A g d.toNat a.toNat + q.toNat * 2 ^ 5 + w.toNat
  | .bins g d a q w => encS 0x1B g d.toNat a.toNat + q.toNat * 2 ^ 5 + w.toNat
  | .cmp g c p a b => encS (0x20 + c.toNat) g p.toNat a.toNat + b.toNat
  | .cmpi g c p a e => encS (0x28 + c.toNat) g p.toNat a.toNat + e.toNat
  | _ => 0

/-- The vector slot doubleword of an opcode and its fields (R88). -/
def encV (opc : Nat) (o : VOp) : Nat :=
  o.mask.toNat * 2 ^ 56 + o.gp.toNat * 2 ^ 52 + b2n o.gs * 2 ^ 51 + opc * 2 ^ 42 + o.dst.toNat * 2 ^ 32
    + o.src1.toNat * 2 ^ 22 + o.src2.toNat * 2 ^ 12 + b2n o.d * 2 ^ 11 + o.type.toNat * 2 ^ 7 + b2n o.sat * 2 ^ 6
    + o.rnd.toNat * 2 ^ 4 + o.kind.toNat * 2 ^ 2

/-- The vector slot doubleword of a vector instruction (R91); 0 for an instruction of another slot. -/
def encodeV (i : Instr) : Nat :=
  match i with
  | .vadd o => encV 0x001 o
  | .vsub o => encV 0x002 o
  | .vmul o => encV 0x003 o
  | .vmulh o => encV 0x004 o
  | .vmad o => encV 0x005 o
  | .vabs o => encV 0x006 o
  | .vmin o => encV 0x007 o
  | .vmax o => encV 0x008 o
  | .vand o => encV 0x009 o
  | .vor o => encV 0x00A o
  | .vxor o => encV 0x00B o
  | .vshl o => encV 0x00C o
  | .vshr o => encV 0x00D o
  | .vsar o => encV 0x00E o
  | .vpopc o => encV 0x00F o
  | .vclz o => encV 0x010 o
  | .vsel o => encV 0x011 o
  | .fadd o => encV 0x040 o
  | .fsub o => encV 0x041 o
  | .fmul o => encV 0x042 o
  | .ffma o => encV 0x043 o
  | .fmin o => encV 0x044 o
  | .fmax o => encV 0x045 o
  | .fclass o => encV 0x046 o
  | .fdiv o => encV 0x047 o
  | .fsqrt o => encV 0x048 o
  | .frcp o => encV 0x049 o
  | .fexp2 o => encV 0x04A o
  | .flog2 o => encV 0x04B o
  | .fsin o => encV 0x04C o
  | .fcos o => encV 0x04D o
  | .frnd o => encV 0x04E o
  | .cvt o => encV 0x060 o
  | .dsplit o => encV 0x061 o
  | .qpack o => encV 0x062 o
  | .qunpack o => encV 0x063 o
  | .vimm o => encV 0x064 o
  | .vmov o => encV 0x070 o
  | .vbcast o => encV 0x071 o
  | .vmovs o => encV 0x072 o
  | .vshuf o => encV 0x073 o
  | .vxcl o => encV 0x074 o
  | .vlane o => encV 0x075 o
  | .vred o => encV 0x076 o
  | .rdrain o => encV 0x077 o
  | .vmrd o => encV 0x078 o
  | .vmwr o => encV 0x079 o
  | .vcmp c o => encV (0x018 + c.toNat) o
  | .fcmp c o => encV (0x050 + c.toNat) o
  | _ => 0

/-- Opcode and head of an E slot (R93). -/
def encE (opc : Nat) (h : EHead) : Nat :=
  opc * 2 ^ 57 + h.guard.sp.toNat * 2 ^ 54 + b2n h.guard.sense * 2 ^ 53 + b2n h.d * 2 ^ 52 + h.beats.toNat * 2 ^ 44

/-- Format EM (R93). -/
def encEM (opc : Nat) (o : EmOp) : Nat :=
  encE opc o.head + o.acc.toNat * 2 ^ 38 + o.dir.toNat * 2 ^ 36 + o.areg.toNat * 2 ^ 31 + o.ax.toNat * 2 ^ 27
    + o.ay.toNat * 2 ^ 23 + o.mode.toNat * 2 ^ 21 + b2n o.tri * 2 ^ 20 + o.sl.toNat * 2 ^ 18 + b2n o.ovr * 2 ^ 17

/-- Format EX (R93). -/
def encEX (opc : Nat) (o : ExOp) : Nat :=
  encE opc o.head + o.addr.toNat * 2 ^ 40 + o.q.toNat * 2 ^ 36 + b2n o.qn * 2 ^ 35 + o.query.toNat * 2 ^ 29

/-- The E slot doubleword of an engine command (R94); 0 for an instruction of another slot. -/
def encodeE (i : Instr) : Nat :=
  match i with
  | .mma o => encEM 0x01 o
  | .mmaSplit o => encEM 0x01 o
  | .mmas o => encEM 0x02 o
  | .mzero h acc => encE 0x03 h + acc.toNat * 2 ^ 38
  | .mdrain h acc m t rows => encE 0x04 h + acc.toNat * 2 ^ 38 + m.toNat * 2 ^ 33 + t.toNat * 2 ^ 29 + rows.toNat * 2 ^ 23
  | .mbsel h a => encE 0x05 h + a.toNat * 2 ^ 40
  | .fmtt h e s => encE 0x06 h + e.toNat * 2 ^ 40 + s.toNat * 2 ^ 34
  | .pload h a n => encE 0x10 h + a.toNat * 2 ^ 40 + n.toNat * 2 ^ 32
  | .prun h b x => encE 0x11 h + b.toNat * 2 ^ 38 + x.toNat * 2 ^ 30
  | .fsel o => encEX 0x20 o
  | .fselm o => encEX 0x21 o
  | .fins o => encEX 0x22 o
  | .fupd o => encEX 0x23 o
  | .fdel o => encEX 0x24 o
  | .fspill o => encEX 0x25 o
  | .ffill o => encEX 0x26 o
  | .fclr o => encEX 0x27 o
  | .ssq o => encEX 0x30 o
  | _ => 0

/-- Opcode and head of an M slot (R95). -/
def encM (opc : Nat) (h : MHead) : Nat :=
  opc * 2 ^ 57 + b2n h.gk * 2 ^ 56 + h.gn.toNat * 2 ^ 52 + b2n h.gs * 2 ^ 51 + b2n h.d * 2 ^ 50 + h.mask.toNat * 2 ^ 42

/-- Format MV (R96). -/
def encMV (opc : Nat) (o : MvOp) : Nat :=
  encM opc o.head + o.v.toNat * 2 ^ 32 + o.base.toNat * 2 ^ 28 + o.off.toNat * 2 ^ 12 + o.type.toNat * 2 ^ 8 + b2n o.pi * 2 ^ 7

/-- Format MS (R96). -/
def encMS (opc : Nat) (o : MsOp) : Nat :=
  encM opc o.head + o.s.toNat * 2 ^ 36 + o.base.toNat * 2 ^ 32 + o.off.toNat * 2 ^ 16 + o.type.toNat * 2 ^ 12 + b2n o.pi * 2 ^ 11

/-- Format MX (R96). -/
def encMX (opc : Nat) (o : MxOp) : Nat :=
  encM opc o.head + o.data.toNat * 2 ^ 32 + o.index.toNat * 2 ^ 22 + o.base.toNat * 2 ^ 18 + o.type.toNat * 2 ^ 14

/-- Format MM (R96). -/
def encMM (opc : Nat) (o : MmOp) : Nat :=
  encM opc o.head + o.m.toNat * 2 ^ 37 + o.dir.toNat * 2 ^ 35 + b2n o.ki * 2 ^ 34 + o.k.toNat * 2 ^ 28 + o.base.toNat * 2 ^ 24
    + o.off.toNat * 2 ^ 8

/-- Format MA (R96). -/
def encMA (opc : Nat) (o : MaOp) : Nat :=
  encM opc o.head + o.dst.toNat * 2 ^ 36 + o.src.toNat * 2 ^ 30 + o.addr.toNat * 2 ^ 26 + o.aop.toNat * 2 ^ 22
    + o.cmp.toNat * 2 ^ 16 + o.type.toNat * 2 ^ 12

/-- Format MB (R96). -/
def encMB (opc : Nat) (o : MbOp) : Nat :=
  encM opc o.head + o.q.toNat * 2 ^ 38 + o.kind.toNat * 2 ^ 36 + o.addr.toNat * 2 ^ 32

/-- Format MC (R96). -/
def encMC (opc : Nat) (o : McOp) : Nat :=
  encM opc o.head + o.tl.toNat * 2 ^ 37 + o.addr.toNat * 2 ^ 33 + o.s.toNat * 2 ^ 27

/-- The M slot doubleword of a memory instruction (R97); 0 for an instruction of another slot. -/
def encodeM (i : Instr) : Nat :=
  match i with
  | .ldv o => encMV 0x01 o
  | .stv o => encMV 0x02 o
  | .lds o => encMS 0x03 o
  | .sts o => encMS 0x04 o
  | .ldx o => encMX 0x05 o
  | .stx o => encMX 0x06 o
  | .ldt o => encMV 0x07 o
  | .stt o => encMV 0x08 o
  | .ldm o => encMM 0x09 o
  | .stm o => encMM 0x0A o
  | .amo o => encMA 0x0B o
  | .fence h set => encM 0x0C h + set.toNat * 2 ^ 40
  | .bind o => encMB 0x10 o
  | .unbind o => encMB 0x11 o
  | .cbset o => encMB 0x12 o
  | .copy o => encMC 0x18 o
  | .copyo o => encMC 0x19 o
  | .gatherp o => encMC 0x1A o
  | .mpost o => encMC 0x1B o
  | .tqpush o => encMC 0x1C o
  | _ => 0

/-- The micro-operation word of a pane micro-operation (R98); 0 for the others. -/
def encodeMicro (i : Instr) : Nat :=
  match i with
  | .wact x y a b => 1 * 2 ^ 29 + b2n x * 2 ^ 28 + b2n y * 2 ^ 27 + a.toNat * 2 ^ 19 + b.toNat * 2 ^ 11
  | .wwb l p f r => 2 * 2 ^ 29 + b2n l * 2 ^ 28 + b2n p * 2 ^ 27 + f.toNat * 2 ^ 24 + r.toNat * 2 ^ 16
  | .wlat l t c r => 3 * 2 ^ 29 + b2n l * 2 ^ 28 + b2n t * 2 ^ 27 + c.toNat * 2 ^ 25 + r.toNat * 2 ^ 17
  | .wbr t c s => 4 * 2 ^ 29 + t.toNat * 2 ^ 21 + c.toNat * 2 ^ 13 + s.toNat * 2 ^ 9
  | .wend => 5 * 2 ^ 29
  | _ => 0

/-! ## Field readers: the instruction an opcode names, with its fields as the word holds them -/

/-- The control instruction a C slot names (R84, R85). -/
def readC (w : Nat) : Option Instr :=
  let g : SGuard := ⟨fbits w 23 3, fbool w 22⟩
  match field w 26 6 with
  | 0x00 => some (.nop g)
  | 0x01 => some (.br g (fbits w 0 15))
  | 0x02 => some (.brx g (fbits w 16 6))
  | 0x03 => some (.call g (fbits w 0 15))
  | 0x04 => some (.ret g)
  | 0x05 => some (.loop g (fbits w 12 10) (fbits w 0 12))
  | 0x06 => if fbool w 12 then some (.loopsW g (fbits w 16 6) (fbits w 0 12)) else some (.loops g (fbits w 16 6) (fbits w 0 12))
  | 0x07 => some (.brk g)
  | 0x08 => some (.halt g)
  | 0x09 => some (.trap g (fbits w 0 16))
  | 0x0A => if fbool w 16 then some (.waitRel g (fbits w 17 5) (fbits w 0 10)) else some (.wait g (fbits w 17 5) (fbits w 10 6))
  | 0x0B => if fbool w 16 then some (.waitoImm g (fbits w 17 5) (fbits w 0 10)) else some (.waito g (fbits w 17 5) (fbits w 10 6))
  | 0x0C => some (.bar g (fbits w 19 3))
  | 0x0D => some (.yield g)
  | 0x0E => some (.shutc g (fbits w 0 1))
  | 0x0F => some (.shutd g (fbits w 0 1))
  | 0x10 => some (.sysrd g (fbits w 16 6) (fbits w 0 12))
  | 0x11 => some (.syswr g (fbits w 16 6) (fbits w 0 12))
  | 0x12 => some (.launch g (fbits w 16 6) (fbits w 11 5))
  | 0x13 => some (.relaunch g (fbits w 16 6) (fbits w 11 5))
  | 0x14 => some (.trace g (fbits w 16 6) (fbits w 11 5))
  | _ => none

/-- The scalar instruction an S slot names (R86, R87). -/
def readS (slot : SSlot) (w : Nat) : Option Instr :=
  let g : SHead := ⟨slot, fbits w 22 3⟩
  let d : BitVec 6 := fbits w 16 6
  let a : BitVec 6 := fbits w 10 6
  let b : BitVec 6 := fbits w 0 6
  match field w 25 7 with
  | 0x01 => some (.add g d a b)
  | 0x02 => some (.sub g d a b)
  | 0x03 => some (.mul g d a b)
  | 0x04 => some (.mulh g d a b)
  | 0x05 => some (.and g d a b)
  | 0x06 => some (.or g d a b)
  | 0x07 => some (.xor g d a b)
  | 0x08 => some (.andn g d a b)
  | 0x09 => if fbool w 9 then some (.shlImm g d a (fbits w 0 5)) else some (.shl g d a b)
  | 0x0A => if fbool w 9 then some (.shrImm g d a (fbits w 0 5)) else some (.shr g d a b)
  | 0x0B => if fbool w 9 then some (.sarImm g d a (fbits w 0 5)) else some (.sar g d a b)
  | 0x0C => some (.min g d a b)
  | 0x0D => some (.max g d a b)
  | 0x0E => some (.sel g d a (fbits w 7 3) b)
  | 0x0F => some (.popc g d a)
  | 0x10 => some (.clz g d a)
  | 0x11 => some (.addi g d a (fbits w 0 10))
  | 0x12 => some (.andi g d a (fbits w 0 10))
  | 0x13 => some (.ori g d a (fbits w 0 10))
  | 0x14 => some (.xori g d a (fbits w 0 10))
  | 0x15 => some (.movi g d (fbits w 0 16))
  | 0x16 => some (.movhi g d (fbits w 0 16))
  | 0x17 => if fbool w 9 then some (.movaD g (fbits w 16 4) a (fbits w 6 3)) else some (.mova g (fbits w 16 4) a)
  | 0x18 => some (.movs g d (fbits w 10 4))
  | 0x19 => some (.pset g (fbits w 16 3) a (fbits w 0 5))
  | 0x1A => some (.bext g d a (fbits w 5 5) (fbits w 0 5))
  | 0x1B => some (.bins g d a (fbits w 5 5) (fbits w 0 5))
  | opc =>
    if 0x20 ≤ opc ∧ opc < 0x28 then some (.cmp g (fbits w 25 3) (fbits w 16 3) a b)
    else if 0x28 ≤ opc ∧ opc < 0x30 then some (.cmpi g (fbits w 25 3) (fbits w 16 3) a (fbits w 0 10))
    else none

/-- The fields of a vector slot (R88). -/
def readVOp (slot : VSlot) (w : Nat) : VOp :=
  { slot := slot, mask := fbits w 56 8, gp := fbits w 52 4, gs := fbool w 51, dst := fbits w 32 10, src1 := fbits w 22 10,
    src2 := fbits w 12 10, d := fbool w 11, type := fbits w 7 4, sat := fbool w 6, rnd := fbits w 4 2, kind := fbits w 2 2 }

/-- The vector instruction an opcode names (R91). -/
def readV (slot : VSlot) (w : Nat) : Option Instr :=
  let o := readVOp slot w
  match field w 42 9 with
  | 0x001 => some (.vadd o)
  | 0x002 => some (.vsub o)
  | 0x003 => some (.vmul o)
  | 0x004 => some (.vmulh o)
  | 0x005 => some (.vmad o)
  | 0x006 => some (.vabs o)
  | 0x007 => some (.vmin o)
  | 0x008 => some (.vmax o)
  | 0x009 => some (.vand o)
  | 0x00A => some (.vor o)
  | 0x00B => some (.vxor o)
  | 0x00C => some (.vshl o)
  | 0x00D => some (.vshr o)
  | 0x00E => some (.vsar o)
  | 0x00F => some (.vpopc o)
  | 0x010 => some (.vclz o)
  | 0x011 => some (.vsel o)
  | 0x040 => some (.fadd o)
  | 0x041 => some (.fsub o)
  | 0x042 => some (.fmul o)
  | 0x043 => some (.ffma o)
  | 0x044 => some (.fmin o)
  | 0x045 => some (.fmax o)
  | 0x046 => some (.fclass o)
  | 0x047 => some (.fdiv o)
  | 0x048 => some (.fsqrt o)
  | 0x049 => some (.frcp o)
  | 0x04A => some (.fexp2 o)
  | 0x04B => some (.flog2 o)
  | 0x04C => some (.fsin o)
  | 0x04D => some (.fcos o)
  | 0x04E => some (.frnd o)
  | 0x060 => some (.cvt o)
  | 0x061 => some (.dsplit o)
  | 0x062 => some (.qpack o)
  | 0x063 => some (.qunpack o)
  | 0x064 => some (.vimm o)
  | 0x070 => some (.vmov o)
  | 0x071 => some (.vbcast o)
  | 0x072 => some (.vmovs o)
  | 0x073 => some (.vshuf o)
  | 0x074 => some (.vxcl o)
  | 0x075 => some (.vlane o)
  | 0x076 => some (.vred o)
  | 0x077 => some (.rdrain o)
  | 0x078 => some (.vmrd o)
  | 0x079 => some (.vmwr o)
  | opc =>
    if 0x018 ≤ opc ∧ opc < 0x01E then some (.vcmp (BitVec.ofNat 3 (opc - 0x018)) o)
    else if 0x050 ≤ opc ∧ opc < 0x058 then some (.fcmp (BitVec.ofNat 3 (opc - 0x050)) o)
    else none

/-- The head of an E slot (R93). -/
def readEHead (w : Nat) : EHead := ⟨⟨fbits w 54 3, fbool w 53⟩, fbool w 52, fbits w 44 8⟩

/-- Format EM (R93). -/
def readEm (w : Nat) : EmOp :=
  { head := readEHead w, acc := fbits w 38 6, dir := fbits w 36 2, areg := fbits w 31 5, ax := fbits w 27 4, ay := fbits w 23 4,
    mode := fbits w 21 2, tri := fbool w 20, sl := fbits w 18 2, ovr := fbool w 17 }

/-- Format EX (R93). -/
def readEx (w : Nat) : ExOp :=
  { head := readEHead w, addr := fbits w 40 4, q := fbits w 36 4, qn := fbool w 35, query := fbits w 29 6 }

/-- The engine command an opcode names (R94). -/
def readE (w : Nat) : Option Instr :=
  let h := readEHead w
  match field w 57 7 with
  | 0x01 => if field w 21 2 = 3 then some (.mmaSplit (readEm w)) else some (.mma (readEm w))
  | 0x02 => some (.mmas (readEm w))
  | 0x03 => some (.mzero h (fbits w 38 6))
  | 0x04 => some (.mdrain h (fbits w 38 6) (fbits w 33 5) (fbits w 29 4) (fbits w 23 6))
  | 0x05 => some (.mbsel h (fbits w 40 4))
  | 0x06 => some (.fmtt h (fbits w 40 4) (fbits w 34 6))
  | 0x10 => some (.pload h (fbits w 40 4) (fbits w 32 8))
  | 0x11 => some (.prun h (fbits w 38 6) (fbits w 30 8))
  | 0x20 => some (.fsel (readEx w))
  | 0x21 => some (.fselm (readEx w))
  | 0x22 => some (.fins (readEx w))
  | 0x23 => some (.fupd (readEx w))
  | 0x24 => some (.fdel (readEx w))
  | 0x25 => some (.fspill (readEx w))
  | 0x26 => some (.ffill (readEx w))
  | 0x27 => some (.fclr (readEx w))
  | 0x30 => some (.ssq (readEx w))
  | _ => none

/-- The head of an M slot (R95). -/
def readMHead (w : Nat) : MHead := ⟨fbool w 56, fbits w 52 4, fbool w 51, fbool w 50, fbits w 42 8⟩

/-- Format MV (R96). -/
def readMv (w : Nat) : MvOp := ⟨readMHead w, fbits w 32 10, fbits w 28 4, fbits w 12 16, fbits w 8 4, fbool w 7⟩

/-- Format MS (R96). -/
def readMs (w : Nat) : MsOp := ⟨readMHead w, fbits w 36 6, fbits w 32 4, fbits w 16 16, fbits w 12 4, fbool w 11⟩

/-- Format MX (R96). -/
def readMx (w : Nat) : MxOp := ⟨readMHead w, fbits w 32 10, fbits w 22 10, fbits w 18 4, fbits w 14 4⟩

/-- Format MM (R96). -/
def readMm (w : Nat) : MmOp := ⟨readMHead w, fbits w 37 5, fbits w 35 2, fbool w 34, fbits w 28 6, fbits w 24 4, fbits w 8 16⟩

/-- Format MA (R96). -/
def readMa (w : Nat) : MaOp :=
  ⟨readMHead w, fbits w 36 6, fbits w 30 6, fbits w 26 4, fbits w 22 4, fbits w 16 6, fbits w 12 4⟩

/-- Format MB (R96). -/
def readMb (w : Nat) : MbOp := ⟨readMHead w, fbits w 38 4, fbits w 36 2, fbits w 32 4⟩

/-- Format MC (R96). -/
def readMc (w : Nat) : McOp := ⟨readMHead w, fbits w 37 5, fbits w 33 4, fbits w 27 6⟩

/-- The memory instruction an opcode names (R97). -/
def readM (w : Nat) : Option Instr :=
  match field w 57 7 with
  | 0x01 => some (.ldv (readMv w))
  | 0x02 => some (.stv (readMv w))
  | 0x03 => some (.lds (readMs w))
  | 0x04 => some (.sts (readMs w))
  | 0x05 => some (.ldx (readMx w))
  | 0x06 => some (.stx (readMx w))
  | 0x07 => some (.ldt (readMv w))
  | 0x08 => some (.stt (readMv w))
  | 0x09 => some (.ldm (readMm w))
  | 0x0A => some (.stm (readMm w))
  | 0x0B => some (.amo (readMa w))
  | 0x0C => some (.fence (readMHead w) (fbits w 40 2))
  | 0x10 => some (.bind (readMb w))
  | 0x11 => some (.unbind (readMb w))
  | 0x12 => some (.cbset (readMb w))
  | 0x18 => some (.copy (readMc w))
  | 0x19 => some (.copyo (readMc w))
  | 0x1A => some (.gatherp (readMc w))
  | 0x1B => some (.mpost (readMc w))
  | 0x1C => some (.tqpush (readMc w))
  | _ => none

/-- The micro-operation a word names (R98). -/
def readMicro (w : Nat) : Option Instr :=
  match field w 29 3 with
  | 1 => some (.wact (fbool w 28) (fbool w 27) (fbits w 19 8) (fbits w 11 8))
  | 2 => some (.wwb (fbool w 28) (fbool w 27) (fbits w 24 3) (fbits w 16 8))
  | 3 => some (.wlat (fbool w 28) (fbool w 27) (fbits w 25 2) (fbits w 17 8))
  | 4 => some (.wbr (fbits w 21 8) (fbits w 13 8) (fbits w 9 4))
  | 5 => some .wend
  | _ => none

/-! ## Decoders -/

/-- The check shared by every slot: the word is the encoding of the instruction read from it, and the instruction is
well-formed; otherwise the refusal names the lower syllable when a check of it fails (R74, R104). -/
def checkWord (w enc : Nat) (i : Instr) : Except DecodeFault Instr :=
  if w % 2 ^ 32 ≠ enc % 2 ^ 32 then .error ⟨.reserved, false⟩
  else if wfLow i = false then .error ⟨.illegal, false⟩
  else if w ≠ enc then .error ⟨.reserved, true⟩
  else if wfHigh i = false then .error ⟨.illegal, true⟩
  else .ok i

/-- Decode a C slot (R84, R85). Opcode 0 is the guarded NOP or a refusal (R76, R134). -/
def decodeC (w : Nat) : Except DecodeFault Instr :=
  match readC w with
  | some i => checkWord w (encodeC i) i
  | none => .error ⟨.unassigned, false⟩

/-- Decode a scalar slot: none when it is empty (R76, R86, R87). -/
def decodeS (slot : SSlot) (w : Nat) : Except DecodeFault (Option Instr) :=
  if w = 0 then .ok none
  else match readS slot w with
  | some i => (checkWord w (encodeS i) i).map some
  | none => .error ⟨if field w 25 7 = 0 then .notEmpty else .unassigned, false⟩

/-- The lower syllable is named when opcode 0 stands beside a nonzero bit of it (R76). -/
def emptyFault (w : Nat) : DecodeFault := ⟨.notEmpty, decide (w % 2 ^ 32 = 0)⟩

/-- Decode a vector slot: none when it is empty (R76, R88 to R92). -/
def decodeV (slot : VSlot) (w : Nat) : Except DecodeFault (Option Instr) :=
  if w = 0 then .ok none
  else match readV slot w with
  | some i => (checkWord w (encodeV i) i).map some
  | none => .error (if field w 42 9 = 0 then emptyFault w else ⟨.unassigned, true⟩)

/-- Decode an E slot: none when it is empty (R76, R93, R94). -/
def decodeE (w : Nat) : Except DecodeFault (Option Instr) :=
  if w = 0 then .ok none
  else match readE w with
  | some i => (checkWord w (encodeE i) i).map some
  | none => .error (if field w 57 7 = 0 then emptyFault w else ⟨.unassigned, true⟩)

/-- Decode an M slot: none when it is empty (R76, R95 to R97). -/
def decodeM (w : Nat) : Except DecodeFault (Option Instr) :=
  if w = 0 then .ok none
  else match readM w with
  | some i => (checkWord w (encodeM i) i).map some
  | none => .error (if field w 57 7 = 0 then emptyFault w else ⟨.unassigned, true⟩)

/-- Decode a pane micro-operation by the checks of PLOAD (R98, R101). -/
def decodeMicro (w : Nat) : Except DecodeFault Instr :=
  match readMicro w with
  | some i => if w ≠ encodeMicro i then .error ⟨.reserved, false⟩ else if microOk i then .ok i else .error ⟨.illegal, false⟩
  | none => .error ⟨.unassigned, false⟩

/-! ## The bundle -/

/-- The header fields (R77). -/
structure Header where
  stall : Nat
  scope : Nat
  mark : Bool
  nul : Bool
  rpt : Nat
  port0 : Nat
  port1 : Nat
  port2 : Nat
  deriving DecidableEq, Repr

/-- A decoded bundle (R75): its header, its control instruction and the instructions of its other slots. -/
structure Bundle where
  head : Header
  c : Instr
  s0 : Option Instr
  s1 : Option Instr
  e : Option Instr
  v0 : Option Instr
  v1 : Option Instr
  m : Option Instr
  deriving DecidableEq, Repr

/-- The empty bundle of index 0x0000 (R70). -/
def Bundle.empty : Bundle :=
  { head := ⟨0, 0, false, false, 0, 0, 0, 0⟩, c := .nop ⟨0#3, false⟩, s0 := none, s1 := none, e := none, v0 := none,
    v1 := none, m := none }

/-- The header syllable read (R77). -/
def readHeader (w : Nat) : Header :=
  ⟨field w 28 4, field w 25 3, fbool w 24, fbool w 23, field w 15 8, field w 13 2, field w 11 2, field w 9 2⟩

/-- The header syllable of a header (R77). -/
def encodeHeader (h : Header) : Nat :=
  h.stall * 2 ^ 28 + h.scope * 2 ^ 25 + b2n h.mark * 2 ^ 24 + b2n h.nul * 2 ^ 23 + h.rpt * 2 ^ 15 + h.port0 * 2 ^ 13
    + h.port1 * 2 ^ 11 + h.port2 * 2 ^ 9

/-- Ports a header allots to the slot with a selector code: 0 M, 1 E, 2 V0, 3 V1 (R77). -/
def portsFor (h : Header) (code : Nat) : Nat :=
  b2n (decide (h.port0 = code)) + b2n (decide (h.port1 = code)) + b2n (decide (h.port2 = code))

/-- Matrix-register reads of an instruction, which are the read ports it needs (R80). -/
def portNeed (i : Option Instr) : Nat :=
  match i with
  | some (.mma _) | some (.mmaSplit _) | some (.mmas _) => 1
  | some (.mdrain _ acc _ _ _) => if acc.toNat < 32 then 1 else 0
  | some (.vmrd _) => 1
  | some (.stm _) => 1
  | _ => 0

/-- No slot is allotted fewer ports than it needs (R80). -/
def portsOk (b : Bundle) : Bool :=
  decide (portNeed b.m ≤ portsFor b.head 0) && decide (portNeed b.e ≤ portsFor b.head 1)
    && decide (portNeed b.v0 ≤ portsFor b.head 2) && decide (portNeed b.v1 ≤ portsFor b.head 3)

/-- The BEATS + 1 of an operation that may repeat (R79). -/
def repeatBeats (i : Option Instr) : Option Nat :=
  match i with
  | some (.mma o) | some (.mmaSplit o) | some (.mmas o) => some (o.head.beats.toNat + 1)
  | _ => none

/-- The repeat rule (R79). -/
def repeatOk (b : Bundle) : Bool :=
  if b.head.rpt = 0 then
    match repeatBeats b.e with
    | some n => decide (n ≤ 256)
    | none => true
  else match repeatBeats b.e with
    | some n => decide ((b.head.rpt + 1) * n ≤ 256)
    | none => false

/-- The latch a vector instruction names in VRED or RDRAIN (R60, R92). -/
def latchOf (i : Option Instr) : Option Nat :=
  match i with
  | some (.vred o) => some (o.dst.toNat % 4)
  | some (.rdrain o) => some (o.src1.toNat % 4)
  | _ => none

/-- V0 and V1 do not name one latch (R60, R92). -/
def latchOk (b : Bundle) : Bool :=
  match latchOf b.v0, latchOf b.v1 with
  | some x, some y => decide (x ≠ y)
  | _, _ => true

/-- A refused bundle: the lowest failing syllable and why (R74). -/
structure BundleFault where
  syllable : Nat
  why : DecodeWhy
  deriving DecidableEq, Repr

/-- The fault of a slot, at the syllable it begins in. -/
def slotFault (base : Nat) (f : DecodeFault) : BundleFault := ⟨base + b2n f.high, f.why⟩

/-- The bundle that twelve syllables name, slot by slot, before any check: a slot that names nothing is empty. -/
def readBundle (bits : Nat) : Bundle :=
  { head := readHeader (field bits 0 32), c := (readC (field bits 32 32)).getD (.nop ⟨0#3, false⟩)
    s0 := readS .s0 (field bits 64 32), s1 := readS .s1 (field bits 96 32), e := readE (field bits 128 64)
    v0 := readV .v0 (field bits 192 64), v1 := readV .v1 (field bits 256 64), m := readM (field bits 320 64) }

/-- The checks that need the header or two slots: each with the lowest syllable it names (R77, R79, R80, R60, R92). -/
def crossFaults (bits : Nat) : List BundleFault :=
  let b := readBundle bits
  (if field bits 0 9 ≠ 0 then [⟨0, .reserved⟩] else []) ++
  (if b.head.scope > 5 then [⟨0, .illegal⟩] else []) ++
  (if portsOk b then [] else [⟨0, .ports⟩]) ++
  (if repeatOk b then [] else [⟨0, .repeatRule⟩]) ++
  (if latchOk b then [] else [⟨match b.v0 with | some (.rdrain _) => 6 | _ => 7, .latch⟩])

/-- The fault of a slot that begins at a syllable, if it is refused. -/
def slotFaults {α : Type} (base : Nat) (r : Except DecodeFault α) : List BundleFault :=
  match r with
  | .ok _ => []
  | .error f => [slotFault base f]

/-- The fault that names the lowest syllable; of two, the first. -/
def lowestFault : List BundleFault → Option BundleFault
  | [] => none
  | f :: l => match lowestFault l with
    | some g => if g.syllable < f.syllable then some g else some f
    | none => some f

/-- Decode the twelve syllables of a bundle, checking them by every rule their bits decide (R71, R74 to R97); the
refusal names the lowest failing syllable. -/
def decodeBundle (bits : Nat) : Except BundleFault Bundle :=
  let c := decodeC (field bits 32 32)
  let s0 := decodeS .s0 (field bits 64 32)
  let s1 := decodeS .s1 (field bits 96 32)
  let e := decodeE (field bits 128 64)
  let v0 := decodeV .v0 (field bits 192 64)
  let v1 := decodeV .v1 (field bits 256 64)
  let m := decodeM (field bits 320 64)
  match lowestFault (crossFaults bits ++ slotFaults 1 c ++ slotFaults 2 s0 ++ slotFaults 3 s1 ++ slotFaults 4 e ++
      slotFaults 6 v0 ++ slotFaults 8 v1 ++ slotFaults 10 m) with
  | some f => .error f
  | none => match c, s0, s1, e, v0, v1, m with
    | .ok c, .ok s0, .ok s1, .ok e, .ok v0, .ok v1, .ok m =>
      .ok { head := readHeader (field bits 0 32), c := c, s0 := s0, s1 := s1, e := e, v0 := v0, v1 := v1, m := m }
    | _, _, _, _, _, _, _ => .error ⟨0, .illegal⟩

/-- The word of an optional slot. -/
def encodeSlot (enc : Instr → Nat) : Option Instr → Nat
  | some i => enc i
  | none => 0

/-- The 384 bits of a bundle (R75). -/
def encodeBundle (b : Bundle) : Nat :=
  encodeHeader b.head + encodeC b.c * 2 ^ 32 + encodeSlot encodeS b.s0 * 2 ^ 64 + encodeSlot encodeS b.s1 * 2 ^ 96
    + encodeSlot encodeE b.e * 2 ^ 128 + encodeSlot encodeV b.v0 * 2 ^ 192 + encodeSlot encodeV b.v1 * 2 ^ 256
    + encodeSlot encodeM b.m * 2 ^ 320

/-! ## The words of the opcode table -/

/-- Which slot holds an instruction, and its word there: 0 C, 1 S0, 2 S1, 3 E, 4 V0, 5 V1, 6 M, 7 a micro-operation;
none for a step of the machine, which has no encoding. -/
def encode (i : Instr) : Option (Nat × Nat) :=
  match i with
  | .nop _ | .br _ _ | .brx _ _ | .call _ _ | .ret _ | .loop _ _ _ | .loops _ _ _ | .loopsW _ _ _ | .brk _ | .halt _
  | .trap _ _ | .wait _ _ _ | .waitRel _ _ _ | .waito _ _ _ | .waitoImm _ _ _ | .bar _ _ | .yield _ | .shutc _ _
  | .shutd _ _ | .sysrd _ _ _ | .syswr _ _ _ | .launch _ _ _ | .relaunch _ _ _ | .trace _ _ _ => some (0, encodeC i)
  | .add g _ _ _ | .sub g _ _ _ | .mul g _ _ _ | .mulh g _ _ _ | .and g _ _ _ | .or g _ _ _ | .xor g _ _ _
  | .andn g _ _ _ | .shl g _ _ _ | .shlImm g _ _ _ | .shr g _ _ _ | .shrImm g _ _ _ | .sar g _ _ _ | .sarImm g _ _ _
  | .min g _ _ _ | .max g _ _ _ | .sel g _ _ _ _ | .popc g _ _ | .clz g _ _ | .addi g _ _ _ | .andi g _ _ _
  | .ori g _ _ _ | .xori g _ _ _ | .movi g _ _ | .movhi g _ _ | .mova g _ _ | .movaD g _ _ _ | .movs g _ _
  | .pset g _ _ _ | .bext g _ _ _ _ | .bins g _ _ _ _ | .cmp g _ _ _ _ | .cmpi g _ _ _ _ =>
    some (match g.slot with | .s0 => 1 | .s1 => 2, encodeS i)
  | .mma _ | .mmaSplit _ | .mmas _ | .mzero _ _ | .mdrain _ _ _ _ _ | .mbsel _ _ | .fmtt _ _ _ | .pload _ _ _
  | .prun _ _ _ | .fsel _ | .fselm _ | .fins _ | .fupd _ | .fdel _ | .fspill _ | .ffill _ | .fclr _ | .ssq _ =>
    some (3, encodeE i)
  | .ldv _ | .stv _ | .lds _ | .sts _ | .ldx _ | .stx _ | .ldt _ | .stt _ | .ldm _ | .stm _ | .amo _ | .fence _ _
  | .bind _ | .unbind _ | .cbset _ | .copy _ | .copyo _ | .gatherp _ | .mpost _ | .tqpush _ => some (6, encodeM i)
  | .wact _ _ _ _ | .wwb _ _ _ _ | .wlat _ _ _ _ | .wbr _ _ _ | .wend => some (7, encodeMicro i)
  | i => match vRule i with
    | some (_, o) => some (match o.slot with | .v0 => 4 | .v1 => 5, encodeV i)
    | none => none

/-- The decoder of a slot, by the numbering of `encode`. -/
def decodeSlot (slot w : Nat) : Option Instr :=
  match slot with
  | 0 => (decodeC w).toOption
  | 1 => (decodeS .s0 w).toOption.join
  | 2 => (decodeS .s1 w).toOption.join
  | 3 => (decodeE w).toOption.join
  | 4 => (decodeV .v0 w).toOption.join
  | 5 => (decodeV .v1 w).toOption.join
  | 6 => (decodeM w).toOption.join
  | 7 => (decodeMicro w).toOption
  | _ => none

/-- Which slot a bare 32-bit word of the opcode table is taken for. The bits of one slot do not say which slot they stand
in: a word is read as a control syllable first, then a scalar one, then a micro-operation, but a word with bit 25 set as
a scalar syllable first (DESIGN CHOICE, log 10). -/
def tableSlot (w : Nat) : Option Nat :=
  let order := if fbool w 25 then [1, 0, 7] else [0, 1, 7]
  order.find? (fun k => (decodeSlot k w).isSome)

/-- The slot that a word of the opcode table is read in: one of 32 bits by `tableSlot`, a longer one as an E, V0 or M slot;
a row of no bits is a step of the machine and has no encoding. -/
def wordSlot (nbits w : Nat) : Option Nat :=
  if nbits = 0 then none
  else if nbits ≤ 32 then tableSlot w
  else [3, 4, 6].find? (fun k => (decodeSlot k w).isSome)

/-- The instruction the decoder reads from a word of the opcode table; none where no slot accepts it. -/
def decodeTableWord (nbits w : Nat) : Option Instr :=
  (wordSlot nbits w).bind (fun k => decodeSlot k w)

end Sys2Proof
end

