-- ==== Sys2Proof/Machine/State.lean ====
section
/-! DEFINITION. The state of a K16 package, its faults and its refusals, and the state after device reset.

Every piece is plain data. A number the spec counts is a `Nat`; what software reads as a word is a bit vector. Large
register files and memories are tables of (number, value) pairs in one canonical form (`Store`): an unlisted number
holds the default, which is the reset value of R41. The names of spec/ are kept. -/

namespace Sys2Proof.Machine

/-- A memory: (address, byte) pairs, addresses strictly rising, no entry equal to what an unlisted address reads as. -/
abbrev Memory := List Host.Cell

/-- What an address that is not listed reads as: 0. For the pool and the B-store R41 gives it; for HBM, host memory
and the other packages it is the model's choice (log 3, unsafe). -/
def Memory.unlisted : Byte := 0#8

/-- The canonical form of a memory. -/
def Memory.wf (m : Memory) : Bool := Store.wf Memory.unlisted m

/-! ## The state of a context (R17) -/

/-- A level of the loop stack (R18). -/
structure Level where
  idx : Nat
  cnt : Nat
  beg : Nat
  fin : Nat
  deriving DecidableEq, Repr

/-- The rotation state (R20): first register, length, offset, and the level it is bound to (none: bound to no
level, R131). -/
structure Rotation where
  wb : Nat
  wl : Nat
  wo : Nat
  level : Option Nat
  deriving DecidableEq, Repr

/-- What a stream register is bound to (R28, R188). -/
inductive Source where
  | affine (base : Nat) (dims : List (Nat × Nat)) (wrap : Bool)
  | cbuf (cb : Nat) (timed : Bool)
  | pipe (num : Nat) (nb : Bool) (nbp : Nat)
  | ssu (sid : Nat)
  deriving DecidableEq, Repr

/-- A bound stream register (R28): what it names, the element width code EW, the direction, the position (elements
popped or pushed, R189), and the identity of the binding (R191). -/
structure Binding where
  src : Source
  ew : Nat
  push : Bool
  pos : Nat
  id : Nat
  deriving DecidableEq, Repr

/-- A circular buffer (R35, R190, R195): descriptor, the two counters, the slot and byte within it of the next pop and the
next push, and the slots that the next to drain and the next to fill will take. -/
structure CBuf where
  base : Nat
  size : Nat
  count : Nat
  free : Nat
  filled : Nat
  rdSlot : Nat
  rdByte : Nat
  wrSlot : Nat
  wrByte : Nat
  rdNext : Nat
  wrNext : Nat
  deriving DecidableEq, Repr

/-- An unset circular buffer (R41). -/
def CBuf.unset : CBuf := ⟨0, 0, 0, 0, 0, 0, 0, 0, 0, 0, 0⟩

/-- A partial-sum latch (R60, R61): the type of the first VRED since it was empty, and its lanes; an unlisted lane is
empty. -/
structure Latch where
  type : Nat
  lanes : Store Word
  deriving DecidableEq, Repr

/-- A latch with every lane empty (R41, R170). -/
def Latch.empty : Latch := ⟨0, []⟩

/-- The part of a context that a rollback restores (R230). The keys of the tables: `aut` 6·n + level; `v`
(768·cluster + register)·16 + lane, by physical register; `p` 16·cluster + number; `m` (64·register + row)·64 +
column. `emptied`: for each circular buffer slot emptied by pops and not yet freed, the buffer and the bundle. -/
structure Regs where
  pc : Nat
  loops : List Level
  rot : Option Rotation
  s : Store Word
  sp : Store Bool
  a : Store Word
  aut : Store (BitVec 24)
  v : Store Word
  p : Store (BitVec 16)
  m : Store Word
  q : Store (Option Binding)
  cb : Store CBuf
  emptied : List (Nat × Nat)
  ps : Store Latch
  deriving DecidableEq, Repr

/-- The registers after device reset (R41). -/
def Regs.reset : Regs := ⟨0, [], none, [], [], [], [], [], [], [], [], [], [], []⟩

/-- A timeline counter (R30): the number last given, and the numbers not complete. C is computed. -/
structure Timeline where
  i : Nat
  out : List Nat
  deriving DecidableEq, Repr

/-- A counter at reset and at task start (R41). -/
def Timeline.zero : Timeline := ⟨0, []⟩

/-- An open shutter (R26): its target and its elements, key 64·row + column. -/
structure Shutter where
  target : Nat
  cells : Store Word
  deriving DecidableEq, Repr

/-- The flags an operation raises (R40, R55, R56): the sticky flags and the signalling-NaN cause. -/
structure FFlags where
  nv : Bool
  dz : Bool
  of : Bool
  uf : Bool
  nx : Bool
  nnan : Bool
  rng : Bool
  snan : Bool
  deriving DecidableEq, Repr

/-- No flag. -/
def FFlags.none : FFlags := ⟨false, false, false, false, false, false, false, false⟩

/-- The seven slots of a bundle in write order (R102). -/
inductive Slot where
  | c
  | s0
  | s1
  | m
  | v0
  | v1
  | e
  deriving DecidableEq, Repr

/-- What a result does when it lands. Keys as in `Regs`; `p` keys are 16·(16·cluster + number) + lane. -/
inductive Eff where
  | s (n : Nat) (x : Word)
  | sp (n : Nat) (x : Bool)
  | a (n : Nat) (x : Word)
  | aut (k : Nat) (x : BitVec 24)
  | v (cells : List (Nat × Word))
  | p (cells : List (Nat × Bool))
  | m (cells : List (Nat × Word))
  | bx (src : Nat) (cl : Nat) (lanes : List Word)
  | flags (cl : Nat) (f : FFlags)
  | fpu                                                    -- a flag-pending operation with no flag to raise
  | fmt (e : Nat) (x : Word)
  | bindQ (q : Nat) (b : Option Binding)                   -- BIND or UNBIND (R187, R192)
  | sysw (r : Nat) (x : Word)                              -- SYSWR of another system register (R142)
  | shut (h : Nat) (commit : Bool) (target : Nat) (drop : List Nat) -- SHUTC or SHUTD while a repeat runs into the shutter
                                                           -- (R141): its target, the elements that a later slot writes
  | drained (m : Nat) (nan : Bool)                         -- the end of an MDRAIN (R27)
  | ldtRow (bits : List (Nat × Nat × Nat × Nat))           -- LDT row read: v key, bit, pool address, bit of the byte
  | ldtPush (row : List (Nat × Nat × Nat × Nat))           -- the same for an LDT whose destination is a stream
  | amo (addr : Nat) (op : Nat) (s c : Word) (d : Nat)     -- AMO access (R185)
  deriving DecidableEq, Repr

/-- A result in flight (R8, R152): the cycle it becomes readable, the bundle that issued it, its slot and PC, whether
its bundle was committing (R232), whether it belongs to an engine (not cancelled by a trap, R233). -/
structure Landing where
  due : Nat
  seq : Nat
  slot : Slot
  pc : Nat
  post : Bool
  eng : Bool
  eff : Eff
  deriving DecidableEq, Repr

/-- A byte that a store has overwritten (R177, R234): its address, what it held before, the bits a discard restores, and
the place of the write among all writes (its cycle, then the order of R34). -/
structure Undo where
  addr : Nat
  byte : Byte
  mask : Byte
  at_ : Nat
  deriving DecidableEq, Repr

/-- A store (R176, R177): bundle, order of its accessor (R34), the cycle its bytes are written, written, released;
the new bytes not yet written, by pool address; what the written bytes held before; for an element of a circular buffer
the buffer, and how many slots its release fills (R190); the pipe, and the elements its release enters there (R300). -/
structure Gated where
  seq : Nat
  prio : Nat
  wcycle : Nat
  written : Bool
  released : Bool
  cells : List (Nat × Byte)
  old : List Undo
  fills : Option (Nat × Nat)
  pipe : Option (Nat × List (List Word))
  stream : Option (Nat × List Nat)                         -- stream register and the rows still to be served (R34)
  whole : Nat                                              -- the cycle in which all bytes of the store are written
  masks : List (Nat × Byte)                                -- bits written of a byte; all of an unlisted one (R183)
  part : Bool                                              -- a further row of an STT: not counted (R183)
  relAt : Nat × Nat                                        -- the cycle of its release and the mark's bundle number
  deriving DecidableEq, Repr

/-- A write to the pool that is not gated: order of its accessor, cycle, bytes. -/
structure Ungated where
  prio : Nat
  wcycle : Nat
  cells : List (Nat × Byte)
  deriving DecidableEq, Repr

/-- A restart mark (R228): operations with a smaller bundle number precede it. -/
structure Mark where
  seq : Nat
  cycle : Nat
  committed : Bool
  regs : Regs
  deriving DecidableEq, Repr

/-- The cause of a trap (R238): code, slot field of TRAP0, cluster, PC, detail. -/
structure TrapCause where
  cause : Nat
  slot : Nat
  cluster : Nat
  pc : Nat
  detail : Nat
  deriving DecidableEq, Repr

/-- A trap that has been raised and not yet rolled back (R232, R233): cause, the cycle it was raised, the bundle of
the operation, POST, and the cycle r in which the rollback is complete. -/
structure PendingTrap where
  cause : TrapCause
  raised : Nat
  seq : Nat
  post : Bool
  due : Nat
  deriving DecidableEq, Repr

/-- An enabled flag raised at a landing (R56, R232). -/
structure FpRaise where
  seq : Nat
  slot : Slot
  pc : Nat
  cluster : Nat
  order : Nat
  post : Bool
  deriving DecidableEq, Repr

/-- An issue condition that holds the next bundle (R138, R139). -/
inductive Wait where
  | count (tl : Nat) (n : Nat) (scope : Nat)
  | outstanding (tl : Nat) (n : Nat)
  | barrier (inst : Nat)
  | stores (seq : Nat)                                     -- FENCE: the bytes of every store before a bundle (R186)
  deriving DecidableEq, Repr

/-- The life of a task on a context (R41, R125, R135). -/
inductive Phase where
  | none
  | waiting                     -- placed; the clear has not begun (R41)
  | clearing (until_ : Nat)     -- the clear and the preload end before this cycle
  | running
  | halted
  | killed                      -- killed; its core is freed once every counter has C = I (R303)
  deriving DecidableEq, Repr

/-- The task of a context (R284, R294, R302). -/
structure Task where
  launch : Nat
  blk : Nat
  asid : Nat
  prio : Nat
  entry : Nat
  succ : List Nat
  chk : Bool
  gang : Option Nat
  bars : Nat
  fromQueue : Option Nat
  mailbox : Option (Nat × Nat)
  release : Nat
  preload : List (Nat × Byte)
  trace : Nat
  base : Nat                    -- first bank of its partition (R240)
  placed : Nat                  -- the cycle of its placement (R41)
  deriving DecidableEq, Repr

/-- A change of the drain status file, newest first: cycle, register, the entry before it (R27). -/
structure DrainChange where
  cycle : Nat
  m : Nat
  nan : Bool
  pend : Bool
  deriving DecidableEq, Repr

/-- A completion to be counted from the cycle after `cycle` (R30, R138). -/
structure Completion where
  tl : Nat
  num : Nat
  cycle : Nat
  deriving DecidableEq, Repr

/-- The records pushed to a bound ssu stream (R191, R258), the binding's identity with them; the binding's position
says how many have been popped. -/
structure SsuFifo where
  bind : Nat
  recs : List (List Word)
  deriving DecidableEq, Repr

/-- Bank accesses of the held bundle that have been served (R34, R175, R182, R246): row of the pool, write, order of the
accessor; the bytes read in them, keyed 2^21·order + pool address; the rows of the M slot that the queue of a busy bank
served, and those of them whose bytes have been written (R252). -/
structure Service where
  rows : List (Nat × Bool × Nat)
  bytes : List (Nat × Byte)
  queued : List Nat
  put : List Nat
  deriving DecidableEq, Repr

/-- No access served. -/
def Service.none : Service := ⟨[], [], [], []⟩

/-- Stores released while an engine command was outstanding (R229, R253): the cycle, the bundle number of the mark that
released them, and what the bytes held before: an engine command whose bundle lies before the mark does not see them. -/
structure Ghost where
  cycle : Nat
  seq : Nat
  old : List Undo
  deriving DecidableEq, Repr

/-- One context of a core (R17, R240). -/
structure Ctx where
  cid : Bool
  regs : Regs
  marks : List Mark
  pend : List Landing
  gate : List Gated
  ghosts : List Ghost
  seq : Nat
  nextAt : Nat
  loadAt : Nat                       -- the cycle by which every load issued has its value readable (R186)
  waits : List Wait
  sinceMark : Nat
  code : Store (BitVec 16)
  dict : Store (Option (BitVec 384))
  micro : Option (List Word)
  partition : Word
  codeWin : Word
  taskBlk : Word
  fmt : Store Word
  fmtSel : Word
  fstat : Store Word
  fresh : List (Nat × Word)          -- W1C bits set in this cycle (R11, R40): FSTATn, or CSTAT as number 8
  cstat : Word
  bcnt : Word
  tl : Store Timeline
  comps : List Completion
  clocks : List (Nat × Nat × Store Nat)   -- K vectors received by completed operations (R316.6)
  dnan : BitVec 32
  dpend : BitVec 32
  dlog : List DrainChange
  sh0 : Option Shutter
  sh1 : Option Shutter
  bx : List (Nat × Nat × List Word)  -- bypass values readable in this cycle: source, cluster, lanes (R29)
  fpuHold : List (Slot × Nat)        -- FPU of a slot held in a cycle (R156)
  svc : Service
  skips : Nat                        -- bundles skipped in this cycle (R227)
  tried : Bool                       -- issue was attempted in this cycle
  yield : Bool
  trap : Option PendingTrap
  fp : List FpRaise
  held : Bool
  barriers : Store Nat               -- BARs executed per scope (R139)
  binds : Nat                        -- identities given to bindings
  ssu : List SsuFifo
  bankBase : Nat                     -- first bank of the context's partition (R240)
  heldSince : Nat                    -- cycle from which the next bundle has been held (R306)
  heldPop : Option Nat               -- by a pop of this stream register, bound to a pipe
  transferred : Option Nat           -- the bundle whose taken transfer gave the PC (R128)
  asked : Bool                       -- the distributor has raised its swap request (R292)
  phase : Phase
  task : Option Task
  deriving DecidableEq, Repr

/-- A context after device reset (R41). -/
def Ctx.reset (cid : Bool) : Ctx :=
  { cid := cid, regs := Regs.reset, marks := [], pend := [], gate := [], ghosts := [], seq := 0, nextAt := 0,
    loadAt := 0, waits := [],
    sinceMark := 0, code := [], dict := [], micro := none, partition := 0#32, codeWin := 0#32, taskBlk := 0#32,
    fmt := [], fmtSel := 0#32, fstat := [], fresh := [], cstat := 0#32, bcnt := 0#32, tl := [], comps := [],
    clocks := [], dnan := 0#32, dpend := 0#32, dlog := [], sh0 := none, sh1 := none, bx := [], fpuHold := [],
    svc := Service.none, skips := 0, tried := false, yield := false, trap := none, fp := [], held := false,
    barriers := [], binds := 0, ssu := [], bankBase := 0, heldSince := 0, heldPop := .none, transferred := .none,
    asked := false, phase := .none, task := none }

/-! ## The engines of a core -/

/-- A matrix register or shutter in use by the matrix engine (R173, R207): the registers, whether it is an
accumulator, an MDRAIN accumulator or destination or A register, its cycles, and the first cycle in which its sums
are final for slots. -/
structure MxUse where
  regs : List Nat
  kind : Nat            -- 0 accumulator, 1 A register, 2 MDRAIN accumulator, 3 MDRAIN destination
  last : Nat            -- last beat
  final : Nat           -- first cycle of the final sums
  cid : Bool
  deriving DecidableEq, Repr

/-- A repeat in progress (R79, R201). -/
structure Repeat where
  op : EmOp
  entry : Option (Nat × Nat × Nat)   -- format codes of A and B and the scale base, read once (R67)
  left : Nat
  at_ : Nat
  count : Nat                        -- issues done
  x0 : Nat
  y0 : Nat
  ports : List Nat
  seq : Nat
  pc : Nat
  cid : Bool
  deriving DecidableEq, Repr

/-- A numbered matrix command that has not completed (R207, R209). -/
structure MxPending where
  num : Nat
  cid : Bool
  done : Nat
  drain : Bool
  deriving DecidableEq, Repr

/-- The matrix engine. -/
structure Matrix where
  busyTo : Nat                       -- first cycle in which no beat runs
  rep : Option Repeat
  sel : Option (Nat × Nat)           -- MBSEL line and cycle, while no other command has come (R210)
  uses : List MxUse
  pending : List MxPending
  deriving DecidableEq, Repr

/-- A command in the pane queue (R212, R213). -/
inductive PaneCmd where
  | load (addr count : Nat)
  | run (bank index : Nat)
  deriving DecidableEq, Repr

/-- A queued pane command: context, number, issue cycle, bundle. -/
structure PaneEntry where
  cid : Bool
  num : Nat
  at_ : Nat
  seq : Nat
  cmd : PaneCmd
  deriving DecidableEq, Repr

/-- A PLOAD in progress: rows still to be read, words read, the cycle of the last read. -/
structure PaneLoad where
  entry : PaneEntry
  rows : List Nat
  words : List Word
  last : Nat
  deriving DecidableEq, Repr

/-- An access waiting at a busy bank (R246, R254, R255). -/
inductive Queued where
  | slot (row : Nat) (write : Bool) (prio : Nat)
  | push (seq : Nat) (q : Nat) (row : Nat)
  | copy (op : Nat) (row : Nat)
  | facet (tag row : Nat)                                  -- tag 0 a PLOAD, 1 a signature, else a STATUS word
  | spdat (row : Nat) (write : Option Word)
  | restore (cells : List Undo)
  deriving DecidableEq, Repr

/-- A pane run in progress (R100, R213, R245, R249). -/
structure PaneRun where
  entry : PaneEntry
  t0 : Nat
  index : Nat
  ro : Nat
  lc : Nat
  armed : Bool
  andL : BitVec 1024
  norL : BitVec 1024
  carry : BitVec 1024
  pred : BitVec 1024
  at_ : Nat                          -- first cycle of the next half-step
  count : Nat                        -- half-steps since t0 or the last window
  afterWact : Bool
  windowEnd : Nat                    -- a window is open in cycles before this one
  window : Nat                       -- first cycle of the last window
  half : Bool                        -- a half-step has been executed
  spin : Nat                         -- WBRs since the last half-step (R100 takes no time for them)
  deriving DecidableEq, Repr

/-- The pane sequencer (R212, R213, R245). -/
structure Pane where
  queue : List PaneEntry
  load : Option PaneLoad
  run : Option PaneRun
  readyAt : Nat                      -- no command starts before this cycle
  accesses : List Queued
  served : List Nat                  -- banks whose queue has served an access in this cycle
  done : List Queued                 -- served accesses that their accessors have not yet taken up
  busy : Option Nat                  -- the bank in pane mode
  deriving DecidableEq, Repr

/-- Parity of a group of eight banks (R34, R256): valid, given up, or rebuilding since a cycle. -/
inductive Parity where
  | valid
  | given
  | rebuilding (since : Nat)
  deriving DecidableEq, Repr

/-- A logical row of the facet array (R38, R271). -/
structure FacetRow where
  sig : BitVec 128
  page : Nat
  seq : Nat
  valid : Bool
  age : Nat
  transit : Nat                      -- 0 none; 2·token under an FSPILL, 2·token + 1 under an FFILL
  deriving DecidableEq, Repr

/-- A logical row at reset (R260). -/
def FacetRow.reset : FacetRow := ⟨0#128, 0, 0, false, 0, 0⟩

/-- An entry of the spill index (R270). -/
structure SpillEntry where
  seq : Nat
  page : Nat
  slot : Nat
  region : Nat
  transit : Nat                      -- as of its array row
  deriving DecidableEq, Repr

/-- A leaf a translation found (R328): physical address of the page, KIND, page size in bits, permissions, latency
class, replication mask. -/
structure Leaf where
  base : Nat
  kind : Nat
  bits : Nat
  r : Bool
  w : Bool
  lc : Nat
  rep : Bool
  rmask : Nat
  deriving DecidableEq, Repr

/-- A facet or SSQ command (R215): opcode of R94, context, number, issue cycle, descriptor, queries, result binding,
signature read at t0. -/
structure FacetCmd where
  op : Nat
  cid : Bool
  num : Nat
  at_ : Nat
  addr : Nat
  desc : List Word
  queries : List (BitVec 128)
  bind : Nat
  asid : Nat
  seq : Nat                          -- the bundle that issued it
  trace : Nat                        -- handle of the task's trace (0 none) and its block (R357)
  blk : Nat
  fill : Option (Nat × Nat × List SpillEntry) -- an FFILL that has begun: stack, its first token, the rows still to be moved
  deriving DecidableEq, Repr

/-- A scan of a region that has begun (R274, R276, R332): its stack, its slots (none where it is unusable), its owner, and
the pages it may read, translated as it began. -/
structure Scan where
  stack : Nat
  cap : Nat
  owner : Nat
  pages : List (Nat × Leaf)
  deriving DecidableEq, Repr

/-- A request to the stack search units in sequence order (R273). -/
structure SsuRequest where
  token : Nat                        -- position in facet-engine order
  kind : Nat                         -- 0 spill write, 1 slot update, 2 free, 3 fill free
  addr : Nat                         -- physical address of the slot
  slot : Nat
  region : Nat
  bytes : List Byte
  row : Nat                          -- key of the array row (R260)
  seqId : Nat
  page : Nat
  cmd : Nat                          -- number on tl2 of the command it belongs to
  cid : Bool
  va : Nat
  trace : Nat
  blk : Nat
  copies : List Nat                  -- the stacks of a replicated page (R321)
  due : Nat                          -- a free time: not applied before it
  wid : Option Nat                   -- the write, once applied; it is visible when no copy awaits it
  deriving DecidableEq, Repr

/-- A select in progress (R218, R264, R275). -/
structure Select where
  cmd : FacetCmd
  t0 : Nat
  arrayEnd : Nat                     -- last cycle of the array phase
  unitsEnd : Nat                     -- cycle in which the last unit has delivered
  cands : List (Nat × Nat)           -- key, page: the array's and the units' candidates
  unitsLeft : List (Nat × Nat)       -- units that have not delivered, each with a free time
  token : Nat                        -- requests before it are applied before its scans (R273)
  scan : Option Scan                 -- none before its scans begin
  startAt : Nat                      -- a free time: they do not begin before it
  out : List (List Word)             -- records still to be pushed
  merged : Bool
  pushAt : Nat
  status : Nat
  kv : Store Nat
  deriving DecidableEq, Repr

/-- A facet command whose array work or memory work is not finished. -/
structure FacetWork where
  cmd : FacetCmd
  done : Nat                         -- last cycle of the array work
  left : Nat                         -- memory requests not yet visible
  ids : List Nat                     -- identities of its writes
  status : Nat
  kv : Store Nat
  deriving DecidableEq, Repr

/-- The facet engine (R217). -/
structure Facet where
  queue : List FacetCmd
  freeAt : Nat                       -- first cycle in which the array is free
  sel : Option Select
  work : List FacetWork
  requests : List SsuRequest
  token : Nat                        -- the next ordering token (R273)
  deriving DecidableEq, Repr

/-- An SSQ in progress (R221, R276). -/
structure SsqWork where
  cmd : FacetCmd
  units : List (Nat × Nat)           -- units still to scan, each with a free time
  scan : Option Scan                 -- none before its scan begins
  startAt : Nat                      -- a free time: it does not begin before it
  out : List (List Word)
  nextAt : Nat
  status : Nat
  kv : Store Nat
  deriving DecidableEq, Repr

/-- The issue context of the bundle being issued: what its header and its slots add to the sequencer's step. -/
structure Iss where
  pc : Nat
  scope : Nat
  rpt : Nat
  stall : Nat
  ports : List Nat                   -- slot codes of PORT0..2
  post : Bool                        -- the bundle is committing
  target : Option Nat                -- a transfer taken (R127)
  push : Option Level                -- a loop level pushed (R130)
  pop : Bool                         -- BREAK makes the innermost level empty (R133)
  rotate : Option (Option Rotation)  -- a window declared or removed (R131)
  bound : Nat                        -- the next bundle issues no earlier (R127, R139, R141, R186)
  waits : List Wait
  trap : Option TrapCause            -- the best trap raised by its slots (R235)
  dual : Bool                        -- a dual write (R102)
  halt : Bool
  held : Bool                        -- a stream or the matrix engine holds the bundle (R28, R207)
  popWait : Option Nat               -- a pop of this stream register, bound to a pipe, holds it (R306)
  rows : List (Nat × Bool × Nat)     -- bank rows its slots access: row, write, order of the accessor (R34, R175)
  uses : List MxUse                  -- what the bundle's own E slot uses (R173)
  deriving DecidableEq, Repr

/-- No bundle. -/
def Iss.none : Iss :=
  { pc := 0, scope := 0, rpt := 0, stall := 0, ports := [], post := false, target := .none, push := .none,
    pop := false, rotate := .none, bound := 0, waits := [], trap := .none, dual := false, halt := false, held := false,
    popWait := .none, rows := [], uses := [] }

/-- A context that firmware has saved (R244): its name, its shadow bank image, its banks. -/
structure Saved where
  key : Word
  ctx : Ctx
  pool : Memory
  deriving DecidableEq, Repr

/-- A core (R17, R31 to R38, R237, R239, R240). -/
structure Core where
  act : Ctx
  shadow : Ctx
  iss : Iss
  pool : Memory                      -- scratchpad bytes by pool address 32,768·bank + offset
  late : List Ungated                -- writes of this cycle by engines, copies and firmware
  ports : List (Nat × Nat × Bool)    -- bank, row, rebuilt: accesses served in this cycle (R34)
  pushAt : Nat                       -- pushes that wait for a bank are tried from this cycle on
  reserved : List (Nat × Nat × Nat)  -- bank, first and last cycle: LDT and STT (R183)
  parity : Store Parity
  kpad : Store Nat                   -- K of the core's scratchpad (R319)
  bstore : Memory
  facets : Store FacetRow            -- key 8·physical row + position
  widths : Store Nat                 -- physical row: 3 − width code (so the default 0 is width 128, R260)
  spill : List SpillEntry
  mx : Matrix
  pane : Pane
  facet : Facet
  ssqQueue : List FacetCmd
  ssq : Option SsqWork
  trap0 : Word
  trap1 : Word
  trapPost : Bool
  trapCount : Nat
  mpc : Nat
  spadr : Word
  resumeAt : Option Nat
  swapWanted : Option Nat            -- a pending swap request: 0 distributor, 1 quantum, 2 YIELD, 3 wait table (R242)
  swapEnd : Nat                      -- the incoming context of the last swap may issue from this cycle
  saved : List Saved
  deriving DecidableEq, Repr

/-- A core after device reset (R41, R237, R239, R257, R260, R270). -/
def Core.reset : Core :=
  { act := Ctx.reset false, shadow := Ctx.reset true, iss := Iss.none, pool := [], late := [], ports := [], pushAt := 0,
    reserved := [], parity := [], kpad := [], bstore := [], facets := [], widths := [], spill := [],
    mx := ⟨0, none, none, [], []⟩, pane := ⟨[], none, none, 0, [], [], [], none⟩, facet := ⟨[], 0, none, [], [], 1⟩,
    ssqQueue := [], ssq := none, trap0 := 0#32, trap1 := 0#32, trapPost := false, trapCount := 0, mpc := 0,
    spadr := 0#32, resumeAt := none, swapWanted := none, swapEnd := 0, saved := [] }

/-! ## Copies and translation (R193 to R198, R326 to R339) -/

/-- An entry of a TLB (R330): the copy engine of the die (4: the translator of host accesses, R342), ASID, first virtual
address, leaf. -/
structure TlbEntry where
  eng : Nat
  asid : Nat
  va : Nat
  leaf : Leaf
  deriving DecidableEq, Repr

/-- A non-leaf entry in a walk cache (R330): engine, ASID, its level, the addresses it covers divided by their number, the
entry. -/
structure TableEntry where
  eng : Nat
  asid : Nat
  level : Nat
  part : Nat
  entry : Nat
  deriving DecidableEq, Repr

/-- A page walker at work (R330): engine, ASID, the 64 KB unit it walks for, and a free time of its end. -/
structure Walker where
  eng : Nat
  asid : Nat
  unit : Nat
  due : Nat
  deriving DecidableEq, Repr

/-- A translation that waits for its walk (R330): which address, whether it writes, in which address space. -/
structure WalkNeed where
  va : Nat
  write : Bool
  asid : Nat
  deriving DecidableEq, Repr

/-- The stage of a copy-class operation. -/
inductive CopyStage where
  | ready                            -- the next row may be moved
  | walk (need : WalkNeed)           -- waits for a walk
  | faulted (tag : Option Nat) (need : WalkNeed) (level cause : Nat)   -- a page fault, its tag when taken (R335)
  | landing                          -- all rows moved; writes not yet visible
  | done (words : List (Nat × Word)) -- words of its packet, STATUS among them, wait for a window of a busy bank (R252)
  | waiting                          -- MPOST or TQPUSH waits for acceptance or a slot
  deriving DecidableEq, Repr

/-- A copy-class operation (R193): opcode 0 COPY, 1 COPYO, 2 GATHERP, 3 MPOST, 4 TQPUSH, 5 LAUNCH, 6 RELAUNCH,
7 TRACE. -/
structure CopyOp where
  id : Nat
  kind : Nat
  core : Nat
  cid : Bool
  tl : Nat
  num : Nat
  addr : Nat
  packet : List Word
  scope : Nat
  asid : Nat
  gang : Option Nat
  launch : Option Nat
  blk : Nat
  trace : Nat
  issued : Nat
  notBefore : Nat                    -- a free time: the engine does not act before it
  row : Nat
  stage : CopyStage
  status : Nat
  slotFree : Nat                     -- the cycle in which the destination slot became free (R337)
  unseen : List Nat                  -- identities of writes not yet visible at its scope
  kv : Store Nat                     -- K of the responses it received (R316.5)
  data : Option (List Byte)          -- the row that has been read and is being delivered
  todo : List (Nat × List Byte)      -- its pieces not yet delivered: pool address, bytes, in one 512-byte row each
  got : List (Nat × Byte)            -- bytes of the source read in arbitration windows (R252), or of a GATHERP's list
  accepted : Bool                    -- the packet has been checked; of a TRACE: TRSBASE was not 0 at its issue (R360)
  peer : Option (Nat × Bool)         -- core and context of the peer (R195)
  clock : Store Nat                  -- VC of its die when it issued (R311)
  stamp : Option (Nat × Nat)         -- identity and number of the row being delivered to a scratchpad (R316)
  vstamp : Store Nat                 -- and its clock
  blocked : List (Nat × Nat)         -- ranges it reads of which a block is locked (R321)
  rowIds : List Nat                  -- writes of a timed row that are not yet visible (R337)
  deriving DecidableEq, Repr

/-- A write on its way to its home or to a copy of it (R315, R316): identity, sending die and number (0: unstamped),
clock, whether it goes to the home, the space (0 HBM, 1 host memory, 2 other packages), the address, the bytes, whether
it passes the watch filters (R355), and a free time before which it is not applied. -/
structure Stamped where
  id : Nat
  src : Nat
  num : Nat
  clock : Store Nat
  home : Bool
  space : Nat
  addr : Nat
  bytes : List Byte
  watched : Bool
  due : Nat
  deriving DecidableEq, Repr

/-- A write to a replicated page (R321): identity, sending die, number, clock, primary address, bytes of one 64-byte
block, stacks, whether the locks are held, whether it passes the watch filters, and a free time of its next phase. -/
structure RepWrite where
  id : Nat
  src : Nat
  num : Nat
  clock : Store Nat
  addr : Nat
  bytes : List Byte
  copies : List Nat
  locked : Bool
  watched : Bool
  due : Nat
  deriving DecidableEq, Repr

/-- A fault record (R335). -/
structure FaultRec where
  flt0 : Word
  flt1 : Word
  flt2 : Word
  flt3 : Word
  deriving DecidableEq, Repr

/-- An invalidation or splinter in progress (R331, R333). -/
structure Inval where
  asid : Nat
  all : Bool
  va : Nat
  units : Nat
  waitFor : List Nat                 -- writes that were on their way
  scans : List (Nat × Nat × Bool × Nat) -- scans that hold a pre-translation (R331): core, counter, context, number
  deriving DecidableEq, Repr

/-- A parked context (R306). -/
structure Parked where
  core : Nat
  cid : Bool
  deriving DecidableEq, Repr

/-- What a die controller records for firmware (R293, R301, R344): a kind and three numbers. -/
structure LogEvent where
  kind : Nat
  a : Nat
  b : Nat
  c : Nat
  deriving DecidableEq, Repr

/-- A die (R2, R291, R297, R315, R316, R330, R334, R335, R344, R347, R349). -/
structure Die where
  tlbva0 : Word
  tlbva1 : Word
  tlbn : Word
  tlbtab : Word
  tlbAsid : Nat
  tlbOp : Nat
  tlbErr : Bool
  inval : Option Inval
  tlbs : List TlbEntry
  tables : List TableEntry
  walkers : List Walker
  walkQueue : List (Nat × Nat × Nat) -- misses that wait for a walker, oldest first: engine, ASID, unit
  tlost : Bool
  faults : List FaultRec
  tags : List (Nat × Nat)            -- pending tag, copy operation
  fltact : Word
  far : List (Nat × List Byte)       -- line number (512 bytes), contents
  vc : Store Nat
  kHome : Store Nat
  kFar : Store Nat
  sent : Nat
  unseen : List (Nat × Nat)          -- stamped writes not yet visible at pkg scope: number, identity
  open_ : List (Nat × Nat)           -- stamped writes whose operation has not completed: number, identity
  incoming : List Stamped
  af : Nat
  stage : Nat
  verified : Bool                    -- stage 1 has verified its image (R347)
  fail : Bool
  pwrcap : Nat
  diecap : Nat
  tcap : Nat
  temp : Nat
  power : Nat
  stops : Nat
  eccc : Nat
  wtfull : Nat
  parked : List Parked
  log : List LogEvent
  reported : List (Nat × Nat)        -- last report: cores that are not free, and one more than the
                                     -- XB a new partition can take (0: the core holds two contexts)
  gangFree : Nat                     -- last report: free gang slots
  lend : Nat                         -- free blocks of the lending pool
  pool : Option Nat                  -- its first address, once firmware has laid it out (R347)
  linkDown : List Nat                -- links of this die that are down (0 or 1)
  routesDown : List Nat              -- packages whose route from this die is down
  opened : List Nat                  -- control-window offsets firmware has opened to the host
  deriving DecidableEq, Repr

/-- A die after device reset (R288, R316.7, R334, R335, R347, R349; log 4 for the lending pool, links and opened
registers). -/
def Die.reset : Die :=
  { tlbva0 := 0#32, tlbva1 := 0#32, tlbn := 0#32, tlbtab := 0#32, tlbAsid := 0, tlbOp := 0, tlbErr := false,
    inval := none, tlbs := [], tables := [], walkers := [], walkQueue := [], tlost := false, faults := [],
    tags := [], fltact := 0#32, far := [], vc := [],
    kHome := [], kFar := [], sent := 0, unseen := [], open_ := [], incoming := [], af := 0,
    stage := 0, verified := false, fail := false,
    pwrcap := 3200, diecap := 150, tcap := 105, temp := 0, power := 0, stops := 0, eccc := 0, wtfull := 0,
    parked := [], log := [], reported := [], gangFree := 8, lend := Config.lendBlocks, pool := none, linkDown := [],
    routesDown := [], opened := [] }

/-! ## The distributor (R284 to R306, R350 to R368) -/

/-- A task record in the distributor (R284): launch, its fields, successors read at acceptance, where it came from. -/
structure Record where
  launch : Nat
  blk : Nat
  entry : Nat
  prio : Nat
  release : Nat
  succ : List Nat
  ready : Bool
  group : Bool                       -- one of a gang or package-barrier group that is placed together (R289)
  mailbox : Option (Nat × Nat × Nat) -- registration slot, ring slot, ASID of a handler (R304, R326)
  words : List Word
  clock : Store Nat                  -- the clock its task starts with (R311)
  deriving DecidableEq, Repr

/-- A queue or the ring of a pipe (R281, R283, R300): entries by ordinal, lent elements in order, next ordinal to
enter, next ordinal to be delivered, ordinals reserved to cores, released ordinals, blocks lent. -/
structure Ring where
  entries : List (Nat × List Word)
  lent : List (Nat × List Word)
  lentUsed : Nat                     -- slots of the lent blocks taken so far
  blocks : Nat
  next : Nat
  deliver : Nat
  popped : List (Nat × Nat × Bool × Nat)   -- ordinal, core, context, bundle: reserved
  again : List (Nat × Nat × Bool)    -- ordinals to be delivered again to a core
  front : List Nat                   -- ordinals back at the front (R303)
  released : List Nat
  low : Nat                          -- every ordinal below it has been freed
  moving : List (Nat × Nat)          -- moves in progress: ordinal, the cycle each ends in (R283)
  waiting : List (List Word)         -- released elements that wait for a lent block (R300)
  clocks : List (Nat × Store Nat)    -- the clocks of the records of a wired queue, by ordinal (R311)
  deriving DecidableEq, Repr

/-- An empty ring. -/
def Ring.empty : Ring :=
  { entries := [], lent := [], lentUsed := 0, blocks := 0, next := 0, deliver := 0, popped := [], again := [], front := [],
    released := [], low := 0, moving := [], waiting := [], clocks := [] }

/-- A queue of the distributor (R289, R294). -/
structure Queue where
  launch : Option Nat
  wired : Bool
  recs : List Record
  ring : Ring
  deriving DecidableEq, Repr

/-- A queue at reset. -/
def Queue.reset : Queue := ⟨none, false, [], Ring.empty⟩

/-- A pipe of a gang (R299 to R301). -/
structure Pipe where
  ew : Option Nat
  boundP : Bool
  boundC : Bool
  broken : Bool
  wire : Option Nat
  ring : Ring
  deriving DecidableEq, Repr

/-- A pipe no task has bound. -/
def Pipe.reset : Pipe := ⟨none, false, false, false, none, Ring.empty⟩

/-- A gang (R297). -/
structure Gang where
  launch : Nat
  die : Nat
  members : List (Nat × Bool × Nat)  -- core, context, block
  pipes : Store Pipe
  deriving DecidableEq, Repr

/-- A barrier instance (R139, R140, R298): scope, launch or tag, number, members, arrived, completion cycle. -/
structure Barrier where
  id : Nat
  scope : Nat
  key : Nat
  quad : Nat
  inst : Nat
  members : List (Nat × Bool)
  arrived : List (Nat × Bool)
  full : Option Nat
  deriving DecidableEq, Repr

/-- The image of an accepted launch (R124, R125). -/
structure Image where
  partition : Word
  entry : Nat
  lines : Nat
  code : Store (BitVec 16)
  dict : Store (Option (BitVec 384))
  preload : List (Nat × Byte)
  chk : Bool
  deriving DecidableEq, Repr

/-- An accepted launch (R284 to R302, R368). -/
structure Launch where
  num : Nat
  op : Nat                           -- the copy-class operation it completes
  relaunch : Bool
  asid : Nat
  desc : List Word
  image : Image
  prio : Nat
  blocks : Nat
  gang : Bool
  dies : Nat
  pin : Option Nat
  bars : Nat
  ptag : Nat
  qbase : Nat
  qcnt : Nat
  wire : Option (Nat × Nat)
  trace : Nat
  window : Nat
  deps : Store Int
  left : List Nat                    -- blocks not yet retired or killed
  placed : Nat                       -- tasks of its queues that run
  killed : Bool
  chosen : Option (List Nat)         -- the set S of a relaunch (R363)
  oldW : List (Nat × Bool × List (Nat × Nat))
  writes : List Nat                  -- writes of its blocks that were not visible when their operations ended (R144)
  prepared : List Record             -- a RELAUNCH's blocks, read at its acceptance (R365)
  redone : List Nat                  -- the blocks that the relaunch has begun to record afresh (R361, R365)
  clock : Store Nat                  -- the clock of its issue, and of the blocks that have retired (R311)
  deriving DecidableEq, Repr

/-- A record of a trace (R357 to R360). -/
structure TraceRec where
  blk : Nat
  valid : Bool
  rovf : Bool
  wovf : Bool
  loc : Bool
  ext : Bool
  kill : Bool
  reads : List (Nat × Nat)           -- runs: first tile, count
  writes : List (Nat × Nat)
  deriving DecidableEq, Repr

/-- A trace (R351 to R366). -/
structure Trace where
  slot : Nat
  gen : Nat
  asid : Nat
  bmap : Nat
  isLocal : Bool
  windows : List (Nat × Nat)         -- first tile, count
  watch : List (Nat × Nat)           -- physical tile, bit number
  recorded : Option (Nat × Nat × Nat × Bool)   -- IMAGE, PARAM, BLOCKS − 1, GANG
  recs : List TraceRec
  stale : List (Nat × Nat × Nat)     -- first tile, count (0: WOVF entry), block
  lost : Bool
  lostRun : Bool                     -- the relaunch in progress ran with LOST set
  deriving DecidableEq, Repr

/-- A message that awaits acceptance (R304, R305): its place in the order, sender, MPOST operation, words, the die that sends
it, and the clock it carries (R311, R316). -/
structure Message where
  order : Nat
  sender : Nat
  op : Option Nat
  words : List Word
  die : Nat
  clock : Store Nat
  deriving DecidableEq, Repr

/-- A mailbox registration (R304, R341). -/
structure Mailbox where
  va : Nat
  queue : Nat
  n : Nat
  ring : Nat
  asid : Nat
  handler : List Word
  host : Bool
  next : Nat                         -- next ordinal
  busy : List Nat                    -- ring slots not free
  waiting : List Message
  deriving DecidableEq, Repr

/-- A slip event (R287, R288). -/
structure Slip where
  frame : Nat
  late : Nat
  launch : Nat
  blk : Nat
  deriving DecidableEq, Repr

/-- The distributor on die 0 (R284 to R293). -/
structure Distributor where
  ticklen : Nat
  framelen : Nat
  tick : Nat
  nextTick : Nat                     -- cycle in which TICK advances next
  tickHeld : Bool
  runmax : Store Nat                 -- 2^32 − 1 − RUNMAX, so the default 0 is the reset value
  qlevel : Store Word
  slips : List Slip
  slipOvf : Bool
  last : Store Nat                   -- level: 255 − last-served queue
  chosen : Store Nat                 -- level: 1 + queue of a head that waits
  busySince : Store Nat              -- level: 1 + cycle its busy period began
  promoted : Option (Nat × Nat)      -- a promoted head's queue, and the level it goes ahead of (R293)
  queues : Store Queue
  launches : List Launch
  waiting : List Nat                 -- launch operations not yet accepted
  gangs : Store (Option Gang)
  barriers : List Barrier
  nextBarrier : Nat
  mailboxes : Store (Option Mailbox)
  traces : List Trace
  traceGen : Nat
  retmap : Store Word
  fenced : List (Nat × Nat)
  errors : List Nat                  -- 256-byte units of HBM with an uncorrectable error (R348)
  trsbase : Nat
  reportAt : Nat                     -- the cycle of the next reports (R291)
  searched : Nat                     -- one more than the cycle of the last search (R290)
  running : List Record              -- released records placed and not yet retired (R287)
  deriving DecidableEq, Repr

/-- The distributor after device reset (R287, R288, R290). -/
def Distributor.reset : Distributor :=
  { ticklen := 3300, framelen := 0, tick := 0, nextTick := 3300, tickHeld := false, runmax := [], qlevel := [],
    slips := [], slipOvf := false, last := [], chosen := [], busySince := [], promoted := none, queues := [],
    launches := [], waiting := [], gangs := [], barriers := [], nextBarrier := 0, mailboxes := [], traces := [],
    traceGen := 1, retmap := [], fenced := [], errors := [], trsbase := 0, reportAt := 0, searched := 0, running := [] }

/-- What a read by the host or firmware returned (R239, R340, R342): the model's record of the answer. -/
structure Answer where
  ok : Bool
  bytes : List Byte
  deriving DecidableEq, Repr

/-- A K16 package, its host's memory and the other packages' memory. -/
structure State where
  cycle : Nat                        -- the core clock, counted from device reset (the model's own)
  cur : Nat                          -- the core whose slots execute (the model's own)
  free : Nat                         -- the counter of the free values (the model's own, log 2)
  cores : Store Core
  dies : Store Die
  hbm : Memory
  host : Memory
  pod : Memory
  roots : Store Nat                  -- level-3 table of each ASID (R326)
  images : Store (Option Nat)        -- bytes of the image at 2^52·ASID + address, where its end is known (R125, log 58)
  ops : List CopyOp
  nextOp : Nat
  reps : List RepWrite
  nextWrite : Nat
  dist : Distributor
  hwbase : Word
  hasid : Word
  hstat : Word
  setNow : List Nat                  -- set in this cycle (R11, R342): HSTAT bits 0-3, 4 OVF, 5 HWBASE or HASID, 8 + die TLOST
  hostDown : Bool
  stopped : Bool                     -- stopped by a thermal trip (R349)
  msix : List Nat                    -- MSI-X vectors raised (R341)
  ringing : List (Nat × Nat)         -- host mailboxes whose vector waits for a ring write (R341): registration, the write
  answer : Option Answer
  hostSent : List Nat                -- identities of host writes not yet visible (R343)
  hostWait : List Instr              -- host accesses that wait, oldest first (R343)
  inputs : List (Nat × Instr)        -- what the outside world will do: cycle, step
  deriving DecidableEq, Repr

/-- The package right after device reset. Memory lists nothing; every register holds its reset value; TICK's first
interval starts in the cycle after reset (R287). The clock, `cur` and `free` are the model's own (DESIGN CHOICE 0,
log 1 and 2). -/
def State.reset : State :=
  { cycle := 0, cur := 0, free := 0, cores := [], dies := [], hbm := [], host := [], pod := [], roots := [], images := [],
    ops := [], nextOp := 0, reps := [], nextWrite := 0, dist := Distributor.reset, hwbase := 0#32, hasid := 0#32,
    hstat := 0#32, setNow := [], hostDown := false, stopped := false, msix := [], ringing := [], answer := none,
    hostSent := [], hostWait := [], inputs := [] }

/-- Why the machine stops. -/
inductive Fault where
  /-- An event names a core, die, mailbox slot or queue that the package does not have (R1: 512 cores, 16 dies).
  Raised by the events that carry a number. Safe: no hardware step exists there. -/
  | absent (number : Nat)
  deriving DecidableEq, Repr

/-- Why the model gives an instruction no meaning. -/
inductive Refusal where
  /-- The instruction has no meaning in the model yet. Raised only by an arm of `exec`. Safe. -/
  | notModelled (mnemonic : String)
  deriving DecidableEq, Repr

/-- The outcome of a step of this machine. -/
abbrev Out := Host.Outcome State Fault Refusal

end Sys2Proof.Machine
end

