-- ==== Sys2Proof/Machine/Ops.lean ====
section
/-! DEFINITION. The named operations over memory, registers, results in flight, marks and traps.

Taking a trap (R232 to R237) is `Ctx.raiseTrap` and `Core.rollback`; the return from one is `Core.resume` (R236,
R239). -/

namespace Sys2Proof.Machine

/-! ## Memory (R6, R33) -/

/-- One byte. -/
def Memory.read (m : Memory) (a : Nat) : Byte := Store.get Memory.unlisted m a

/-- One byte written. -/
def Memory.write (m : Memory) (a : Nat) (b : Byte) : Memory := Store.set Memory.unlisted m a b

/-- Bytes `a` to `a + n - 1`. -/
def Memory.bytes (m : Memory) (a : Nat) : Nat → List Byte
  | 0 => []
  | n + 1 => Memory.read m a :: Memory.bytes m (a + 1) n

/-- A little-endian number of `n` bytes (R6). -/
def Memory.num (m : Memory) (a n : Nat) : Nat := ofBytes (Memory.bytes m a n)

/-- A little-endian 32-bit word (R6). -/
def Memory.word (m : Memory) (a : Nat) : Word := BitVec.ofNat 32 (Memory.num m a 4)

/-- Bytes written in order, the last to an address standing. -/
def Memory.writeCells : Memory → List (Nat × Byte) → Memory
  | m, [] => m
  | m, (a, b) :: l => Memory.writeCells (Memory.write m a b) l

/-- The cells of consecutive bytes from `a`. -/
def cellsAt (a : Nat) : List Byte → List (Nat × Byte)
  | [] => []
  | b :: l => (a, b) :: cellsAt (a + 1) l

/-- Consecutive bytes written from `a`. -/
def Memory.writeBytes (m : Memory) (a : Nat) (l : List Byte) : Memory := Memory.writeCells m (cellsAt a l)

/-- The value listed last for a key. -/
def lookup {α : Type} (l : List (Nat × α)) (k : Nat) : Option α :=
  match l with
  | [] => none
  | (k', x) :: r => match lookup r k with
    | some y => some y
    | none => if k = k' then some x else none

/-- Insertion by a key, before the entries of an equal key. -/
def insertBy {α : Type} (key : α → Nat) (x : α) : List α → List α
  | [] => [x]
  | y :: l => if key x ≤ key y then x :: y :: l else y :: insertBy key x l

/-- A stable sort by a rising key. -/
def sortBy {α : Type} (key : α → Nat) : List α → List α
  | [] => []
  | x :: l => insertBy key x (sortBy key l)

/-! ## Cores and contexts -/

/-- A step of a core that the package has (R1). -/
def ofCore (core : Nat) (o : Out) : Out := if 512 ≤ core then .fault (.absent core) else o

/-- Core `n`. -/
def State.core (s : State) (n : Nat) : Core := Store.get Core.reset s.cores n

/-- Core `n` replaced. -/
def State.setCore (s : State) (n : Nat) (c : Core) : State := { s with cores := Store.insert s.cores n c }

/-- One core changed. -/
def State.onCore (s : State) (n : Nat) (f : Core → Core) : State := s.setCore n (f (s.core n))

/-- The core whose slots execute. -/
def State.here (s : State) : Core := s.core s.cur

/-- The core whose slots execute, changed. -/
def State.onHere (s : State) (f : Core → Core) : State := s.onCore s.cur f

/-- The active context of the core whose slots execute (R240). -/
def State.act (s : State) : Ctx := s.here.act

/-- That context changed. -/
def State.onAct (s : State) (f : Ctx → Ctx) : State := s.onHere fun c => { c with act := f c.act }

/-- The issue context changed. -/
def State.onIss (s : State) (f : Iss → Iss) : State := s.onHere fun c => { c with iss := f c.iss }

/-- Die `d`. -/
def State.die (s : State) (d : Nat) : Die := Store.get Die.reset s.dies d

/-- One die changed. -/
def State.onDie (s : State) (d : Nat) (f : Die → Die) : State :=
  { s with dies := Store.insert s.dies d (f (s.die d)) }

/-- The distributor changed. -/
def State.onDist (s : State) (f : Distributor → Distributor) : State := { s with dist := f s.dist }

/-- A free value drawn: the counter advances (log 2). -/
def State.draw (s : State) : Nat × State := (Config.freeNat s.free, { s with free := s.free + 1 })

/-- The die of a core (R40). -/
def dieOf (core : Nat) : Nat := core / 32
/-- The lowest number of a list of numbered writes, less one; `top` where the list is empty. -/
def belowAll (l : List (Nat × Nat)) (top : Nat) : Nat := l.foldl (fun m e => min m (e.1 - 1)) top

/-- VC of a die, its own entry computed from the operations that have not completed (R316.2). -/
def State.clockOf (s : State) (d : Nat) : Store Nat :=
  Store.set 0 (s.die d).vc d (belowAll (s.die d).open_ (s.die d).sent)

/-- The entrywise maximum of two vectors (R316). -/
def mergeMax (a b : Store Nat) : Store Nat :=
  (List.range 16).foldl (fun t k => Store.set 0 t k (max (Store.get 0 a k) (Store.get 0 b k))) []

/-- A die's clock takes in another: an edge of R311 at pkg scope or wider ends on the die. -/
def State.joinClock (s : State) (die : Nat) (k : Store Nat) : State := s.onDie die fun d => { d with vc := mergeMax d.vc k }

/-- A write of an operation at pkg scope or wider takes the next number of its die (R316.1, R316.2). -/
def State.numberWrite (s : State) (die id : Nat) (stamped : Bool) : Nat × State :=
  if stamped then
    let n := (s.die die).sent + 1
    (n, s.onDie die fun d => { d with sent := n, unseen := d.unseen ++ [(n, id)], open_ := d.open_ ++ [(n, id)] })
  else (0, s)

/-- A numbered write whose operation has completed (R316.2). -/
def State.closeWrite (s : State) (die id : Nat) : State :=
  s.onDie die fun d => { d with open_ := d.open_.filter fun e => !decide (e.2 = id) }

/-- The context of a core by its identity, which a swap does not change (R243). -/
def Core.ctx (c : Core) (cid : Bool) : Ctx := if c.act.cid = cid then c.act else c.shadow

/-- That context changed. -/
def Core.onCtx (c : Core) (cid : Bool) (f : Ctx → Ctx) : Core :=
  if c.act.cid = cid then { c with act := f c.act } else { c with shadow := f c.shadow }

/-! ## The partition and the scratchpad window (R31 to R33) -/

/-- VB (R31). -/
def Ctx.vb (x : Ctx) : Nat := field x.partition.toNat 28 4

/-- MB (R31). -/
def Ctx.mb (x : Ctx) : Nat := field x.partition.toNat 23 5

/-- XB (R31). -/
def Ctx.xb (x : Ctx) : Nat := field x.partition.toNat 16 7

/-- May this partition word of a launch reach a core (R31)? A word with bits of [15:0] set may not either (R125, log 123). -/
def partitionOk (w : Nat) : Bool :=
  decide (field w 28 4 ≤ 12) && decide (field w 23 5 ≤ 16) && decide (field w 16 7 ≤ 64) &&
  decide (field w 28 4 + field w 23 5 + field w 16 7 ≤ 64) && decide (field w 0 16 = 0)

/-- Scratchpad banks of a context (R32): up to bank 63, less the banks of the second context. -/
def Ctx.banks (x : Ctx) : Nat := 64 - x.bankBase - x.vb - x.mb - x.xb

/-- Bytes of the scratchpad window (R33). -/
def Ctx.window (x : Ctx) : Nat := 32768 * x.banks

/-- First bank of the scratchpad (R32). -/
def Ctx.firstBank (x : Ctx) : Nat := x.bankBase + x.vb + x.mb

/-- The pool address of scratchpad address A (R33): 32,768·bank + offset. -/
def Ctx.poolAddr (x : Ctx) (a : Nat) : Nat := 32768 * x.firstBank + a

/-- Does an access of `n` bytes at A lie in the window, checked whole (R33)? -/
def Ctx.inWindow (x : Ctx) (a n : Nat) : Bool := decide (a + n ≤ x.window)

/-- The vector registers a task may name (R24). -/
def Ctx.vBound (x : Ctx) : Nat := 64 * x.vb

/-- The matrix registers a task may name (R24). -/
def Ctx.mBound (x : Ctx) : Nat := 2 * x.mb

/-- Length of the code window in indices (R18, R40). -/
def Ctx.windowEnd (x : Ctx) : Nat := 16 * field x.codeWin.toNat 16 12

/-- The index at a PC (R18): counted from the first line of the window. -/
def Ctx.index (x : Ctx) (pc : Nat) : Nat :=
  (Store.get 0#16 x.code (16 * field x.codeWin.toNat 0 11 + pc)).toNat

/-- Checking scoreboard on (R225). -/
def Ctx.chk (x : Ctx) : Bool := match x.task with
  | some t => t.chk
  | none => false

/-! ## Registers (R17, R21) -/

/-- A scalar register; s0 reads 0 (R21). -/
def Regs.readS (r : Regs) (n : Nat) : Word := if n = 0 then 0#32 else Store.get 0#32 r.s n

/-- A scalar predicate; sp0 reads true (R21). -/
def Regs.readSp (r : Regs) (n : Nat) : Bool := if n = 0 then true else Store.get false r.sp n

/-- An address register. -/
def Regs.readA (r : Regs) (n : Nat) : Word := Store.get 0#32 r.a n

/-- A vector predicate of a cluster; p0 reads all ones (R21). -/
def Regs.readP (r : Regs) (cl n : Nat) : BitVec 16 := if n = 0 then 0xFFFF#16 else Store.get 0#16 r.p (16 * cl + n)

/-- The physical register a name reaches through the rotation window (R20). -/
def Regs.physical (r : Regs) (n : Nat) : Nat :=
  match r.rot with
  | none => n
  | some w => if w.wb ≤ n ∧ n < w.wb + w.wl then w.wb + (n - w.wb + w.wo) % w.wl else n

/-- The key of a lane of a physical register. -/
def vKey (cl n l : Nat) : Nat := (768 * cl + n) * 16 + l

/-- Sixteen lane numbers. -/
def lanes16 : List Nat := [0, 1, 2, 3, 4, 5, 6, 7, 8, 9, 10, 11, 12, 13, 14, 15]

/-- Eight cluster numbers. -/
def clusters8 : List Nat := [0, 1, 2, 3, 4, 5, 6, 7]

/-- A named vector register of a cluster, lane by lane (R20, R22). -/
def Regs.readV (r : Regs) (cl n : Nat) : List Word :=
  lanes16.map fun l => Store.get 0#32 r.v (vKey cl (r.physical n) l)

/-- The key of an element of a matrix register. -/
def mKey (m i j : Nat) : Nat := (64 * m + i) * 64 + j

/-- An element of a matrix register. -/
def Regs.readM (r : Regs) (m i j : Nat) : Word := Store.get 0#32 r.m (mKey m i j)

/-- Element t of the operand m.dir(k) (R25): row and column. -/
def mElem (dir k t : Nat) : Nat × Nat :=
  match dir with
  | 0 => (k, t)
  | 1 => (t, k)
  | _ => (t, (t + k) % 64)

/-- The 64 elements of m.dir(k). -/
def Regs.readMDir (r : Regs) (m dir k : Nat) : List Word :=
  (List.range 64).map fun t => r.readM m (mElem dir k t).1 (mElem dir k t).2

/-- Cells put into a table of words. -/
def setWords : Store Word → List (Nat × Word) → Store Word
  | t, [] => t
  | t, (k, x) :: l => setWords (Store.set 0#32 t k x) l

/-- One bit of a 16-bit predicate set. -/
def setBit16 (x : BitVec 16) (l : Nat) (b : Bool) : BitVec 16 :=
  if b then x ||| BitVec.ofNat 16 (2 ^ l) else x &&& ~~~ (BitVec.ofNat 16 (2 ^ l))

/-- Predicate bits put into the predicate table, keys 16·(16·cluster + number) + lane. -/
def setPreds : Store (BitVec 16) → List (Nat × Bool) → Store (BitVec 16)
  | t, [] => t
  | t, (k, b) :: l =>
    setPreds (Store.set 0#16 t (k / 16) (setBit16 (Store.get 0#16 t (k / 16)) (k % 16) b)) l

/-- A landing's effect on the registers (R21, R152). -/
def Regs.apply (r : Regs) : Eff → Regs
  | .s n x => { r with s := Store.set 0#32 r.s n x }
  | .sp n x => { r with sp := Store.set false r.sp n x }
  | .a n x => { r with a := Store.set 0#32 r.a n x }
  | .aut k x => { r with aut := Store.set 0#24 r.aut k x }
  | .v cells => { r with v := setWords r.v cells }
  | .p cells => { r with p := setPreds r.p cells }
  | .m cells => { r with m := setWords r.m cells }
  | .bindQ q b => { r with q := Store.set none r.q q b }
  | _ => r

/-! ## Marks (R228 to R231) -/

/-- A change made to the live registers and to what every mark holds: engine and copy writes, and landings of
operations that precede the mark (R230). -/
def Ctx.onRegs (x : Ctx) (seq : Nat) (f : Regs → Regs) : Ctx :=
  { x with regs := f x.regs, marks := x.marks.map fun k => if seq < k.seq then { k with regs := f k.regs } else k }

/-- A change made to the live registers and to what every mark holds, whatever precedes it. -/
def Ctx.onAllRegs (x : Ctx) (f : Regs → Regs) : Ctx :=
  { x with regs := f x.regs, marks := x.marks.map fun k => { k with regs := f k.regs } }

/-- A restart mark taken between the bundles before number `x.seq` and that bundle (R228, R241). -/
def Ctx.takeMark (x : Ctx) (cycle : Nat) : Ctx :=
  { x with marks := x.marks ++ [⟨x.seq, cycle, false, x.regs⟩], sinceMark := 0 }

/-- Is an effect that of a flag-pending operation (R229)? -/
def Eff.flagPending : Eff → Bool
  | .flags _ _ => true
  | .fpu => true
  | _ => false

/-- Does a flag-pending operation of a bundle before `seq` remain (R229, R231)? -/
def Ctx.flagPendingBefore (x : Ctx) (seq : Nat) : Bool :=
  x.pend.any fun l => l.eff.flagPending && decide (l.seq < seq)

/-- The first mark that can commit: uncommitted, with no flag-pending operation before it (R231). -/
def Ctx.nextCommit (x : Ctx) : Option Mark :=
  firstSome (fun k => if k.committed || x.flagPendingBefore k.seq then none else some k) x.marks

/-- A circular buffer changed. -/
def Regs.onCb (r : Regs) (n : Nat) (f : CBuf → CBuf) : Regs :=
  { r with cb := Store.set CBuf.unset r.cb n (f (Store.get CBuf.unset r.cb n)) }

/-- The slots emptied by bundles before `seq` are freed (R177, R190). -/
def Regs.freeEmptied (r : Regs) (seq : Nat) : Regs :=
  let go := r.emptied.filter fun e => decide (e.2 < seq)
  let r1 := { r with emptied := r.emptied.filter fun e => !decide (e.2 < seq) }
  go.foldl (fun r e => r.onCb e.1 fun b => { b with free := b.free + 1 }) r1

/-- Slots that a release fills in circular buffers (R190): buffer, count. -/
def Ctx.fillReleased (x : Ctx) : List (Nat × Nat) → Ctx
  | [] => x
  | (n, k) :: l => Ctx.fillReleased (x.onAllRegs fun r => r.onCb n fun b => { b with filled := b.filled + k }) l

/-- What a released and written store hides from an engine command whose bundle lies before the mark (R229). -/
def Gated.ghost (g : Gated) : List Ghost := if g.old.isEmpty then [] else [⟨g.relAt.1, g.relAt.2, g.old⟩]

/-- Is a gate entry released by a mark: written in or before the mark's cycle, by a bundle before the mark; a HALT or a
swap releases every entry (R135, R231, R242)? -/
def Gated.goes (g : Gated) (cycle seq : Nat) (all : Bool) : Bool :=
  !g.released && (all || (decide (g.whole ≤ cycle) && decide (g.seq < seq) && g.stream.isNone))

/-- Is an entry an element of a circular buffer, or of a pipe, that is not released? -/
def Gated.holdsBack (g : Gated) (cb pipe : Option Nat) : Bool :=
  !g.released && ((cb.isSome && decide (g.fills.map (fun f => f.1) = cb)) ||
    (pipe.isSome && decide (g.pipe.map (fun p => p.1) = pipe)))

/-- What the release of an element brings, put on the element before it that is not released: a slot counts as filled,
and an element enters its pipe, only after the elements before it (R83, R154, R190, R299). -/
def Gated.take (g late : Gated) : Gated :=
  { g with
    fills := match g.fills, late.fills with
      | some a, some b => some (a.1, a.2 + b.2)
      | a, _ => a
    pipe := match g.pipe, late.pipe with
      | some a, some b => some (a.1, a.2 ++ b.2)
      | a, _ => a }

/-- What a release brings: slots filled and elements entered in pipes, in order, and the gate entries, latest first. -/
structure Released where
  gate : List Gated
  fills : List (Nat × Nat)
  pushes : List (Nat × List Word)

/-- One entry, the ones before it being settled. -/
def Released.step (cycle seq : Nat) (all : Bool) (r : Released) (g : Gated) : Released :=
  if !g.goes cycle seq all then { r with gate := g :: r.gate }
  else
    let back := Gated.holdsBack (cb := g.fills.map fun f => f.1) (pipe := g.pipe.map fun p => p.1)
    let gone : Gated := { g with released := true, relAt := (cycle, seq), fills := none, pipe := none }
    if r.gate.any back then { r with gate := gone :: replaceFirst back (fun o => o.take g) r.gate }
    else
      { gate := gone :: r.gate
        fills := r.fills ++ g.fills.toList
        pushes := r.pushes ++ match g.pipe with
          | some p => p.2.map fun w => (p.1, w)
          | none => [] }

/-- The gate buffer at a release. -/
def Ctx.settle (x : Ctx) (cycle seq : Nat) (all : Bool) : Released :=
  let r := x.gate.foldl (Released.step cycle seq all) ⟨[], [], []⟩
  { r with gate := r.gate.reverse }

/-- A release (R177, R231): stores become visible, slots are filled, and what engine commands do not see is kept. -/
def Ctx.release (x : Ctx) (cycle seq : Nat) (all : Bool) : Ctx :=
  let r := x.settle cycle seq all
  let x1 := Ctx.fillReleased x r.fills
  let gone := r.gate.filter fun g => g.written && g.released
  { x1 with gate := r.gate.filter fun g => !(g.written && g.released),
            ghosts := x1.ghosts ++ (gone.map Gated.ghost).flatten }

/-- The elements a release sends to pipes, in order (R300). -/
def Ctx.releasedPushes (x : Ctx) (cycle seq : Nat) (all : Bool) : List (Nat × List Word) := (x.settle cycle seq all).pushes

/-- Marks older than the last committed one are forgotten: no later trap can reach them. -/
def dropOld : List Mark → List Mark
  | [] => []
  | k :: l => if l.any (fun j => j.committed) then dropOld l else k :: l

/-- A mark commits and releases the gate buffer (R231); `all` for the end mark of a HALT (R135). -/
def Ctx.commitMark (x : Ctx) (k : Mark) (all : Bool) : Ctx :=
  let x1 := Ctx.release x k.cycle k.seq all
  let x2 := x1.onAllRegs fun r => r.freeEmptied k.seq
  let marks := replaceFirst (fun j => decide (j.seq = k.seq) && !j.committed)
    (fun j => { j with committed := true }) x2.marks
  { x2 with marks := dropOld marks }

/-! ## Results in flight (R8, R102, R152) -/

/-- What two slots of one bundle write alike (R102): the register number of the first such write, for the trap
record. -/
def Eff.clash : Eff → Eff → Option Nat
  | .s i _, .s j _ => if i = j then some i else none
  | .sp i _, .sp j _ => if i = j then some i else none
  | .a i _, .a j _ => if i = j then some i else none
  | .aut i _, .aut j _ => if i = j then some (i / 6) else none
  | .v l, .v k => firstSome (fun c => if k.any (fun d => decide (d.1 = c.1)) then some (c.1 / 16 % 768) else none) l
  | .p l, .p k => firstSome (fun c => if k.any (fun d => decide (d.1 = c.1)) then some (c.1 / 16 % 16) else none) l
  | .m l, .m k => firstSome (fun c => if k.any (fun d => decide (d.1 = c.1)) then some (c.1 / 4096) else none) l
  | .fmt e _, .fmt f _ => if e = f then some e else none
  | .s i _, .amo _ _ _ _ d => if d ≠ 0 ∧ i = d then some i else none
  | .amo _ _ _ _ d, .s i _ => if d ≠ 0 ∧ i = d then some i else none
  | .shut _ true target drop, .m k =>
    if k.any fun c => decide (c.1 / 4096 = target) && !drop.contains c.1 then some target else none
  | _, _ => none

/-- The earlier write less what the later slot writes (R102); none when nothing is left. An AMO keeps its access. -/
def Eff.without : Eff → Eff → Option Eff
  | .v l, .v k => some (.v (l.filter fun c => !(k.any fun d => decide (d.1 = c.1))))
  | .p l, .p k => some (.p (l.filter fun c => !(k.any fun d => decide (d.1 = c.1))))
  | .m l, .m k => some (Eff.m (l.filter fun c => !(k.any fun d => decide (d.1 = c.1))))
  | .shut h true target drop, .m k =>
    some (.shut h true target (drop ++ (k.map fun c => c.1).filter fun a => decide (a / 4096 = target) && !drop.contains a))
  | .amo addr op x k d, f => match Eff.clash (.amo addr op x k d) f with
    | some _ => some (.amo addr op x k 0)
    | none => some (.amo addr op x k d)
  | e, f => match Eff.clash e f with
    | some _ => none
    | none => some e

/-- Two landings of one bundle from different slots; of what no trap cancels only a SHUTC's commit (R102, R141). -/
def Landing.meets (old new : Landing) : Bool :=
  decide (old.seq = new.seq) && decide (old.slot ≠ new.slot) && (!old.eng || decide (old.slot = .c))

/-- A result put in flight, suppressing what earlier slots of its bundle write alike (R102). -/
def Ctx.addLanding (x : Ctx) (l : Landing) : Ctx :=
  let kept := x.pend.filterMap fun o =>
    if o.meets l then (Eff.without o.eff l.eff).map fun e => { o with eff := e } else some o
  { x with pend := kept ++ [l] }

/-- The register of a dual write that a new result makes (R102). -/
def Ctx.dualWrite (x : Ctx) (l : Landing) : Option Nat :=
  firstSome (fun o => if o.meets l then Eff.clash o.eff l.eff else none) x.pend

/-! ## Traps raised by slots (R232, R235) -/

/-- The SLOT field of TRAP0 (R237). -/
def Slot.code : Slot → Nat
  | .c => 0
  | .s0 => 1
  | .s1 => 2
  | .e => 3
  | .v0 => 4
  | .v1 => 5
  | .m => 6

/-- Position of a slot in the order of R235: C, S0, S1, M, V0, V1, E. -/
def slotRank : Nat → Nat
  | 0 => 0
  | 1 => 1
  | 2 => 2
  | 6 => 3
  | 4 => 4
  | 5 => 5
  | 3 => 6
  | _ => 0

/-- The order of R235 within a bundle: fetch-time traps, schedule faults, slot traps by slot, scoreboard and
dual-write traps. -/
def TrapCause.key (t : TrapCause) : Nat :=
  if t.cause = 1 ∨ t.cause = 2 ∨ t.cause = 3 then 0
  else if t.cause = 6 then 8 + slotRank t.slot
  else if t.cause = 0xC then 1000 + 8 * slotRank t.slot + t.cluster
  else if t.cause = 0xD then 2000 + slotRank t.slot
  else 100 + 8 * slotRank t.slot + t.cluster

/-- The trap that is kept of two of one bundle (R235). -/
def betterTrap (a : Option TrapCause) (t : TrapCause) : TrapCause :=
  match a with
  | none => t
  | some o => if t.key < o.key then t else o

/-- A slot raises a trap: recorded in the issue context; the bundle takes no effect (R232). -/
def State.raise (s : State) (cause : Nat) (slot : Slot) (cluster detail : Nat) : State :=
  s.onIss fun i => { i with trap := some (betterTrap i.trap ⟨cause, slot.code, cluster, i.pc, detail⟩) }

/-- CSTAT bits (R40): 0 DW, 1 BE, 2 BC. -/
def Ctx.setCstat (x : Ctx) (bit : Nat) : Ctx :=
  { x with cstat := x.cstat ||| BitVec.ofNat 32 (2 ^ bit), fresh := x.fresh ++ [(8, BitVec.ofNat 32 (2 ^ bit))] }

/-- A landing joins those in flight. A dual write sets DW, or traps under the checking scoreboard (R102, R225). -/
def State.putLanding (s : State) (l : Landing) : State :=
  match s.act.dualWrite l with
  | none => s.onAct fun x => x.addLanding l
  | some n =>
    if s.act.chk then s.raise 0xD l.slot 0 n
    else s.onAct fun x => (x.addLanding l).setCstat 0

/-- A slot puts a result in flight, readable from cycle `due` (R8, R152). Writes to s0, sp0 and p0 are discarded
(R21). -/
def State.land (s : State) (slot : Slot) (due : Nat) (e : Eff) : State :=
  s.putLanding ⟨due, s.act.seq, slot, s.here.iss.pc, s.here.iss.post, false, e⟩

/-- The same for what no trap cancels: matrix registers that the C or the E slot writes (R141, R209, R230, R233). -/
def State.landKept (s : State) (slot : Slot) (due : Nat) (e : Eff) : State :=
  s.putLanding ⟨due, s.act.seq, slot, s.here.iss.pc, true, true, e⟩

/-- A scalar result; s0 discards it (R21). -/
def State.landS (s : State) (slot : Slot) (latency : Nat) (n : Nat) (x : Word) : State :=
  if n = 0 then s else s.land slot (s.cycle + latency) (.s n x)

/-- A scalar predicate result; sp0 discards it (R21). -/
def State.landSp (s : State) (slot : Slot) (latency : Nat) (n : Nat) (x : Bool) : State :=
  if n = 0 then s else s.land slot (s.cycle + latency) (.sp n x)

/-- A result of an engine, which no trap cancels (R230, R233). -/
def Ctx.landEngine (x : Ctx) (seq pc due : Nat) (e : Eff) : Ctx :=
  { x with pend := x.pend ++ [⟨due, seq, .e, pc, true, true, e⟩] }

/-! ## Timeline counters (R30) -/

/-- C (R30): the largest n for which every operation numbered n or below has completed. -/
def Timeline.c (t : Timeline) : Nat := t.out.foldl (fun m n => min m (n - 1)) t.i

/-- A counter of a context. -/
def Ctx.timeline (x : Ctx) (n : Nat) : Timeline := Store.get Timeline.zero x.tl n

/-- The next number taken (R30). -/
def Ctx.number (x : Ctx) (n : Nat) : Ctx :=
  let t := x.timeline n
  { x with tl := Store.insert x.tl n ⟨t.i + 1, t.out ++ [t.i + 1]⟩ }

/-- A completion in a cycle, counted from the next (R138). -/
def Ctx.complete (x : Ctx) (tl num cycle : Nat) : Ctx := { x with comps := x.comps ++ [⟨tl, num, cycle⟩] }

/-- The completions of earlier cycles counted. -/
def Ctx.foldComps (x : Ctx) (cycle : Nat) : Ctx :=
  let x1 := { x with comps := x.comps.filter fun k => decide (cycle ≤ k.cycle) }
  (x.comps.filter fun k => decide (k.cycle < cycle)).foldl (fun x k =>
    let t := x.timeline k.tl
    { x with tl := Store.insert x.tl k.tl ⟨t.i, t.out.filter fun n => decide (n ≠ k.num)⟩ }) x1

/-- Operations outstanding on tl4 to tl31 together (R193). -/
def Ctx.outstanding (x : Ctx) : Nat :=
  x.tl.foldl (fun m e => if 4 ≤ e.1 then m + e.2.out.length else m) 0

/-! ## The gate buffer and the pool (R34, R176, R177, R234, R253) -/

/-- The bank of a pool address. -/
def bankOf (a : Nat) : Nat := a / 32768

/-- The 512-byte row of a pool address (R175), numbered through the pool. -/
def rowOf (a : Nat) : Nat := a / 512

/-- Unreleased stores of a context, counted from issue (R177). -/
def Ctx.gateCount (x : Ctx) : Nat := (x.gate.filter fun g => !g.released && !g.part).length

/-- The bits of a byte under a mask replaced. -/
def mergeByte (old new mk : Byte) : Byte := (old &&& ~~~ mk) ||| (new &&& mk)

/-- A byte without the hidden ones of the writes that made it, listed newest first (R177, R214, R253). `set` are the bits
whose last write is seen; a write is hidden (true) or seen. -/
def unwrite (b set : Byte) : List (Bool × Undo) → Byte
  | [] => b
  | (hidden, u) :: l =>
    let mk := u.mask &&& ~~~ set
    if hidden then unwrite (mergeByte b u.byte mk) set l else unwrite b (set ||| mk) l

/-- The writes to a byte that the gate buffer and the released stores of a context still know, newest first: those not
released are hidden, and those of the stores that `hide` picks. -/
def Ctx.writesTo (x : Ctx) (a : Nat) (hide : Ghost → Bool) : List (Bool × Undo) :=
  let mine (hidden : Bool) (l : List Undo) : List (Bool × Undo) :=
    (l.filter fun u => decide (u.addr = a)).map fun u => (hidden, u)
  (sortBy (fun (e : Bool × Undo) => e.2.at_) ((x.ghosts.map fun g => mine (hide g) g.old).flatten ++
    (x.gate.map fun g => mine (!g.released) g.old).flatten)).reverse

/-- A byte restored where its mask says so (R234). -/
def restoreByte (m : Memory) (u : Undo) : Memory := Memory.write m u.addr (mergeByte (Memory.read m u.addr) u.byte u.mask)

/-- A byte with the restores that wait for a window made (R255): nobody but the slots sees a discarded store. -/
def Core.restored (c : Core) (a : Nat) : Byte :=
  c.pane.accesses.foldl (fun b q => match q with
    | .restore cells => cells.foldl (fun b u => if u.addr = a then mergeByte b u.byte u.mask else b) b
    | _ => b) (Memory.read c.pool a)

/-- A pool byte without the writes hidden from an accessor outside the slots: those not released or discarded, and those of
the released stores that the accessor does not see (R177, R214, R229, R253). -/
def Core.viewHiding (c : Core) (hideAct hideShadow : Ghost → Bool) (a : Nat) : Byte :=
  unwrite (unwrite (c.restored a) 0#8 (c.act.writesTo a hideAct)) 0#8 (c.shadow.writesTo a hideShadow)

/-- The released view of a pool byte. -/
def Core.view (c : Core) (a : Nat) : Byte := c.viewHiding (fun _ => false) (fun _ => false) a

/-- The released view of `n` bytes. -/
def Core.viewBytes (c : Core) (a : Nat) : Nat → List Byte
  | 0 => []
  | n + 1 => c.view a :: Core.viewBytes c (a + 1) n

/-- The released view of a word. -/
def Core.viewWord (c : Core) (a : Nat) : Word := BitVec.ofNat 32 (ofBytes (c.viewBytes a 4))

/-- Does an engine command not see a store although it has been released (R229): one released by a mark after its bundle;
in a pane run only one released before the run began, since it sees every release that happens while it goes on (R253)? -/
def Ctx.hides (x : Ctx) (cid : Bool) (seq at_ : Nat) (before : Option Nat) (g : Ghost) : Bool :=
  (if x.cid = cid then decide (seq < g.seq) else decide (at_ < g.cycle)) &&
  (match before with
    | some t => decide (g.cycle < t)
    | none => true)

/-- A pool byte as an engine command sees it (R177, R229, R253). -/
def Core.engineByte (c : Core) (cid : Bool) (seq at_ : Nat) (before : Option Nat) (a : Nat) : Byte :=
  c.viewHiding (c.act.hides cid seq at_ before) (c.shadow.hides cid seq at_ before) a

/-- `n` such bytes. -/
def Core.engineBytes (c : Core) (cid : Bool) (seq at_ : Nat) (before : Option Nat) (a : Nat) : Nat → List Byte
  | 0 => []
  | n + 1 => c.engineByte cid seq at_ before a :: Core.engineBytes c cid seq at_ before (a + 1) n

/-- Bits of a byte written outside the gate buffer keep their value through a discard and are not hidden (R234, R253):
`mk` are the bits written. -/
def keepBits (a : Nat) (mk : Byte) (old : List Undo) : List Undo :=
  old.map fun u => if u.addr = a then { u with mask := u.mask &&& ~~~ mk } else u

/-- The same for everything a context keeps of a byte. -/
def Ctx.keepBits (x : Ctx) (a : Nat) (mk : Byte) : Ctx :=
  { x with gate := x.gate.map fun g => { g with old := Sys2Proof.Machine.keepBits a mk g.old },
           ghosts := x.ghosts.map fun g => { g with old := Sys2Proof.Machine.keepBits a mk g.old } }

/-- Some bits of a byte written by an accessor that is not gated. -/
def Core.writeBits (c : Core) (a : Nat) (b mk : Byte) : Core :=
  let old := Memory.read c.pool a
  let keep (q : Queued) : Queued := match q with
    | .restore cells => .restore (Sys2Proof.Machine.keepBits a mk cells)
    | q => q
  { c with
    pool := Memory.write c.pool a (mergeByte old b mk), act := c.act.keepBits a mk,
    shadow := c.shadow.keepBits a mk, pane := { c.pane with accesses := c.pane.accesses.map keep } }

/-- A byte written by an accessor that is not gated. -/
def Core.writeUngated (c : Core) (a : Nat) (b : Byte) : Core := c.writeBits a b 0xFF#8

/-- The bytes of an ungated write. -/
def Core.writeLate (c : Core) (u : Ungated) : Core :=
  u.cells.foldl (fun c e => c.writeUngated e.1 e.2) c

/-- The bits of a byte that a store writes (R183). -/
def Gated.mask (g : Gated) (a : Nat) : Byte := (lookup g.masks a).getD 0xFF#8

/-- Does a row of a store still wait to be served (R34)? -/
def Gated.rowWaits (g : Gated) (row : Nat) : Bool := match g.stream with
  | some e => e.2.contains row
  | none => false

/-- The place of a write among all writes: its cycle, then, within a cycle, the accessor first in the order of R34 last. -/
def writeTime (cycle prio : Nat) : Nat := 64 * cycle + (63 - prio)

/-- The bytes of a store whose rows have been served written into the bank, the overwritten bytes kept while it is
unreleased (R177). -/
def Gated.writeInto (g : Gated) (cycle : Nat) (m : Memory) : Gated × Memory :=
  let go := g.cells.filter fun e => !g.rowWaits (rowOf e.1)
  let rest := g.cells.filter fun e => g.rowWaits (rowOf e.1)
  let now := go.map fun e => (e.1, mergeByte (Memory.read m e.1) e.2 (g.mask e.1))
  let old := go.map fun e => (⟨e.1, Memory.read m e.1, g.mask e.1, writeTime cycle g.prio⟩ : Undo)
  ({ g with written := g.stream.isNone, cells := rest, old := g.old ++ old }, Memory.writeCells m now)

/-- A store is due when its cycle has passed and not every row of it waits for its bank. -/
def Gated.dueBefore (g : Gated) (cycle : Nat) : Bool :=
  !g.written && decide (g.wcycle < cycle) && (g.stream.isNone || g.cells.any fun e => !g.rowWaits (rowOf e.1))

/-- The stores of one accessor rank due before a cycle, written in order. -/
def writeGates (prio cycle : Nat) : List Gated → Memory → List Gated × Memory
  | [], m => ([], m)
  | g :: l, m =>
    if g.dueBefore cycle && decide (g.prio = prio) then
      let r := g.writeInto cycle m
      let t := writeGates prio cycle l r.2
      (r.1 :: t.1, t.2)
    else
      let t := writeGates prio cycle l m
      (g :: t.1, t.2)

/-- One rank of a core's gated stores. -/
def Core.writeRank (c : Core) (cycle prio : Nat) : Core :=
  let a := writeGates prio cycle c.act.gate c.pool
  let b := writeGates prio cycle c.shadow.gate a.2
  { c with pool := b.2, act := { c.act with gate := a.1 }, shadow := { c.shadow with gate := b.1 } }

/-- The writes of the cycles before `cycle` reach the pool: of two that reach one byte in one cycle the accessor
first in the order of R34 stands, so the others are written first: control windows, facet engine and copies, then the
stream registers, then the M slot, whose AMO is not gated (R185). -/
def Core.applyWrites (c : Core) (cycle : Nat) : Core :=
  let now := sortBy (fun u => 64 - u.prio) (c.late.filter fun u => decide (u.wcycle < cycle))
  let c0 := (now.filter fun u => decide (u.prio ≠ 0)).foldl Core.writeLate
    { c with late := c.late.filter fun u => !decide (u.wcycle < cycle) }
  let c1 := (((List.range 17).drop 1).reverse).foldl (fun c p => c.writeRank cycle p) c0
  let c2 := (now.filter fun u => decide (u.prio = 0)).foldl Core.writeLate (c1.writeRank cycle 0)
  let drop (x : Ctx) : Ctx := { x with
    gate := x.gate.filter fun g => !(g.written && g.released)
    ghosts := x.ghosts ++ ((x.gate.filter fun g => g.written && g.released).map Gated.ghost).flatten }
  { c2 with act := drop c2.act, shadow := drop c2.shadow }

/-- A direct port access and the bytes of an engine or a copy delivery, written at the end of the cycle. -/
def Core.deliver (c : Core) (prio cycle : Nat) (cells : List (Nat × Byte)) : Core :=
  { c with late := c.late ++ [⟨prio, cycle, cells⟩] }

/-! ## Landing (R152, R176, R185) -/

/-- The value of bit `k` of byte `a` of the pool. -/
def poolBit (m : Memory) (a k : Nat) : Nat := b2n ((Memory.read m a).getLsbD k)

/-- A row read of an LDT added to the values it will deliver (R183). -/
def addRowBits (m : Memory) (bits : List (Nat × Nat × Nat × Nat)) (cells : List (Nat × Word)) : List (Nat × Word) :=
  cells.map fun e => (e.1, bits.foldl (fun x t =>
    if t.1 = e.1 then x ||| BitVec.ofNat 32 (poolBit m t.2.2.1 t.2.2.2 * 2 ^ t.2.1) else x) e.2)

/-- The same for the bytes of a stream push: key, bit of the byte, pool address, bit. -/
def addRowBytes (m : Memory) (bits : List (Nat × Nat × Nat × Nat)) (cells : List (Nat × Byte)) : List (Nat × Byte) :=
  cells.map fun e => (e.1, bits.foldl (fun x t =>
    if t.1 = e.1 then x ||| BitVec.ofNat 8 (poolBit m t.2.2.1 t.2.2.2 * 2 ^ t.2.1) else x) e.2)

/-- The new value of an AMO (R185). -/
def amoNew (op : Nat) (old s c : Word) : Word :=
  match op with
  | 0 => old + s
  | 1 => old &&& s
  | 2 => old ||| s
  | 3 => old ^^^ s
  | 4 => if old.toInt ≤ s.toInt then old else s
  | 5 => if s.toInt ≤ old.toInt then old else s
  | 6 => if old.toNat ≤ s.toNat then old else s
  | 7 => if s.toNat ≤ old.toNat then old else s
  | 8 => s
  | _ => if old = c then s else old

/-- The bytes of a word at an address. -/
def wordCells (a : Nat) (w : Word) : List (Nat × Byte) := cellsAt a (toBytes w.toNat 4)

/-- A row of an LDT added to a result it will deliver: lanes keyed 16·cluster + lane in a bypass value. -/
def Landing.addRow (o : Landing) (m : Memory) (bits : List (Nat × Nat × Nat × Nat)) : Landing :=
  match o.eff with
  | .v cells => { o with eff := .v (addRowBits m bits cells) }
  | .bx src cl ls =>
    let mine := bits.filterMap fun t => if t.1 / (768 * 16) = cl then some (t.1 % 16, t.2) else none
    { o with eff := .bx src cl ((addRowBits m mine (lanes16.zip ls)).map fun e => e.2) }
  | _ => o

/-- The accesses of a cycle that results in flight make to the pool: AMO (R185) and the rows of an LDT (R183). -/
def Core.landAccess (c : Core) (l : Landing) : Core :=
  match l.eff with
  | .amo a op s k d =>
    let old := Memory.word c.pool a
    let c1 := c.deliver 0 l.due (wordCells a (amoNew op old s k))
    if d = 0 then c1
    else { c1 with act := { c1.act with pend := c1.act.pend ++ [{ l with due := l.due + 3, eff := .s d old }] } }
  | .ldtRow bits =>
    let pend := c.act.pend.map fun o => if o.seq = l.seq ∧ o.slot = l.slot then o.addRow c.pool bits else o
    { c with act := { c.act with pend := pend } }
  | .ldtPush bits =>
    let gate := c.act.gate.map fun g =>
      if g.seq = l.seq ∧ !g.written then { g with cells := addRowBytes c.pool bits g.cells } else g
    { c with act := { c.act with gate := gate } }
  | _ => c

/-- Does an effect access the pool? -/
def Eff.accesses : Eff → Bool
  | .amo _ _ _ _ _ => true
  | .ldtRow _ => true
  | .ldtPush _ => true
  | _ => false

/-- The FSTAT bits of flags (R40): [15] NNAN, [14] RNG, [4:0] NV, DZ, OF, UF, NX. -/
def FFlags.bits (f : FFlags) : Nat :=
  32768 * b2n f.nnan + 16384 * b2n f.rng + 16 * b2n f.nv + 8 * b2n f.dz + 4 * b2n f.of + 2 * b2n f.uf + b2n f.nx

/-- The first enabled cause of R56, by the enables in FSTAT [10:5]. -/
def FFlags.enabled (f : FFlags) (fstat : Word) : Option Nat :=
  if f.snan && fstat.getLsbD 10 then some 0
  else if f.nv && fstat.getLsbD 9 then some 1
  else if f.dz && fstat.getLsbD 8 then some 2
  else if f.of && fstat.getLsbD 7 then some 3
  else if f.uf && fstat.getLsbD 6 then some 4
  else if f.nx && fstat.getLsbD 5 then some 5
  else Option.none

/-- FSTATn of a context. -/
def Ctx.fstatOf (x : Ctx) (cl : Nat) : Word := Store.get 0#32 x.fstat cl

/-- The W1C bits of a register set by hardware in this cycle (R11). -/
def Ctx.freshBits (x : Ctx) (n : Nat) : Word :=
  x.fresh.foldl (fun m e => if e.1 = n then m ||| e.2 else m) 0#32

/-- The W1C bits of FSTAT, and its enables (R40). -/
def fstatFlags : Word := 0xC01F#32

/-- The RW bits of FSTAT (R40). -/
def fstatEnables : Word := 0x07E0#32

/-- FSTATn written by its access rules (R11, R40): flags raised in the same cycle stay set. -/
def Ctx.writeFstat (x : Ctx) (n : Nat) (w : Word) : Ctx :=
  let old := x.fstatOf n
  let flags := (old &&& fstatFlags &&& ~~~ w) ||| (x.freshBits n &&& fstatFlags)
  { x with fstat := Store.set 0#32 x.fstat n (flags ||| (w &&& fstatEnables)) }

/-- A system register written by SYSWR, by its access rules (R11, R39, R40, R142). -/
def Ctx.writeSystem (x : Ctx) (r : Nat) (w : Word) : Ctx :=
  if r = 4 then { x with cstat := (x.cstat &&& ~~~ w) ||| x.freshBits 8 }
  else if r = 6 then { x with fmtSel := w &&& 7#32 }
  else if 0x10 ≤ r ∧ r ≤ 0x17 then x.writeFstat (r - 0x10) w
  else if 0x20 ≤ r ∧ r ≤ 0x2F then { x with fmt := Store.set 0#32 x.fmt (r - 0x20) (w &&& 0xFFFF0000#32) }
  else x

/-- A shutter of a context (R26). -/
def Ctx.shutter (x : Ctx) (h : Nat) : Option Shutter := if h = 0 then x.sh0 else x.sh1

/-- A shutter set. -/
def Ctx.setShutter (x : Ctx) (h : Nat) (v : Option Shutter) : Ctx :=
  if h = 0 then { x with sh0 := v } else { x with sh1 := v }

/-- The elements of a shutter as the elements of its target (R26). -/
def Shutter.cellsFor (k : Shutter) : List (Nat × Word) :=
  (List.range 4096).map fun t => (4096 * k.target + t, Store.get 0#32 k.cells t)

/-- SHUTC or SHUTD takes effect (R141). -/
def Ctx.shut (x : Ctx) (h : Nat) (commit : Bool) (drop : List Nat) : Ctx :=
  match x.shutter h with
  | none => x
  | some k =>
    let cells := k.cellsFor.filter fun e => !drop.contains e.1
    let x1 := if commit then x.onAllRegs fun r => { r with m := setWords r.m cells } else x
    x1.setShutter h none

/-- A result lands (R152): registers, flags with the traps they raise (R55, R56, R232), format table, drain
status (R27), bypass (R155). -/
def Ctx.landOne (x : Ctx) (cycle : Nat) (l : Landing) : Ctx :=
  match l.eff with
  | .flags cl f =>
    let w := x.fstatOf cl
    let x1 := { x with
      fstat := Store.set 0#32 x.fstat cl (w ||| BitVec.ofNat 32 f.bits),
      fresh := x.fresh ++ [(cl, BitVec.ofNat 32 f.bits)] }
    match f.enabled w with
    | none => x1
    | some o => { x1 with fp := x1.fp ++ [⟨l.seq, l.slot, l.pc, cl, o, l.post⟩] }
  | .bx src cl ls =>
    let others := x.bx.filter fun b => !(decide (b.1 = src) && decide (b.2.1 = cl))
    { x with bx := others ++ [(src, cl, ls)] }
  | .fmt e w => { x with fmt := Store.set 0#32 x.fmt e (w &&& 0xFFFF0000#32) }
  | .sysw r w => x.writeSystem r w
  | .shut h commit _ drop => x.shut h commit drop
  | .drained m nan =>
    { x with
      dlog := ⟨cycle - 1, m, x.dnan.getLsbD m, x.dpend.getLsbD m⟩ :: x.dlog,
      dnan := if nan then x.dnan ||| BitVec.ofNat 32 (2 ^ m) else x.dnan &&& ~~~ (BitVec.ofNat 32 (2 ^ m)),
      dpend := x.dpend &&& ~~~ (BitVec.ofNat 32 (2 ^ m)) }
  | e => if l.eng then x.onAllRegs fun r => r.apply e else x.onRegs l.seq fun r => r.apply e

/-- Is an effect the write of a SYSWR? It acts before the flags of the cycle it lands in are raised (R11). -/
def Eff.isSystem : Eff → Bool
  | .sysw _ _ => true
  | _ => false

/-- The results of a context readable from a cycle on land, in the order of their bundles (R102: of two that reach
one register in one cycle the later-issued stands). -/
def Ctx.landAll (x : Ctx) (cycle : Nat) : Ctx :=
  let now := sortBy (fun l => l.seq) (x.pend.filter fun l => decide (l.due ≤ cycle) && !l.eff.accesses)
  let x1 := { x with pend := x.pend.filter fun l => !decide (l.due ≤ cycle), bx := [] }
  let x2 := (now.filter fun l => l.eff.isSystem).foldl (fun x l => x.landOne cycle l) x1
  (now.filter fun l => !l.eff.isSystem).foldl (fun x l => x.landOne cycle l) { x2 with fresh := [] }

/-! ## Taking a trap and returning from it (R232 to R237, R239) -/

/-- The marks up to the rollback mark of an operation (R228): the last mark with a bundle number not above `seq`. -/
def marksUpTo (seq : Nat) (l : List Mark) : List Mark := l.filter fun k => decide (k.seq ≤ seq)

/-- The last of a list of marks. -/
def lastMark (l : List Mark) : Option Mark := l.getLast?

/-- The bundle number that a rollback mark may have: an operation of a committing bundle that has issued rolls back
to that bundle's end mark (R232). -/
def trapSeq (seq : Nat) (post : Bool) : Nat := if post then seq + 1 else seq

/-- The cycle of the last landing of a result: an AMO's register follows its access by 3 c (R185). -/
def Landing.lastDue (l : Landing) : Nat := match l.eff with
  | .amo _ _ _ _ d => if d = 0 then l.due else l.due + 3
  | _ => l.due

/-- A trap is raised in a cycle (R232, R233 steps 1 and 2): issue stops, every operation after the rollback mark is
cancelled, and the cycle r of the rollback is fixed. It replaces a trap raised before: only an operation that precedes
that trap's rollback mark can still raise one. Waits stand when the mark lies directly before the next bundle. -/
def Ctx.raiseTrap (x : Ctx) (cycle seq : Nat) (post : Bool) (t : TrapCause) : Ctx :=
  let ks := marksUpTo (trapSeq seq post) x.marks
  let from_ := match lastMark ks with
    | some k => k.seq
    | none => 0
  let left := x.pend.filter fun l => l.eng || decide (l.seq < from_)
  let r := (left.foldl (fun m l => if l.eng then m else max m l.lastDue) cycle) + 12
  let cut (g : Gated) : Option Gated :=
    if g.written || decide (g.seq < from_) then some g
    else if g.old.isEmpty then none else some { g with cells := [], stream := none, written := true }
  let gate := x.gate.filterMap cut
  { x with marks := ks, pend := left, waits := if from_ = x.seq then x.waits else [], gate := gate
           trap := some ⟨t, cycle, seq, post, r⟩ }

/-- The bytes that the unreleased entries restore, in the reverse order of their writes (R234). -/
def discardCells (gates : List Gated) : List Undo :=
  (sortBy (fun u => u.at_) ((gates.filter fun g => !g.released).map fun g => g.old).flatten).reverse

/-- The restores of a busy bank, one write access for each 512-byte row (R255), the rows in the order in which they are
met. -/
def restoreRows (l : List Undo) : List Queued :=
  (l.map fun u => rowOf u.addr).eraseDups.map fun row => .restore (l.filter fun u => decide (rowOf u.addr = row))

/-- The words of the trap record (R237). -/
def trap0Word (t : TrapCause) : Word :=
  BitVec.ofNat 32 (t.cause * 2 ^ 24 + t.slot % 8 * 2 ^ 21 + t.cluster % 8 * 2 ^ 18 + t.pc % 2 ^ 15)

/-- The rollback is complete (R233 steps 3 to 5, R234): the registers stand at the mark, unreleased stores are
discarded, the trap record is written, and the core is held (R236). -/
def Core.rollback (c : Core) (t : PendingTrap) : Core :=
  let x := c.act
  let k : Mark := (lastMark x.marks).getD ⟨0, 0, true, Regs.reset⟩
  let cells := discardCells x.gate
  let inBusy (a : Nat) : Bool := decide (c.pane.busy = some (bankOf a)) && c.pane.run.isSome
  let pool := (cells.filter fun u => !inBusy u.addr).foldl restoreByte c.pool
  let pend := x.pend.filter fun l => l.eng
  let waiting := c.pane.accesses.filter fun q => match q with
    | .slot _ _ _ => false
    | _ => true
  let queue := waiting ++ restoreRows (cells.filter fun u => inBusy u.addr)
  let x1 : Ctx :=
    { x with regs := k.regs, marks := [{ k with committed := true }], gate := x.gate.filter fun g => g.released
             pend := pend, seq := k.seq, sinceMark := 0, trap := none, fp := [], held := true, bx := [], svc := Service.none
             nextAt := 0, heldPop := none, transferred := if k.seq = x.seq then x.transferred else none }
  { c with
    act := x1, pool := pool, pane := { c.pane with accesses := queue },
    trap0 := trap0Word t.cause, trap1 := BitVec.ofNat 32 t.cause.detail, trapPost := t.post, mpc := k.regs.pc,
    trapCount := min (c.trapCount + 1) 0xFFFF }

/-- Is a restore still queued at a busy bank, or an SPDAT access made behind it (R239, R255)? -/
def Core.restoring (c : Core) : Bool :=
  c.pane.accesses.any fun q => match q with
    | .restore _ => true
    | .spdat _ _ => true
    | _ => false

/-- The return from a trap (R223, R236, R239): in the cycle after a resume takes effect, the core issues from the
rolled-back PC. -/
def Core.resume (c : Core) (cycle : Nat) : Core :=
  match c.resumeAt with
  | none => c
  | some t =>
    if t ≤ cycle && !c.restoring then
      { c with resumeAt := none, act := { c.act with held := false, nextAt := cycle + 1, heldSince := cycle + 1 } }
    else c

/-- The state an outcome leaves; a step that stops leaves the one it began in. -/
def stateOf (s : State) : Out → State
  | .next t => t
  | .fault _ => s
  | .refused _ => s

/-! ## The clock -/

/-- A context at the start of a cycle: results land, completions are counted. -/
def Ctx.tick (x : Ctx) (cycle : Nat) : Ctx :=
  let hold := x.fpuHold.filter fun h => decide (cycle ≤ h.2)
  let x1 := (x.landAll cycle).foldComps cycle
  { x1 with skips := 0, tried := false, fpuHold := hold, dlog := x1.dlog.filter fun d => decide (cycle ≤ d.cycle + 9) }

/-- Is an engine command outstanding that could still read the scratchpad (R229)? -/
def Core.reading (c : Core) : Bool :=
  !c.pane.queue.isEmpty || c.pane.load.isSome || c.pane.run.isSome || !c.facet.queue.isEmpty

/-- A context forgets what no engine command can be hidden from. -/
def Ctx.forget (x : Ctx) (reading : Bool) : Ctx := if reading then x else { x with ghosts := [] }

/-- A core at the start of a cycle: writes of the cycle before are in the banks, results have landed, completions
are counted, a resume takes effect. -/
def Core.tick (c : Core) (cycle : Nat) : Core :=
  let c1 := c.applyWrites cycle
  let due := c1.act.pend.filter fun l => decide (l.due ≤ cycle) && l.eff.accesses
  let c2 := due.foldl Core.landAccess c1
  let reserved := c2.reserved.filter fun r => decide (cycle ≤ r.2.2)
  let uses := c2.mx.uses.filter fun u => decide (cycle < u.final) || decide (cycle ≤ u.last)
  let c3 := { c2 with
    act := (c2.act.tick cycle).forget c2.reading, shadow := (c2.shadow.tick cycle).forget c2.reading
    ports := [], reserved := reserved, pane := { c2.pane with served := [] }, mx := { c2.mx with uses := uses } }
  c3.resume cycle

/-- The next cycle. -/
def State.tick (s : State) : State :=
  { s with cycle := s.cycle + 1, setNow := [], cores := s.cores.map fun e => (e.1, e.2.tick (s.cycle + 1)) }

end Sys2Proof.Machine
end

