-- ==== Sys2Proof/Machine/Streams.lean ====
section
/-! DEFINITION. Stream registers: pops and pushes of the four kinds of binding (R28, R154, R187 to R191), the rings of
pipes and wired queues (R280 to R283, R299 to R301). -/

namespace Sys2Proof.Machine

/-- Lanes of an element by EW (R188). -/
def ewLanes (ew : Nat) : Nat :=
  match ew with
  | 0 => 16
  | 1 => 8
  | 2 => 4
  | _ => 1

/-- Bytes of an element by EW (R188). -/
def ewBytes (ew : Nat) : Nat := 4 * ewLanes ew

/-- The syllable of a bundle that holds bit `b` of a slot (R75). -/
def syllableOf (slot : Slot) (b : Nat) : Nat :=
  match slot with
  | .c => 1
  | .s0 => 2
  | .s1 => 3
  | .e => 4 + b / 32
  | .v0 => 6 + b / 32
  | .v1 => 8 + b / 32
  | .m => 10 + b / 32

/-- An illegal-operand fault at the field whose lowest bit is `b` of a slot (R238). -/
def State.illegal (s : State) (slot : Slot) (cl b : Nat) : State := s.raise 4 slot cl (syllableOf slot b)

/-- A scratchpad-range fault at an address (R238). -/
def State.rangeFault (s : State) (slot : Slot) (a : Nat) : State := s.raise 5 slot 0 (a % 2 ^ 32)

/-- The bundle is held: it does not issue in this cycle (R28, R207). -/
def State.hold (s : State) : State := s.onIss fun i => { i with held := true }

/-- The binding of a stream register. -/
def Ctx.binding (x : Ctx) (q : Nat) : Option Binding := Store.get none x.regs.q q

/-- A binding set. -/
def Regs.setQ (r : Regs) (q : Nat) (b : Option Binding) : Regs := { r with q := Store.set none r.q q b }

/-- The key of a byte read by the accessor of an order (R34): each accessor's access is served on its own. -/
def servedKey (prio a : Nat) : Nat := 2 ^ 21 * prio + a

/-- A pool byte as an accessor reads it: the byte captured when its row was served while the bundle was held, or the
byte in the bank (R34, R175, R182, R246). -/
def State.servedByte (s : State) (prio a : Nat) : Byte :=
  match lookup s.act.svc.bytes (servedKey prio a) with
  | some b => b
  | none => Memory.read s.here.pool a

/-- `n` bytes as an accessor reads them. -/
def State.servedBytes (s : State) (prio a : Nat) : Nat → List Byte
  | 0 => []
  | n + 1 => s.servedByte prio a :: State.servedBytes s prio (a + 1) n

/-- A pool byte as the M slot reads it. -/
def State.slotByte (s : State) (a : Nat) : Byte := s.servedByte 0 a

/-- `n` bytes as the M slot reads them. -/
def State.slotBytes (s : State) (a n : Nat) : List Byte := s.servedBytes 0 a n

/-- A word as the M slot reads it. -/
def State.slotWord (s : State) (a : Nat) : Word := BitVec.ofNat 32 (ofBytes (s.slotBytes a 4))

/-- The rows of `n` bytes from a pool address (R175). -/
def rowsOf (a n : Nat) : List Nat :=
  if n = 0 then [] else (List.range ((a + n - 1) / 512 - a / 512 + 1)).map fun k => a / 512 + k

/-- The bank rows an access of the bundle needs, for the arbitration at its issue (R34, R175). -/
def State.access (s : State) (rows : List Nat) (write : Bool) (prio : Nat) : State :=
  s.onIss fun i => { i with rows := i.rows ++ rows.map fun r => (r, write, prio) }

/-- The lanes of an element read from the pool: the rest read 0 (R188). -/
def State.readElem (s : State) (prio a ew : Nat) : List Word :=
  lanes16.map fun l => if l < ewLanes ew then BitVec.ofNat 32 (ofBytes (s.servedBytes prio (a + 4 * l) 4)) else 0#32

/-- The bytes of an element pushed: only its lanes (R188). -/
def elemCells (a ew : Nat) (lanes : List Word) : List (Nat × Byte) :=
  ((List.range (ewLanes ew)).map fun l => wordCells (a + 4 * l) (nth0 lanes l)).flatten

/-- Elements of an affine stream: the product of the used counts (R189). -/
def affineTotal (dims : List (Nat × Nat)) : Nat := dims.foldl (fun m d => m * d.2) 1

/-- The offset of element n: its digits in the radix of the counts times the strides, innermost first (R189). -/
def affineOffset : Nat → List (Nat × Nat) → Int
  | _, [] => 0
  | n, (stride, count) :: l => (n % count : Nat) * toSigned stride 32 + affineOffset (n / count) l

/-- addr(n) (R189), the outermost index allowed to reach its count. -/
def affineAddr (base n : Nat) (dims : List (Nat × Nat)) : Nat :=
  if n = affineTotal dims then
    match dims.getLast? with
    | some d => wrapN (base + d.2 * toSigned d.1 32) 32
    | none => base
  else wrapN (base + affineOffset n dims) 32

/-- The next position of an affine stream (R189). -/
def affineNext (pos : Nat) (dims : List (Nat × Nat)) (wrap : Bool) : Nat :=
  if wrap && decide (pos + 1 = affineTotal dims) then 0 else pos + 1

/-! ## Rings (R281 to R283, R300) -/

/-- The next record for a core: one it must be given again, one returned to the front, or the next ordinal when it
is in an on-chip entry (R282, R303). -/
def Ring.candidate (r : Ring) (core : Nat) (cid : Bool) : Option Nat :=
  match r.again.filter fun e => decide (e.2.1 = core) && decide (e.2.2 = cid) with
  | e :: _ => some e.1
  | [] => match r.front with
    | o :: _ => some o
    | [] => if r.entries.any fun e => decide (e.1 = r.deliver) then some r.deliver else none

/-- A record popped and reserved to a core until its next release point (R282). -/
def Ring.pop (r : Ring) (core : Nat) (cid : Bool) (seq : Nat) : Option (List Word × Ring) :=
  match r.candidate core cid with
  | none => none
  | some o =>
    let words := (lookup r.entries o).getD []
    let again := r.again.filter fun e => !(decide (e.1 = o) && decide (e.2.1 = core))
    let front := r.front.filter fun k => decide (k ≠ o)
    let deliver := if o = r.deliver then o + 1 else r.deliver
    some (words, { r with popped := r.popped ++ [(o, core, cid, seq)], again := again, front := front, deliver := deliver })

/-- Entries whose ordinal and every lower one has been released are freed, at most `fuel` of them (R283). -/
def Ring.freeLow (r : Ring) : Nat → Ring
  | 0 => r
  | fuel + 1 =>
    if r.released.contains r.low then
      Ring.freeLow { r with
        entries := r.entries.filter fun e => decide (e.1 ≠ r.low)
        released := r.released.filter fun o => decide (o ≠ r.low)
        low := r.low + 1 } fuel
    else r

/-- The records a core popped in bundles before `seq` are released (R177, R282). -/
def Ring.releasePops (r : Ring) (core : Nat) (cid : Bool) (seq : Nat) : Ring :=
  let go (e : Nat × Nat × Bool × Nat) : Bool :=
    decide (e.2.1 = core) && decide (e.2.2.1 = cid) && decide (e.2.2.2 < seq)
  let r1 := { r with
    popped := r.popped.filter fun e => !go e
    released := r.released ++ (r.popped.filter go).map fun (e : Nat × Nat × Bool × Nat) => e.1 }
  r1.freeLow (r1.entries.length + 1)

/-- A rollback returns a core's reserved records to it, in the order in which it popped them (R282). -/
def Ring.rollback (r : Ring) (core : Nat) (cid : Bool) (seq : Nat) : Ring :=
  let go (e : Nat × Nat × Bool × Nat) : Bool :=
    decide (e.2.1 = core) && decide (e.2.2.1 = cid) && decide (seq ≤ e.2.2.2)
  { r with
    popped := r.popped.filter fun e => !go e
    again := ((r.popped.filter go).map fun (e : Nat × Nat × Bool × Nat) => (e.1, core, cid)) ++ r.again }

/-- A killed task's reserved records return to the front in ordinal order (R303). -/
def Ring.giveBack (r : Ring) (core : Nat) (cid : Bool) : Ring :=
  let mine := ((r.popped.filter fun e => decide (e.2.1 = core) && decide (e.2.2.1 = cid)).map fun (e : Nat × Nat × Bool × Nat) => e.1) ++
    ((r.again.filter fun e => decide (e.2.1 = core) && decide (e.2.2 = cid)).map fun (e : Nat × Nat × Bool) => e.1)
  { r with
    popped := r.popped.filter fun e => !(decide (e.2.1 = core) && decide (e.2.2.1 = cid))
    again := r.again.filter fun e => !(decide (e.2.1 = core) && decide (e.2.2 = cid))
    front := sortBy (fun o => o) (mine ++ r.front) }

/-- Is the entry of ordinal o, of a ring of `n`, free (R281, R300)? -/
def Ring.entryFree (r : Ring) (n o : Nat) : Bool := !(r.entries.any fun e => decide (e.1 % n = o % n))

/-- Must a new element take a lent slot (R281)? -/
def Ring.needsLent (r : Ring) (n : Nat) : Bool := !(r.lent.isEmpty && r.entryFree n r.next)

/-- Can a new element enter, with `pool` free blocks in the lending pool (R281, R300)? -/
def Ring.canEnter (r : Ring) (n pool : Nat) : Bool :=
  !r.needsLent n || decide (r.lentUsed < r.blocks * n) || decide (0 < pool)

/-- The blocks that must be lent for `k` more elements. -/
def Ring.blocksFor (r : Ring) (n : Nat) : Nat → Nat
  | 0 => 0
  | k + 1 =>
    let more := if r.needsLent n && !decide (r.lentUsed < r.blocks * n) then 1 else 0
    let r1 := if r.needsLent n then
        { r with lent := r.lent ++ [(r.next, [])], next := r.next + 1, lentUsed := r.lentUsed + 1, blocks := r.blocks + more }
      else { r with entries := r.entries ++ [(r.next, [])], next := r.next + 1 }
    more + Ring.blocksFor r1 n k

/-- An element enters at the tail: its on-chip entry, or the next lent slot, lending a block when it needs one; the
number of blocks taken with it (R281, R300). -/
def Ring.enter (r : Ring) (n : Nat) (words : List Word) : Ring × Nat :=
  if r.needsLent n then
    let more := if r.lentUsed < r.blocks * n then 0 else 1
    ({ r with
        lent := r.lent ++ [(r.next, words)], next := r.next + 1, lentUsed := r.lentUsed + 1
        blocks := r.blocks + more }, more)
  else ({ r with entries := r.entries ++ [(r.next, words)], next := r.next + 1 }, 0)

/-- Released elements that wait enter, in order, while a block can be lent for them (R300): the ring, and the blocks
taken. At most `fuel` of them. -/
def Ring.takeIn (r : Ring) (n pool : Nat) : Nat → Ring × Nat
  | 0 => (r, 0)
  | fuel + 1 =>
    match r.waiting with
    | [] => (r, 0)
    | w :: l =>
      if r.canEnter n pool then
        let e := Ring.enter { r with waiting := l } n w
        let t := Ring.takeIn e.1 n (pool - e.2) fuel
        (t.1, e.2 + t.2)
      else (r, 0)

/-- A lent element whose entry is free and whose move has not begun (R283). -/
def Ring.startable (r : Ring) (n : Nat) : Option Nat :=
  (r.lent.find? fun e => r.entryFree n e.1 && !(r.moving.any fun m => decide (m.1 % n = e.1 % n))).map fun e => e.1

/-- Does the move of the lowest lent element end by a cycle (R283)? Moves end in ordinal order. -/
def Ring.moveEnds (r : Ring) (cycle : Nat) : Bool :=
  match r.lent with
  | e :: _ => r.moving.any fun m => decide (m.1 = e.1) && decide (m.2 ≤ cycle)
  | [] => false

/-- The lowest lent element moves into its entry; a block returns to the pool once every slot in it has moved: the
number of blocks returned with it (R283). -/
def Ring.move (r : Ring) (n : Nat) : Ring × Nat :=
  match r.lent with
  | [] => (r, 0)
  | e :: l =>
    let r1 := { r with entries := r.entries ++ [e], lent := l, moving := r.moving.filter fun m => decide (m.1 ≠ e.1) }
    let full := r1.lentUsed - l.length
    if l.isEmpty then ({ r1 with lentUsed := 0, blocks := 0 }, r1.blocks)
    else if n ≤ full then ({ r1 with lentUsed := r1.lentUsed - n, blocks := r1.blocks - 1 }, 1)
    else (r1, 0)

/-! ## Pipes (R191, R299 to R301) -/

/-- A gang. -/
def State.gang (s : State) (g : Nat) : Option Gang := Store.get none s.dist.gangs g

/-- Pipe `n` of gang `g`. -/
def State.pipe (s : State) (g n : Nat) : Pipe :=
  match s.gang g with
  | some k => Store.get Pipe.reset k.pipes n
  | none => Pipe.reset

/-- A pipe changed. -/
def State.onPipe (s : State) (g n : Nat) (f : Pipe → Pipe) : State :=
  match s.gang g with
  | some k =>
    let k1 := { k with pipes := Store.insert k.pipes n (f (Store.get Pipe.reset k.pipes n)) }
    s.onDist fun d => { d with gangs := Store.insert d.gangs g (some k1) }
  | none => s

/-- A queue. -/
def State.queue (s : State) (n : Nat) : Queue := Store.get Queue.reset s.dist.queues n

/-- A queue changed. -/
def State.onQueue (s : State) (n : Nat) (f : Queue → Queue) : State :=
  s.onDist fun d => { d with queues := Store.insert d.queues n (f (Store.get Queue.reset d.queues n)) }

/-- The ring that serves a pipe: its own, or that of the queue it is wired to (R280). -/
def State.ringOf (s : State) (g n : Nat) : Ring :=
  match (s.pipe g n).wire with
  | some q => (s.queue q).ring
  | none => (s.pipe g n).ring

/-- That ring changed. -/
def State.onRing (s : State) (g n : Nat) (f : Ring → Ring) : State :=
  match (s.pipe g n).wire with
  | some q => s.onQueue q fun k => { k with ring := f k.ring }
  | none => s.onPipe g n fun p => { p with ring := f p.ring }

/-- The die of a gang's lending pool (R281, R300). -/
def State.gangDie (s : State) (g : Nat) : Nat :=
  match s.gang g with
  | some k => k.die
  | none => 0

/-- The gang of the active task. -/
def Ctx.gang (x : Ctx) : Option Nat := match x.task with
  | some t => t.gang
  | none => none

/-! ## Pops (R28, R83, R154, R189 to R191) -/

/-- A popped element also reaches bx7 of its cluster in the next cycle (R29). -/
def State.popBypass (s : State) (slot : Slot) (cl : Nat) (lanes : List Word) : State :=
  s.land slot (s.cycle + 1) (.bx 7 cl lanes)

/-- Sixteen zero lanes. -/
def zeroLanes : List Word := lanes16.map fun _ => 0#32

/-- The words of a record as the lanes of an element: the rest read 0. -/
def padLanes (l : List Word) : List Word := lanes16.map fun i => nth0 l i

/-- A pop of an affine stream (R189). -/
def State.popAffine (s : State) (slot : Slot) (q : Nat) (b : Binding) (base : Nat) (dims : List (Nat × Nat))
    (wrap : Bool) : List Word × State :=
  let a := affineAddr base b.pos dims
  if affineTotal dims ≤ b.pos || !(s.act.inWindow a (ewBytes b.ew)) then (zeroLanes, s.rangeFault slot a)
  else
    let p := s.act.poolAddr a
    let s1 := s.access (rowsOf p (ewBytes b.ew)) false (1 + q)
    (s.readElem (1 + q) p b.ew, s1.onAct fun x =>
      { x with regs := x.regs.setQ q (some { b with pos := affineNext b.pos dims wrap }) })

/-- A stream begins to drain the next filled slot of a circular buffer (R190). -/
def CBuf.takeFilled (k : CBuf) : CBuf :=
  { k with filled := k.filled - 1, rdSlot := k.rdNext, rdNext := (k.rdNext + 1) % k.count }

/-- A stream begins to fill the next free slot of a circular buffer (R190). -/
def CBuf.takeFree (k : CBuf) : CBuf :=
  { k with free := k.free - 1, wrSlot := k.wrNext, wrNext := (k.wrNext + 1) % k.count }

/-- A pop of a circular buffer (R190): the next element of the slot at the read position; the slot is freed at the
next release point after its last element. -/
def State.popCbuf (s : State) (slot : Slot) (q : Nat) (b : Binding) (cb : Nat) (timed : Bool) : List Word × State :=
  let k := Store.get CBuf.unset s.act.regs.cb cb
  if k.rdByte = 0 ∧ k.filled = 0 then
    (zeroLanes, if timed then s.raise 8 slot 0 q else s.hold)
  else
    let k0 := if k.rdByte = 0 then k.takeFilled else k
    let a := s.act.poolAddr (k0.base + k0.rdSlot * k0.size + k0.rdByte)
    let last := decide (k0.size ≤ k0.rdByte + ewBytes b.ew)
    let s1 := s.access (rowsOf a (ewBytes b.ew)) false (1 + q)
    let k1 := { k0 with rdByte := if last then 0 else k0.rdByte + ewBytes b.ew }
    (s.readElem (1 + q) a b.ew, s1.onAct fun x => { x with
      regs := { (x.regs.setQ q (some { b with pos := b.pos + 1 })) with
        cb := Store.set CBuf.unset x.regs.cb cb k1
        emptied := if last then x.regs.emptied ++ [(cb, x.seq)] else x.regs.emptied } })

/-- A pop or push on a broken pipe (R191): the pipe-broken trap, or with NB = 1 sp NBP := 1. -/
def State.brokenPipe (s : State) (slot : Slot) (q : Nat) (nb : Bool) (nbp : Nat) : State :=
  if nb then s.landSp slot 1 nbp true else s.raise 9 slot 0 q

/-- A pop at the consumer end of a pipe (R191, R282, R300, R301); the record of a wired queue brings its clock (R311). -/
def State.popPipe (s : State) (slot : Slot) (q : Nat) (b : Binding) (num : Nat) (nb : Bool) (nbp : Nat) :
    List Word × State :=
  match s.act.gang with
  | none => (zeroLanes, s.hold)
  | some g =>
    let r := s.ringOf g num
    match r.pop s.cur s.act.cid s.act.seq with
    | some (w, r1) =>
      let clock := ((r.candidate s.cur s.act.cid).bind fun o => lookup r.clocks o).getD []
      let s1 := (s.onRing g num fun _ => r1).onAct fun x =>
        { x with regs := x.regs.setQ q (some { b with pos := b.pos + 1 }) }
      (padLanes w, if clock.isEmpty then s1 else s1.joinClock (dieOf s.cur) clock)
    | none =>
      if (s.pipe g num).broken && r.lent.isEmpty && r.waiting.isEmpty then (zeroLanes, s.brokenPipe slot q nb nbp)
      else (zeroLanes, s.hold.onIss fun i => { i with popWait := some q })

/-- A pop of an ssu stream (R191, R258). -/
def State.popSsu (s : State) (q : Nat) (b : Binding) : List Word × State :=
  let f := s.act.ssu.filter fun f => decide (f.bind = b.id)
  match (f.map fun f => f.recs).flatten[b.pos]? with
  | some w => (padLanes w, s.onAct fun x => { x with regs := x.regs.setQ q (some { b with pos := b.pos + 1 }) })
  | none => (zeroLanes, s.hold)

/-- One element popped from a stream register for a cluster (R28, R83). An unbound register, or one bound for pushes,
raises an illegal-operand fault at the field whose lowest bit is `bit`. -/
def State.popOne (s : State) (slot : Slot) (cl bit q : Nat) : List Word × State :=
  match s.act.binding q with
  | none => (zeroLanes, s.illegal slot cl bit)
  | some b =>
    if b.push then (zeroLanes, s.illegal slot cl bit)
    else
      let r := match b.src with
        | .affine base dims wrap => s.popAffine slot q b base dims wrap
        | .cbuf cb timed => s.popCbuf slot q b cb timed
        | .pipe num nb nbp => s.popPipe slot q b num nb nbp
        | .ssu _ => s.popSsu q b
      (r.1, r.2.popBypass slot cl r.1)

/-- One element for each cluster, in ascending cluster order (R83). -/
def State.popAll (s : State) (slot : Slot) (bit q : Nat) : List Nat → List (Nat × List Word) × State
  | [] => ([], s)
  | cl :: l =>
    let r := s.popOne slot cl bit q
    let t := State.popAll r.2 slot bit q l
    ((cl, r.1) :: t.1, t.2)

/-! ## Pushes (R154, R176, R177, R189 to R191) -/

/-- A gate entry for an element that lands in cycle `due`: it seeks every row it touches (R34, R175). -/
def State.pushGate (s : State) (q due : Nat) (cells : List (Nat × Byte)) (fills : Option (Nat × Nat))
    (pipe : Option (Nat × List (List Word))) : State :=
  let rows := if cells.isEmpty then none else some (q, (cells.map fun e => rowOf e.1).eraseDups)
  s.onAct fun x => { x with
    gate := x.gate ++ [⟨x.seq, 1 + q, due, false, false, cells, [], fills, pipe, rows, due, [], false, (0, 0)⟩] }

/-- A push to an affine stream (R189). -/
def State.pushAffine (s : State) (slot : Slot) (q due : Nat) (b : Binding) (base : Nat) (dims : List (Nat × Nat))
    (wrap : Bool) (lanes : List Word) : State :=
  let a := affineAddr base b.pos dims
  if affineTotal dims ≤ b.pos || !(s.act.inWindow a (ewBytes b.ew)) then s.rangeFault slot a
  else
    let s1 := s.pushGate q due (elemCells (s.act.poolAddr a) b.ew lanes) none none
    s1.onAct fun x => { x with regs := x.regs.setQ q (some { b with pos := affineNext b.pos dims wrap }) }

/-- A push to a circular buffer (R190): the slot counts as filled when its elements have been released. -/
def State.pushCbuf (s : State) (q due : Nat) (b : Binding) (cb : Nat) (lanes : List Word) : State :=
  let k := Store.get CBuf.unset s.act.regs.cb cb
  if k.wrByte = 0 ∧ k.free = 0 then s.hold
  else
    let k0 := if k.wrByte = 0 then k.takeFree else k
    let a := s.act.poolAddr (k0.base + k0.wrSlot * k0.size + k0.wrByte)
    let last := decide (k0.size ≤ k0.wrByte + ewBytes b.ew)
    let s1 := s.pushGate q due (elemCells a b.ew lanes) (some (cb, if last then 1 else 0)) none
    let k1 := { k0 with wrByte := if last then 0 else k0.wrByte + ewBytes b.ew }
    s1.onAct fun x => { x with
      regs := { (x.regs.setQ q (some { b with pos := b.pos + 1 })) with cb := Store.set CBuf.unset x.regs.cb cb k1 } }

/-- The elements that a context has pushed to a pipe and not released yet. -/
def Ctx.pushesTo (x : Ctx) (pipe : Nat) : Nat :=
  ((x.gate.filter fun g => !g.released).map fun g => match g.pipe with
    | some p => if p.1 = pipe then p.2.length else 0
    | none => 0).sum

/-- The blocks that a pipe will need for what it must still take, and `more` elements. -/
def State.blocksWanted (s : State) (g num more : Nat) : Nat :=
  (s.ringOf g num).blocksFor 16 ((s.ringOf g num).waiting.length + s.act.pushesTo (32 * g + num) + more)

/-- Has a pipe room for one more push (R83, R300)? The pushes not released yet, in this bundle and before it, and to every
pipe of the gang, count. -/
def State.pipeRoom (s : State) (g num : Nat) : Bool :=
  let all := ((s.gang g).map fun k => (k.pipes.map fun p => s.blocksWanted g p.1 (b2n (decide (p.1 = num)))).sum).getD 0
  decide (s.blocksWanted g num 1 = s.blocksWanted g num 0) || decide (all ≤ (s.die (s.gangDie g)).lend)

/-- A push at the producer end of a pipe (R191, R300, R301). -/
def State.pushPipe (s : State) (slot : Slot) (q due : Nat) (b : Binding) (num : Nat) (nb : Bool) (nbp : Nat)
    (lanes : List Word) : State :=
  match s.act.gang with
  | none => s.hold
  | some g =>
    if (s.pipe g num).broken then s.brokenPipe slot q nb nbp
    else if s.pipeRoom g num then
      (s.pushGate q due [] none (some (32 * g + num, [lanes.take (ewLanes b.ew)]))).onAct fun x =>
        { x with regs := x.regs.setQ q (some { b with pos := b.pos + 1 }) }
    else s.hold

/-- One element pushed to a stream register for a cluster (R28, R154). -/
def State.pushOne (s : State) (slot : Slot) (cl bit q due : Nat) (lanes : List Word) : State :=
  match s.act.binding q with
  | none => s.illegal slot cl bit
  | some b =>
    if !b.push then s.illegal slot cl bit
    else match b.src with
      | .affine base dims wrap => s.pushAffine slot q due b base dims wrap lanes
      | .cbuf cb _ => s.pushCbuf q due b cb lanes
      | .pipe num nb nbp => s.pushPipe slot q due b num nb nbp lanes
      | .ssu _ => s.illegal slot cl bit

/-- One element for each cluster, in ascending cluster order. -/
def State.pushAll (s : State) (slot : Slot) (bit q due : Nat) : List (Nat × List Word) → State
  | [] => s
  | (cl, lanes) :: l => State.pushAll (s.pushOne slot cl bit q due lanes) slot bit q due l

end Sys2Proof.Machine
end

