-- ==== Sys2Proof/Machine/Banks.lean ====
section
/-! DEFINITION. The scratchpad banks: which access is served in a cycle (R34, R175, R182), parity (R256, R257), and the
queue of a bank in pane mode (R246, R252, R254, R255). -/

namespace Sys2Proof.Machine

/-- The bank of a row numbered through the pool: 64 rows of 512 bytes each (R175). -/
def rowBank (row : Nat) : Nat := row / 64

/-- The row a queued access seeks. -/
def Queued.row : Queued → Nat
  | .slot r _ _ => r
  | .push _ _ r => r
  | .copy _ r => r
  | .facet _ r => r
  | .spdat r _ => r
  | .restore cells => match cells with
    | u :: _ => rowOf u.addr
    | [] => 0

/-- May a read of a row be rebuilt from its parity row (R34, R256)? -/
def Core.parityReady (c : Core) (row cycle : Nat) : Bool :=
  match Store.get Parity.valid c.parity (rowBank row / 8) with
  | .valid => true
  | .given => false
  | .rebuilding b => decide (b + row % 64 + 1 ≤ cycle)

/-- Does an LDT or STT hold the direct port of a bank in a cycle (R183)? -/
def Core.portHeld (c : Core) (bank cycle : Nat) : Bool :=
  c.reserved.any fun r => decide (r.1 = bank) && decide (r.2.1 ≤ cycle) && decide (cycle ≤ r.2.2)

/-- Is the direct port of a bank free in a cycle (R34, R183)? -/
def Core.directFree (c : Core) (bank cycle : Nat) : Bool :=
  !(c.ports.any fun p => decide (p.1 = bank) && !p.2.2) && !(c.portHeld bank cycle)

/-- Is no rebuild running in the group of a row in this cycle (R34)? -/
def Core.rebuildFree (c : Core) (row : Nat) : Bool :=
  !(c.ports.any fun p => p.2.2 && decide (p.1 / 8 = rowBank row / 8))

/-- An access served. -/
def Core.serve (c : Core) (row : Nat) (rebuilt : Bool) : Core :=
  { c with ports := c.ports ++ [(rowBank row, row, rebuilt)] }

/-- May a read be rebuilt in this cycle (R34)? -/
def Core.canRebuild (c : Core) (row cycle : Nat) : Bool := c.rebuildFree row && c.parityReady row cycle

/-- Is a bank in pane mode (R248)? -/
def Core.inPane (c : Core) (bank : Nat) : Bool := decide (c.pane.busy = some bank)

/-- An access joins the queue of its busy bank, at most 64 in each (R254). -/
def Core.join (c : Core) (q : Queued) : Core :=
  let mine := c.pane.accesses.filter fun o => decide (rowBank o.row = rowBank q.row)
  if mine.length < 64 then { c with pane := { c.pane with accesses := c.pane.accesses ++ [q] } } else c

/-- Is a window open on a busy bank whose access of this cycle has not been served (R246)? -/
def Core.windowFree (c : Core) (cycle bank : Nat) : Bool :=
  c.inPane bank && !(c.pane.served.contains bank) && match c.pane.run with
    | some r => decide (r.window ≤ cycle) && decide (cycle < r.windowEnd)
    | none => false

/-- The first queued access of a bank. -/
def Pane.head (p : Pane) (bank : Nat) : Option Queued := p.accesses.find? fun q => decide (rowBank q.row = bank)

/-- A queued access is served: it leaves the queue, and takes the bank's port. -/
def Core.unqueue (c : Core) (q : Queued) : Core :=
  let c1 := c.serve q.row false
  { c1 with pane := { c1.pane with
    accesses := c1.pane.accesses.erase q, served := c1.pane.served ++ [rowBank q.row] } }

/-- An access to a busy bank joins its queue (R246): at its head in a window cycle, it is served in that cycle. -/
def Core.joinServe (c : Core) (cycle : Nat) (q : Queued) : Bool × Core :=
  let c1 := c.join q
  if c1.windowFree cycle (rowBank q.row) && decide (c1.pane.head (rowBank q.row) = some q) then (true, c1.unqueue q)
  else (false, c1)

/-- An accessor seeks a row (R34, R246): served now, or by a window it has waited for. A write is never rebuilt; neither
is an SPDAT access (`rebuild` false). -/
def Core.seek (c : Core) (cycle : Nat) (q : Queued) (rebuild : Bool) : Bool × Core :=
  let row := q.row
  if c.pane.done.contains q then (true, { c with pane := { c.pane with done := c.pane.done.erase q } })
  else if c.pane.accesses.contains q then (false, c)
  else if c.inPane (rowBank row) then c.joinServe cycle q
  else if c.directFree (rowBank row) cycle then (true, c.serve row false)
  else if rebuild && c.canRebuild row cycle then (true, c.serve row true)
  else (false, c)

/-- Bytes of one row that an engine writes at a completion, without a bank port (log 49); in a busy bank it is an ordinary
access (R246, R252). Written now? -/
def Core.putCells (c : Core) (cycle prio : Nat) (q : Queued) (cells : List (Nat × Byte)) : Bool × Core :=
  let r := if c.inPane (rowBank q.row) || c.pane.accesses.contains q || c.pane.done.contains q then c.seek cycle q false
    else (true, c)
  (r.1, if r.1 then r.2.deliver prio cycle cells else r.2)

/-- A word so written. -/
def Core.putWord (c : Core) (cycle prio : Nat) (q : Queued) (a : Nat) (w : Word) : Bool × Core :=
  c.putCells cycle prio q (wordCells a w)

/-! ## Pushes to a bank (R34, R176) -/

/-- The stream register and the rows for which a pushed element that has landed waits. -/
def Gated.waiting (g : Gated) (cycle : Nat) : List (Nat × Nat) :=
  match g.stream with
  | some (q, rows) => if g.wcycle ≤ cycle ∧ !g.written then rows.map fun r => (q, r) else []
  | none => []

/-- A row of a pushed element has been served (R34): the bytes there are written in this cycle, and all its bytes count as
written in the cycle its last row is served. -/
def Gated.served (g : Gated) (cycle row : Nat) : Gated :=
  match g.stream with
  | some (q, rows) =>
    let left := rows.filter fun r => decide (r ≠ row)
    if left.isEmpty then { g with stream := none, whole := cycle } else { g with stream := some (q, left) }
  | none => g

/-- The marks that have committed and fall in this cycle release the pushes served in it (R231). -/
def Ctx.releaseServed (x : Ctx) (cycle : Nat) : Ctx :=
  (x.marks.filter fun k => k.committed && decide (k.cycle = cycle)).foldl (fun x k => x.release cycle k.seq false) x

/-- The access of a bundle's pushes through one stream register to one row has been served (R34, R175). -/
def Ctx.pushServed (x : Ctx) (cycle seq q row : Nat) : Ctx :=
  let mine (g : Gated) : Bool := decide (g.seq = seq) && (g.waiting cycle).contains (q, row)
  Ctx.releaseServed { x with gate := x.gate.map fun g => if mine g then g.served cycle row else g } cycle

/-- The accesses that pushes wait for in a cycle: bundle, stream register with 16 more in context 1, row; each row of a
bundle's stream is one access (R175). -/
def Ctx.waitingPushes (x : Ctx) (cycle : Nat) : List (Nat × Nat × Nat) :=
  (x.gate.map fun g => (g.waiting cycle).map fun e => (g.seq, e.1 + 16 * b2n x.cid, e.2)).flatten.eraseDups

/-- Those of both contexts, in the order of the stream registers (R34): what an outgoing context pushed goes on (R242). -/
def Core.waitingPushes (c : Core) (cycle : Nat) : List (Nat × Nat × Nat) :=
  sortBy (fun (e : Nat × Nat × Nat) => e.2.1 % 16) (c.act.waitingPushes cycle ++ c.shadow.waitingPushes cycle)

/-- Such an access has been served. -/
def Core.pushTaken (c : Core) (cycle seq q row : Nat) : Core :=
  c.onCtx (decide (16 ≤ q)) fun x => x.pushServed cycle seq (q % 16) row

/-- One waiting access is tried. -/
def Core.tryPush (c : Core) (cycle : Nat) (e : Nat × Nat × Nat) : Core :=
  let r := c.seek cycle (.push e.1 e.2.1 e.2.2) false
  if r.1 then r.2.pushTaken cycle e.1 e.2.1 e.2.2 else r.2

/-- STREAM_PUSH_LAND (R154, R34): elements whose values have landed seek their rows; each is delayed a cycle at a time
until it is served. -/
def execStreamPushLand (core : Nat) (s : State) : Out :=
  if 512 ≤ core then .fault (.absent core)
  else
    let c := s.core core
    if c.pushAt ≤ s.cycle then
      let c1 := (c.waitingPushes s.cycle).foldl (fun c e => c.tryPush s.cycle e) c
      .next (s.setCore core { c1 with pushAt := s.cycle + 1 })
    else .next s

/-! ## The accesses of a bundle (R175, R182) -/

/-- What a bundle or a push seeks: row, write, order of its accessor, and for a push its bundle and stream register. -/
structure Access where
  row : Nat
  write : Bool
  prio : Nat
  push : Option (Nat × Nat)
  deriving DecidableEq, Repr

/-- The access as the queue of a busy bank holds it. -/
def Access.queued (a : Access) : Queued := match a.push with
  | some p => .push p.1 p.2 a.row
  | none => .slot a.row a.write a.prio

/-- A served row of the held bundle is noted; `queued`: a bank's queue served it. -/
def Ctx.noteRow (x : Ctx) (row : Nat) (write : Bool) (prio : Nat) (queued : Bool) : Ctx :=
  { x with svc := { x.svc with
    rows := x.svc.rows ++ [(row, write, prio)]
    queued := if queued && decide (prio = 0) then x.svc.queued ++ [row] else x.svc.queued } }

/-- An access has been served: a push goes on, a slot's row joins what the held bundle has. -/
def Core.taken (c : Core) (cycle : Nat) (a : Access) (queued : Bool) : Core :=
  match a.push with
  | some p => c.pushTaken cycle p.1 p.2 a.row
  | none => { c with act := c.act.noteRow a.row a.write a.prio queued }

/-- An access takes its bank's direct port, or is rebuilt. -/
def Core.grant (c : Core) (cycle : Nat) (a : Access) (rebuilt : Bool) : Core := (c.serve a.row rebuilt).taken cycle a false

/-- The first pass (R34): direct ports in the order of the accessors; what is left over, and the core. -/
def grantDirect (cycle : Nat) : List Access → Core → List Access × Core
  | [], c => ([], c)
  | a :: l, c =>
    let bank := rowBank a.row
    if c.pane.accesses.contains a.queued then grantDirect cycle l c
    else if c.inPane bank then
      let r := c.joinServe cycle a.queued
      grantDirect cycle l (if r.1 then r.2.taken cycle a true else r.2)
    else if c.directFree bank cycle then grantDirect cycle l (c.grant cycle a false)
    else
      let r := grantDirect cycle l c
      (a :: r.1, r.2)

/-- Must an access wait whatever could be rebuilt: an M-slot access to a bank whose port an LDT or STT holds (R183)? -/
def Core.mustWait (c : Core) (cycle : Nat) (a : Access) : Bool := decide (a.prio = 0) && c.portHeld (rowBank a.row) cycle

/-- The accesses that may be rebuilt in a cycle: of each accessor, in each bank, the first that is left over (R175, R182). -/
def firstLeft : List Access → List (Nat × Nat) → List Access
  | [], _ => []
  | a :: l, seen =>
    let k := (a.prio, rowBank a.row)
    if seen.contains k then firstLeft l seen else a :: firstLeft l (k :: seen)

/-- The second pass: rebuilt reads, in the order of the accessors, then of the banks (R34, R182, R183). -/
def grantRebuilt (cycle : Nat) : List Access → Core → Core
  | [], c => c
  | a :: l, c =>
    let ok := !a.write && !(c.mustWait cycle a) && c.canRebuild a.row cycle
    grantRebuilt cycle l (if ok then c.grant cycle a true else c)

/-- The accesses a bundle still needs. -/
def Core.needed (c : Core) (rows : List (Nat × Bool × Nat)) : List Access :=
  ((rows.eraseDups).filter fun e => !(c.act.svc.rows.contains e)).map fun e => ⟨e.1, e.2.1, e.2.2, none⟩

/-- The arbitration of a cycle in which a bundle seeks rows (R34): the pushes that wait are in it. -/
def Core.arbitrate (c : Core) (cycle : Nat) (rows : List (Nat × Bool × Nat)) : Core :=
  let pushes := (c.waitingPushes cycle).map fun e => (⟨e.2.2, true, 1 + e.2.1 % 16, some (e.1, e.2.1)⟩ : Access)
  let all := sortBy (fun (a : Access) => a.prio) (c.needed rows ++ (if c.pushAt ≤ cycle then pushes else []))
  let r := grantDirect cycle all c
  let c1 := grantRebuilt cycle (sortBy (fun (a : Access) => 64 * a.prio + rowBank a.row) (firstLeft r.1 [])) r.2
  { c1 with pushAt := max c1.pushAt (cycle + 1) }

/-- The bytes of a row as they stand (R175). -/
def Core.rowBytes (c : Core) (row : Nat) : List (Nat × Byte) :=
  cellsAt (512 * row) (Memory.bytes c.pool (512 * row) 512)

/-- What a held bundle keeps of the read rows served in this cycle (R182): their bytes from before the cycle's writes. -/
def Core.keepRows (old new : Core) : Core :=
  let rows := new.act.svc.rows.filter fun e => !e.2.1 && !(old.act.svc.rows.contains e)
  let bytes := (rows.map fun e => (old.rowBytes e.1).map fun b => (servedKey e.2.2 b.1, b.2)).flatten
  { new with act := { new.act with svc := { new.act.svc with bytes := new.act.svc.bytes ++ bytes } } }

/-! ## Writes through the queue of a busy bank (R252) -/

/-- The bytes of the held bundle's stores in rows that a queue has served: gate entries of their own, written in this
cycle. -/
def Gated.rowsOfStore (g : Gated) (cycle : Nat) (rows : List Nat) : List Gated :=
  let cells := g.cells.filter fun e => rows.contains (rowOf e.1)
  if cells.isEmpty then [] else [{ g with wcycle := cycle, whole := cycle, cells := cells, part := true }]

/-- The AMO of the held bundle whose row has been served reads and writes its word (R185, R252); what it read is kept. -/
def Core.putAmo (c : Core) (cycle : Nat) (rows : List Nat) : Eff → Core
  | .amo a op s k _ =>
    if rows.contains (rowOf a) then
      let old := (Memory.bytes c.pool a 4)
      let c1 := c.deliver 0 cycle (wordCells a (amoNew op (Memory.word c.pool a) s k))
      { c1 with act := { c1.act with svc := { c1.act.svc with
          bytes := c1.act.svc.bytes ++ (cellsAt a old).map fun e => (servedKey 0 e.1, e.2) } } }
    else c
  | _ => c

/-- A write to a busy bank takes effect in its service cycle (R252): the M-slot writes of the held bundle in rows that a
queue has served, taken from the bundle as it would execute in this cycle. -/
def Core.putRows (c : Core) (t : Ctx) (cycle : Nat) : Core :=
  let rows := c.act.svc.queued.filter fun r => !c.act.svc.put.contains r
  let mine := t.gate.filter fun g => decide (g.seq = c.act.seq) && decide (g.prio = 0)
  let c1 := (t.pend.filter fun l => decide (l.seq = c.act.seq)).foldl (fun c l => c.putAmo cycle rows l.eff) c
  { c1 with act := { c1.act with
    gate := c1.act.gate ++ (mine.map fun g => g.rowsOfStore cycle rows).flatten
    svc := { c1.act.svc with put := c1.act.svc.put ++ rows } } }

/-! ## The queue of a busy bank (R246, R255) -/

/-- A queued access is served: a slot's row is kept for its held bundle, a push counts as written, a restore is made
(R234), and the others are left for their accessors. -/
def Core.serveQueued (c : Core) (cycle : Nat) (q : Queued) : Core :=
  let c1 := c.unqueue q
  match q with
  | .slot row write prio => Core.keepRows c1 { c1 with act := c1.act.noteRow row write prio true }
  | .push seq k row => c1.pushTaken cycle seq k row
  | .restore cells => { c1 with pool := cells.foldl restoreByte c1.pool }
  | q => { c1 with pane := { c1.pane with done := c1.pane.done ++ [q] } }

/-- A bank that is out of pane mode and still has queued accesses (R246). -/
def Core.drainBank (c : Core) : Option Nat :=
  (c.pane.accesses.find? fun q => !c.inPane (rowBank q.row) && !(c.pane.served.contains (rowBank q.row))).map
    fun q => rowBank q.row

end Sys2Proof.Machine
end

