-- ==== Sys2Proof/Machine/Flags.lean ====
section
/-! DEFINITION. The floating-point flags and every rule that raises them in the rounding of a result (R52, R53, R55),
the formats of R44 to R49, and the exact values they stand for. -/

namespace Sys2Proof.Machine

/-- Flags of several operations ORed together (R55). -/
def FFlags.or (a b : FFlags) : FFlags :=
  ⟨a.nv || b.nv, a.dz || b.dz, a.of || b.of, a.uf || b.uf, a.nx || b.nx, a.nnan || b.nnan, a.rng || b.rng,
   a.snan || b.snan⟩

/-- NV alone. -/
def FFlags.invalid : FFlags := { FFlags.none with nv := true }

/-- DZ alone. -/
def FFlags.divZero : FFlags := { FFlags.none with dz := true }

/-- NX alone. -/
def FFlags.inexact : FFlags := { FFlags.none with nx := true }

/-- OF and NX (R53). -/
def FFlags.overflow : FFlags := { FFlags.none with of := true, nx := true }

/-- An operand is a signalling NaN: NV, and the cause SNE (R56). -/
def FFlags.signalling : FFlags := { FFlags.none with nv := true, snan := true }

/-- Any flag at all. -/
def FFlags.any (f : FFlags) : Bool := f.nv || f.dz || f.of || f.uf || f.nx || f.nnan || f.rng || f.snan

/-- The exact value of an encoding (R69 Decode): a NaN with its sign, quiet bit and fraction of `fw` bits, an
infinity, or ±man × 2^exp. -/
inductive Val where
  | nan (neg quiet : Bool) (frac fw : Nat)
  | inf (neg : Bool)
  | num (neg : Bool) (man : Nat) (exp : Int)
  deriving DecidableEq, Repr

/-- Fraction bits of an IEEE format (R45): BF16 7, FP32 23, FP64 52. -/
def fracBits (t : Nat) : Nat := if t = 8 then 7 else if t = 9 then 23 else 52

/-- Exponent bits of an IEEE format (R45). -/
def expBits (t : Nat) : Nat := if t = 10 then 11 else 8

/-- Is a type code an IEEE format (R45)? -/
def isIeee (t : Nat) : Bool := decide (8 ≤ t) && decide (t ≤ 10)

/-- Width in bits of an element of a type (R43, R44). -/
def width (t : Nat) : Nat :=
  match t with
  | 0 => 8
  | 1 => 8
  | 2 => 16
  | 3 => 16
  | 4 => 32
  | 5 => 32
  | 6 => 4
  | 7 => 4
  | 8 => 16
  | 9 => 32
  | 10 => 64
  | 12 => 4
  | _ => 8

/-- Is an integer type signed (R44)? -/
def isSigned (t : Nat) : Bool := decide (t % 2 = 0)

/-- Decode of an IEEE format (R45). -/
def decodeIeee (t x : Nat) : Val :=
  let f := fracBits t
  let e := expBits t
  let neg := bitOf x (e + f)
  let ex := field x f e
  let fr := field x 0 f
  let bias : Int := 2 ^ (e - 1) - 1
  if ex = 2 ^ e - 1 then
    if fr = 0 then .inf neg else .nan neg (bitOf fr (f - 1)) fr f
  else if ex = 0 then .num neg fr (1 - bias - f)
  else .num neg (2 ^ f + fr) (ex - bias - f)

/-- Decode of E4M3 (R47). -/
def decodeE4 (x : Nat) : Val :=
  let neg := bitOf x 7
  let ex := field x 3 4
  let fr := field x 0 3
  if ex = 15 ∧ fr = 7 then .nan neg true 0 0
  else if ex = 0 then .num neg fr (-9)
  else .num neg (8 + fr) (ex - 10)

/-- Decode of E2M1 (R48). -/
def decodeE2 (x : Nat) : Val :=
  let neg := bitOf x 3
  let ex := field x 1 2
  let fr := field x 0 1
  if ex = 0 then .num neg fr (-1) else .num neg (2 + fr) (ex - 2)

/-- Exponent bits of MK8 at marker m (R49). -/
def mkEw (m : Nat) : Nat := if m = 6 then 2 else if 3 ≤ m then 3 else m

/-- Fraction bits of MK8 at marker m (R49). -/
def mkFw (m : Nat) : Nat := if m = 6 then 4 else m - 3

/-- LargeBase of R49 for m of 5 to 1. -/
def mkLarge (m : Nat) : Int := if m = 1 then 16 else 22 - 4 * (m : Int)

/-- SmallBase of R49. -/
def mkSmall (m : Nat) : Int := if m = 1 then -17 else if m = 2 then -16 else 4 * (m : Int) - 26

/-- MK8Decode (R49). -/
def decodeMk (x : Nat) : Val :=
  let neg := bitOf x 7
  let body := field x 0 7
  if body = 0 then (if neg then .nan true true 0 0 else .num false 0 0)
  else
    let m := 6 - clz body 7
    if m = 0 then .num neg 1 (-18)
    else
      let fw := mkFw m
      let ew := mkEw m
      let ex := field body fw ew
      let f := field body 0 fw
      let low : Int := field ex 0 (ew - 1)
      let e : Int := if m = 6 then (ex : Int) - 2
        else if bitOf ex (ew - 1) then mkLarge m + low else mkSmall m + low
      .num neg (2 ^ fw + f) (e - fw)

/-- Decode(f, b) of a floating type code (R69). -/
def decodeVal (t x : Nat) : Val :=
  match t with
  | 11 => decodeE4 x
  | 12 => decodeE2 x
  | 13 => decodeMk x
  | t => decodeIeee t x

/-- Is a value a NaN? -/
def Val.isNan : Val → Bool
  | .nan _ _ _ _ => true
  | _ => false

/-- IsSNaN (R69). -/
def Val.isSnan : Val → Bool
  | .nan _ q _ _ => !q
  | _ => false

/-- Is a value zero? -/
def Val.isZero : Val → Bool
  | .num _ m _ => decide (m = 0)
  | _ => false

/-- Is a value an infinity? -/
def Val.isInf : Val → Bool
  | .inf _ => true
  | _ => false

/-- The sign. -/
def Val.neg : Val → Bool
  | .nan n _ _ _ => n
  | .inf n => n
  | .num n _ _ => n

/-- The default NaN of a format (R45), of E4M3 (R47), of MK8 (R49), and +0 for E2M1 (R48). -/
def defaultNan (t : Nat) : Nat :=
  match t with
  | 8 => 0x7FC0
  | 9 => 0x7FC00000
  | 10 => 0x7FF8000000000000
  | 11 => 0x7F
  | 13 => 0x80
  | _ => 0

/-- A NaN in a format (R46 to R48): its sign and the top fraction bits that fit, with the quiet bit set, between IEEE
formats; the default NaN from E4M3, MK8 or a scale; S.1111.111 in E4M3; 0x80 in MK8; +0 with NNAN in E2M1. -/
def encodeNan (t : Nat) (v : Val) : Nat × FFlags :=
  match v with
  | .nan neg _ fr fw =>
    match t with
    | 11 => (128 * b2n neg + 127, FFlags.none)
    | 12 => (0, { FFlags.none with nnan := true })
    | 13 => (0x80, FFlags.none)
    | t =>
      if fw = 0 then (defaultNan t, FFlags.none)
      else
        let f := fracBits t
        let top := if fw ≤ f then fr * 2 ^ (f - fw) else fr / 2 ^ (fw - f)
        let quiet := if bitOf top (f - 1) then top else top + 2 ^ (f - 1)
        (b2n neg * 2 ^ (expBits t + f) + (2 ^ expBits t - 1) * 2 ^ f + quiet, FFlags.none)
  | _ => (defaultNan t, FFlags.none)

/-- ±∞ of an IEEE format. -/
def infBits (t : Nat) (neg : Bool) : Nat :=
  b2n neg * 2 ^ (expBits t + fracBits t) + (2 ^ expBits t - 1) * 2 ^ fracBits t

/-- ±largest finite (R53). -/
def maxBits (t : Nat) (neg : Bool) : Nat :=
  match t with
  | 11 => 128 * b2n neg + 0x7E
  | 12 => 8 * b2n neg + 7
  | 13 => 128 * b2n neg + 3
  | t => infBits t neg - 1

/-- ±0; MK8 has no −0 (R49). -/
def zeroBits (t : Nat) (neg : Bool) : Nat :=
  match t with
  | 13 => 0
  | t => b2n neg * 2 ^ (width t - 1)

/-- Does the mode take the candidate farther from zero (R52)? `rem` over `unit` is the discarded part, `odd` whether
the nearer-to-zero candidate is odd. -/
def roundsUp (mode : Nat) (neg : Bool) (rem unit : Nat) (odd : Bool) : Bool :=
  match mode with
  | 0 => decide (unit < 2 * rem) || (decide (2 * rem = unit) && odd)
  | 1 => false
  | 2 => neg && decide (0 < rem)
  | _ => !neg && decide (0 < rem)

/-- man × 2^exp in units of 2^q: whole units, discarded part, and its unit. -/
def scaleTo (man : Nat) (exp q : Int) : Nat × Nat × Nat :=
  if q ≤ exp then (man * 2 ^ (exp - q).toNat, 0, 1)
  else
    let u := 2 ^ (q - exp).toNat
    (man / u, man % u, u)

/-- Exponent(x) (R69) of man × 2^exp, man > 0. -/
def exponentOf (man : Nat) (exp : Int) : Int := (bitLen man : Int) - 1 + exp

/-- Fraction bits and smallest normal exponent of IEEE, E4M3 and E2M1 formats. -/
def gridOf (t : Nat) : Nat × Int :=
  match t with
  | 11 => (3, -6)
  | 12 => (1, 0)
  | t => (fracBits t, 2 - 2 ^ (expBits t - 1))

/-- Largest finite magnitude, in units of 2^exponent. -/
def maxOf (t : Nat) : Nat × Int :=
  match t with
  | 11 => (7, 6)
  | 12 => (3, 1)
  | 13 => (1, 16)
  | t => (2 ^ (fracBits t + 1) - 1, 2 ^ (expBits t - 1) - 1 - fracBits t)

/-- Is n × 2^q above m × 2^p? -/
def above (n : Nat) (q : Int) (m : Nat) (p : Int) : Bool :=
  if p ≤ q then decide (m < n * 2 ^ (q - p).toNat) else decide (m * 2 ^ (p - q).toNat < n)

/-- The overflowed result (R53). -/
def overflowBits (t mode : Nat) (neg : Bool) : Nat :=
  if isIeee t then
    if mode = 0 ∨ (mode = 2 ∧ neg = true) ∨ (mode = 3 ∧ neg = false) then infBits t neg else maxBits t neg
  else maxBits t neg

/-- The encoding of n × 2^q on the grid of an IEEE, E4M3 or E2M1 format, n × 2^q not above the largest finite. -/
def packGrid (t : Nat) (neg : Bool) (n : Nat) (q : Int) : Nat :=
  let g := gridOf t
  let f := g.1
  let s := b2n neg * 2 ^ (width t - 1)
  if n = 0 then s
  else
    let e := exponentOf n q
    if e < g.2 then s + n
    else
      let m := if (f : Int) ≤ (bitLen n : Int) - 1 then n / 2 ^ (bitLen n - 1 - f) else n * 2 ^ (f + 1 - bitLen n)
      s + (e - g.2 + 1).toNat * 2 ^ f + (m - 2 ^ f)

/-- Round(x, f, mode) of ±man × 2^exp, man > 0, to an IEEE, E4M3 or E2M1 format (R52, R53, R55). -/
def roundGrid (t mode : Nat) (neg : Bool) (man : Nat) (exp : Int) : Nat × FFlags :=
  let g := gridOf t
  let e := exponentOf man exp
  let q := max (e - g.1) (g.2 - g.1)
  let c := scaleTo man exp q
  let n := if roundsUp mode neg c.2.1 c.2.2 (decide (c.1 % 2 = 1)) then c.1 + 1 else c.1
  let inexact := decide (0 < c.2.1)
  let mx := maxOf t
  if above n q mx.1 mx.2 then (overflowBits t mode neg, FFlags.overflow)
  else
    let qu := e - g.1
    let cu := scaleTo man exp qu
    let nu := if roundsUp mode neg cu.2.1 cu.2.2 (decide (cu.1 % 2 = 1)) then cu.1 + 1 else cu.1
    let tiny := decide (exponentOf nu qu < g.2)
    (packGrid t neg n q, { FFlags.none with nx := inexact, uf := tiny && inexact })

/-- Fraction bits of the MK8 binade of exponent e (R49). -/
def mkFrac (e : Int) : Nat :=
  if -2 ≤ e ∧ e ≤ 1 then 4 else if -6 ≤ e ∧ e ≤ 5 then 2 else if -10 ≤ e ∧ e ≤ 9 then 1 else 0

/-- The code of the MK8 magnitude (1 + F/2^fw) × 2^e (R49), F below 2^fw, e from −18 to 16. -/
def mkCode (e : Int) (f : Nat) : Nat :=
  let put (m ew : Nat) (fw ex : Nat) : Nat := 2 ^ m + ex * 2 ^ fw + f + 0 * ew
  if e = -18 then 1
  else if -2 ≤ e ∧ e ≤ 1 then put 6 2 4 (e + 2).toNat
  else if 2 ≤ e ∧ e ≤ 5 then put 5 3 2 (4 + (e - 2).toNat)
  else if -6 ≤ e ∧ e ≤ -3 then put 5 3 2 (e + 6).toNat
  else if 6 ≤ e ∧ e ≤ 9 then put 4 3 1 (4 + (e - 6).toNat)
  else if -10 ≤ e ∧ e ≤ -7 then put 4 3 1 (e + 10).toNat
  else if 10 ≤ e ∧ e ≤ 13 then put 3 3 0 (4 + (e - 10).toNat)
  else if -14 ≤ e ∧ e ≤ -11 then put 3 3 0 (e + 14).toNat
  else if e = 14 ∨ e = 15 then put 2 2 0 (2 + (e - 14).toNat)
  else if e = -16 ∨ e = -15 then put 2 2 0 (e + 16).toNat
  else if e = 16 then 3
  else 2

/-- Is the code of 2^e odd, where its fraction is empty (R52)? 2^17 and beyond continue the exponent field. -/
def mkOdd (e : Int) : Bool := if 16 ≤ e then decide (e % 2 = 0) else decide (mkCode e 0 % 2 = 1)

/-- Round of ±man × 2^exp, man > 0, to MK8 (R49, R52, R53, R55). -/
def roundMk (mode : Nat) (neg : Bool) (man : Nat) (exp : Int) : Nat × FFlags :=
  let e := exponentOf man exp
  let s := 128 * b2n neg
  if e < -18 then
    let c := scaleTo man exp (-18)
    let up := roundsUp mode neg c.2.1 c.2.2 false
    let x := scaleTo man exp e
    let tiny := !(decide (e = -19) && roundsUp mode neg x.2.1 x.2.2 false)
    (if up then s + 1 else 0, { FFlags.none with nx := true, uf := tiny })
  else
    let fw := if 16 < e then 0 else mkFrac e
    let c := scaleTo man exp (e - fw)
    let tie := decide (2 * c.2.1 = c.2.2) && decide (mode = 0)
    let up :=
      if fw = 0 ∧ tie = true then
        if mkOdd e = mkOdd (e + 1) then Config.mkTieUp neg e else mkOdd e
      else roundsUp mode neg c.2.1 c.2.2 (decide (c.1 % 2 = 1))
    let n := if up then c.1 + 1 else c.1
    let e' := if n = 2 ^ (fw + 1) then e + 1 else e
    let f' := if n = 2 ^ (fw + 1) then 0 else n - 2 ^ fw
    if 16 < e' then (maxBits 13 neg, FFlags.overflow)
    else (s + mkCode e' f', { FFlags.none with nx := decide (0 < c.2.1) })

/-- Round(x, f, mode) of a finite value ±man × 2^exp (R52, R53, R55). -/
def roundNum (t mode : Nat) (neg : Bool) (man : Nat) (exp : Int) : Nat × FFlags :=
  if man = 0 then (zeroBits t neg, FFlags.none)
  else if t = 13 then roundMk mode neg man exp
  else roundGrid t mode neg man exp

/-- Round of any value: NaNs by R46 to R48, infinities by R53. -/
def roundVal (t mode : Nat) (v : Val) : Nat × FFlags :=
  match v with
  | .num neg man exp => roundNum t mode neg man exp
  | .inf neg => if isIeee t then (infBits t neg, FFlags.none) else (maxBits t neg, FFlags.overflow)
  | v => encodeNan t v

/-- The NaN an operation returns (R46): the first NaN among its operands, quieted, or the default NaN. -/
def nanResult (t : Nat) (l : List Val) : Nat :=
  match firstSome (fun v => if v.isNan then some v else none) l with
  | some v => (encodeNan t v).1
  | none => defaultNan t

/-- The flags of signalling operands (R56). -/
def snanFlags (l : List Val) : FFlags := if l.any Val.isSnan then FFlags.signalling else FFlags.none

end Sys2Proof.Machine
end

