-- ==== Sys2Proof/Machine/Float.lean ====
section
/-! DEFINITION. Floating-point arithmetic on encodings (R46, R52 to R57, R68, R161 to R163): each operation converts
its operands to exact values, computes exactly, and rounds once. -/

namespace Sys2Proof.Machine

/-- A result and the flags it raises. -/
abbrev FRes := Nat × FFlags

/-- ±man × 2^exp as an integer count of 2^e, for e not above exp. -/
def intAt (neg : Bool) (man : Nat) (exp e : Int) : Int :=
  let m : Int := ((man * 2 ^ (exp - e).toNat : Nat) : Int)
  if neg then -m else m

/-- Round of an exact integer count of 2^e; an exact zero takes the sign given (R161). -/
def roundInt (t mode : Nat) (x : Int) (e : Int) (zeroNeg : Bool) : FRes :=
  if x = 0 then (zeroBits t zeroNeg, FFlags.none) else roundNum t mode (decide (x < 0)) x.natAbs e

/-- The sum of two exact values, neither a NaN (R161): ∞ − ∞ is invalid; an exact zero sum of opposite or
unlike-signed values is +0, except −0 under RDN. -/
def sumVals (t mode : Nat) (a b : Val) : FRes :=
  match a, b with
  | .inf n, .inf m => if n = m then (infBits t n, FFlags.none) else (defaultNan t, FFlags.invalid)
  | .inf n, _ => (infBits t n, FFlags.none)
  | _, .inf m => (infBits t m, FFlags.none)
  | .num n x p, .num m y q =>
    let e := min p q
    let zn := if n = m then n else decide (mode = 2)
    roundInt t mode (intAt n x p e + intAt m y q e) e zn
  | _, _ => (defaultNan t, FFlags.none)

/-- The exact product; none for ∞ × 0 or a NaN. -/
def productVal (a b : Val) : Option Val :=
  match a, b with
  | .inf n, .inf m => some (.inf (n != m))
  | .inf n, .num m y _ => if y = 0 then none else some (.inf (n != m))
  | .num n x _, .inf m => if x = 0 then none else some (.inf (n != m))
  | .num n x p, .num m y q => some (.num (n != m) (x * y) (p + q))
  | _, _ => none

/-- A value with its sign flipped; a NaN keeps its sign. -/
def Val.negate : Val → Val
  | .num n x p => .num (!n) x p
  | .inf n => .inf (!n)
  | v => v

/-- FADD (R161). -/
def fAdd (t mode a b : Nat) : FRes :=
  let x := decodeVal t a
  let y := decodeVal t b
  if x.isNan || y.isNan then (nanResult t [x, y], snanFlags [x, y]) else sumVals t mode x y

/-- FSUB (R161). -/
def fSub (t mode a b : Nat) : FRes :=
  let x := decodeVal t a
  let y := decodeVal t b
  if x.isNan || y.isNan then (nanResult t [x, y], snanFlags [x, y]) else sumVals t mode x y.negate

/-- FMUL (R161). -/
def fMul (t mode a b : Nat) : FRes :=
  let x := decodeVal t a
  let y := decodeVal t b
  if x.isNan || y.isNan then (nanResult t [x, y], snanFlags [x, y])
  else match productVal x y with
    | none => (defaultNan t, FFlags.invalid)
    | some v => roundVal t mode v

/-- FFMA (R161): one rounding; ∞ × 0 is invalid even when the addend is a quiet NaN. -/
def fFma (t mode a b d : Nat) : FRes :=
  let x := decodeVal t a
  let y := decodeVal t b
  let z := decodeVal t d
  if x.isNan || y.isNan then (nanResult t [x, y, z], snanFlags [x, y, z])
  else match productVal x y with
    | none => (nanResult t [z], (snanFlags [z]).or FFlags.invalid)
    | some v => if z.isNan then (nanResult t [z], snanFlags [z]) else sumVals t mode v z

/-- Is one exact value below another, −0 below +0 (FMIN, FMAX, R161)? Neither is a NaN. -/
def valLt (a b : Val) : Bool :=
  match a, b with
  | .inf n, .inf m => n && !m
  | .inf n, _ => n
  | _, .inf m => !m
  | .num n x p, .num m y q =>
    let e := min p q
    let i := intAt n x p e
    let j := intAt m y q e
    decide (i < j) || (decide (i = 0) && decide (j = 0) && n && !m)
  | _, _ => false

/-- Are two exact values equal (−0 = +0)? Neither is a NaN. -/
def valEq (a b : Val) : Bool :=
  match a, b with
  | .inf n, .inf m => n = m
  | .num n x p, .num m y q =>
    let e := min p q
    decide (intAt n x p e = intAt m y q e)
  | _, _ => false

/-- FMIN and FMAX (R161): one NaN gives the other operand; NV on a signalling NaN only. -/
def fMinMax (t : Nat) (isMax : Bool) (a b : Nat) : FRes :=
  let x := decodeVal t a
  let y := decodeVal t b
  let f := snanFlags [x, y]
  if x.isNan && y.isNan then (nanResult t [x, y], f)
  else if x.isNan then (b, f)
  else if y.isNan then (a, f)
  else if isMax then (if valLt x y then b else a, f)
  else (if valLt y x then b else a, f)

/-- FCLASS (R161): the one-hot class. -/
def fClass (t a : Nat) : Nat :=
  match decodeVal t a with
  | .inf n => if n then 1 else 128
  | .nan _ q _ _ => if q then 512 else 256
  | .num n m e =>
    if m = 0 then (if n then 8 else 16)
    else
      let normal := decide ((gridOf t).2 ≤ exponentOf m e)
      if normal then (if n then 2 else 64) else (if n then 4 else 32)

/-- FRND (R161): the integral value under the mode; NV on a signalling NaN only. -/
def fRnd (t mode a : Nat) : FRes :=
  match decodeVal t a with
  | .num n m e =>
    let c := scaleTo m e 0
    let k := if roundsUp mode n c.2.1 c.2.2 (decide (c.1 % 2 = 1)) then c.1 + 1 else c.1
    ((roundNum t 0 n k 0).1, FFlags.none)
  | .inf n => (infBits t n, FFlags.none)
  | v => (nanResult t [v], snanFlags [v])

/-- FCMP.cc (R91, R161): 0 eq, 1 ne, 2 lt, 3 le, 4 gt, 5 ge, 6 un, 7 or; the flags: eq, ne, un and or raise NV on a
signalling NaN only, the others on any NaN. -/
def fCmp (t cc a b : Nat) : Bool × FFlags :=
  let x := decodeVal t a
  let y := decodeVal t b
  if x.isNan || y.isNan then
    let f := snanFlags [x, y]
    (decide (cc = 1) || decide (cc = 6), if 2 ≤ cc ∧ cc ≤ 5 then f.or FFlags.invalid else f)
  else
    let lt := valLt x y && !valEq x y
    let eq := valEq x y
    (match cc with
      | 0 => eq
      | 1 => !eq
      | 2 => lt
      | 3 => lt || eq
      | 4 => !(lt || eq)
      | 5 => !lt
      | 6 => false
      | _ => true, FFlags.none)

/-- FDIV (R162): correctly rounded; the quotient is taken with enough bits and a sticky bit. -/
def fDiv (t mode a b : Nat) : FRes :=
  match decodeVal t a, decodeVal t b with
  | .num n x p, .num m y q =>
    if y = 0 then
      if x = 0 then (defaultNan t, FFlags.invalid) else (infBits t (n != m), FFlags.divZero)
    else if x = 0 then (zeroBits t (n != m), FFlags.none)
    else
      let k := 64 + fracBits t + bitLen y
      let num := x * 2 ^ k
      roundNum t mode (n != m) (2 * (num / y) + b2n (decide (num % y ≠ 0))) (p - q - k - 1)
  | .inf n, .inf m => (defaultNan t, if n = m then FFlags.invalid else FFlags.invalid)
  | .inf n, .num m _ _ => (infBits t (n != m), FFlags.none)
  | .num n _ _, .inf m => (zeroBits t (n != m), FFlags.none)
  | x, y => (nanResult t [x, y], snanFlags [x, y])

/-- Integer square root, bit by bit from bit `k` down: the root found so far. -/
def sqrtBits (n : Nat) : Nat → Nat → Nat
  | 0, r => r
  | k + 1, r =>
    let c := r + 2 ^ k
    sqrtBits n k (if c * c ≤ n then c else r)

/-- FSQRT (R162): correctly rounded. -/
def fSqrt (t mode a : Nat) : FRes :=
  match decodeVal t a with
  | .num n m e =>
    if m = 0 then (zeroBits t n, FFlags.none)
    else if n then (defaultNan t, FFlags.invalid)
    else
      let k := 2 * (fracBits t + 8) + 2 * bitLen m
      let sh := k + (e - k).natAbs % 2
      let x := m * 2 ^ sh
      let r := sqrtBits x (bitLen x / 2 + 1) 0
      roundNum t mode false (2 * r + b2n (decide (r * r ≠ x))) ((e - sh) / 2 - 1)
  | .inf n => if n then (defaultNan t, FFlags.invalid) else (infBits t false, FFlags.none)
  | v => (nanResult t [v], snanFlags [v])

/-- One of the two FP32 neighbours of an inexact result ±man × 2^exp (man carries a sticky bit): which one the free
value of the function and operand decides (R68, log 5). -/
def nearUlp (fn a : Nat) (neg : Bool) (man : Nat) (exp : Int) : FRes :=
  roundNum 9 (if Config.roundUp fn (BitVec.ofNat 32 a) then 3 else 2) neg man exp

/-- FRCP (R68, R162): powers of two exactly; ±0 gives ±∞ with DZ; ±∞ gives ±0. -/
def fRcp (a : Nat) : FRes :=
  match decodeVal 9 a with
  | .num n m e =>
    if m = 0 then (infBits 9 n, FFlags.divZero)
    else
      let l := bitLen m - 1
      if m = 2 ^ l then roundNum 9 0 n 1 (-(e + l))
      else
        let k := 128 + bitLen m
        let man := 2 * (2 ^ k / m) + 1
        if (roundNum 9 0 n man (-e - k - 1)).2.of then (infBits 9 n, FFlags.overflow)
        else nearUlp 0 a n man (-e - k - 1)
  | .inf n => (zeroBits 9 n, FFlags.none)
  | v => (nanResult 9 [v], snanFlags [v])

/-- 2^(2^-i) for i = 1, 2, … as integers over 2^200, multiplied where the bits of `f` (from bit `k - 1` down, weight
1/2, 1/4, …) are set. -/
def exp2Bits (f : Nat) : Nat → Nat → Nat → Nat
  | 0, _, acc => acc
  | k + 1, root, acc =>
    let r := sqrtBits (root * 2 ^ 200) 202 0
    exp2Bits f k r (if bitOf f k then acc * r / 2 ^ 200 else acc)

/-- FEXP2 (R68, R162): integers exactly, subnormal results included; otherwise one of the two neighbours. -/
def fExp2 (a : Nat) : FRes :=
  match decodeVal 9 a with
  | .num n m e =>
    if m = 0 then roundNum 9 0 false 1 0
    else
      let c := scaleTo m e 0
      let whole : Int := if n then (if c.2.1 = 0 then -(c.1 : Int) else -(c.1 : Int) - 1) else c.1
      if c.2.1 = 0 then roundNum 9 0 false 1 (max (min whole 300) (-300))
      else if 128 ≤ whole then (infBits 9 false, FFlags.overflow)
      else if whole < -300 then nearUlp 1 a false 1 (-300)
      else
        let fr := if n then c.2.2 - c.2.1 else c.2.1
        let k := bitLen c.2.2 - 1
        let f := if k ≤ 160 then fr else fr / 2 ^ (k - 160)
        let man := 2 * exp2Bits f (min k 160) (2 ^ 201) (2 ^ 200) + 1
        let r := nearUlp 1 a false man (whole - 201)
        if r.2.of then (infBits 9 false, FFlags.overflow) else r
  | .inf n => if n then (0, FFlags.none) else (infBits 9 false, FFlags.none)
  | v => (nanResult 9 [v], snanFlags [v])

/-- Bits of log2 of y / 2^300 (1 ≤ y / 2^300 < 2), by repeated squaring. -/
def log2Bits : Nat → Nat → Nat → Nat
  | 0, _, acc => acc
  | k + 1, y, acc =>
    let z := y * y / 2 ^ 300
    if 2 ^ 301 ≤ z then log2Bits k (z / 2) (2 * acc + 1) else log2Bits k z (2 * acc)

/-- FLOG2 (R68, R162): powers of two exactly, FLOG2(1) = +0; ±0 gives −∞ with DZ; a negative number is invalid. -/
def fLog2 (a : Nat) : FRes :=
  match decodeVal 9 a with
  | .num n m e =>
    if m = 0 then (infBits 9 true, FFlags.divZero)
    else if n then (defaultNan 9, FFlags.invalid)
    else
      let l := bitLen m - 1
      let k : Int := e + l
      if m = 2 ^ l then roundInt 9 0 k 0 false
      else
        let f := log2Bits 120 (m * 2 ^ (300 - l)) 0
        let x : Int := k * 2 ^ 121 + (2 * f + 1 : Nat)
        nearUlp 2 a (decide (x < 0)) x.natAbs (-121)
  | .inf n => if n then (defaultNan 9, FFlags.invalid) else (infBits 9 false, FFlags.none)
  | v => (nanResult 9 [v], snanFlags [v])

/-- π over 2^420. -/
def piScaled : Nat :=
  8506444083868174897761245044461686771323923700309573190120836733458428361833437461212585903707197869053776263619362240579410812

/-- The Taylor sum of sine or cosine at r / 2^400: terms t, −t·r²/((j+1)(j+2)), … -/
def taylor (r2 : Int) : Nat → Int → Int → Int → Int
  | 0, _, _, acc => acc
  | k + 1, j, t, acc => taylor r2 k (j + 2) (-(t * r2 / 2 ^ 400) / ((j + 1) * (j + 2))) (acc + t)

/-- Sine (or cosine) of x / 2^400, over 2^400, by reduction to a multiple of π/2 and its remainder. -/
def sinScaled (x : Int) (cos : Bool) : Int :=
  let half : Int := piScaled / 2 ^ 21
  let q := (x + half / 2) / half
  let r := (x * 2 ^ 21 - q * piScaled) / 2 ^ 21
  let k := if cos then q + 1 else q
  let r2 := r * r / 2 ^ 400
  let s := if k % 2 = 0 then taylor r2 60 1 r 0 else taylor r2 60 0 (2 ^ 400) 0
  if k % 4 = 0 ∨ k % 4 = 1 then s else -s

/-- FSIN and FCOS (R68): within 1 ulp below 2^20; the default NaN with NV and RNG at or beyond it, with NV alone for
±∞; FSIN(±0) = ±0, FCOS(±0) = 1. The sine of a very small argument lies just below it in magnitude. -/
def fSinCos (cos : Bool) (a : Nat) : FRes :=
  match decodeVal 9 a with
  | .num n m e =>
    if m = 0 then (if cos then roundNum 9 0 false 1 0 else (zeroBits 9 n, FFlags.none))
    else if 20 ≤ exponentOf m e then (defaultNan 9, { FFlags.invalid with rng := true })
    else if exponentOf m e < -100 && !cos then nearUlp 3 a n (m * 2 ^ 60 - 1) (e - 60)
    else
      let x := intAt n m e (-400)
      let y := sinScaled x cos
      nearUlp (if cos then 4 else 3) a (decide (y < 0)) (2 * y.natAbs + 1) (-401)
  | .inf _ => (defaultNan 9, FFlags.invalid)
  | v => (nanResult 9 [v], snanFlags [v])

/-! ## Conversion (R53, R54, R163) -/

/-- An integer element's value (R42). -/
def intVal (t x : Nat) : Int := if isSigned t then toSigned x (width t) else (x % 2 ^ width t : Nat)

/-- The saturated element (R42, R69). -/
def satTo (t : Nat) (x : Int) : Nat :=
  if isSigned t then wrapN (satN x (width t)) (width t) else wrapN (satUN x (width t)) (width t)

/-- Fit (R158): saturated under .sat, wrapped otherwise. -/
def fitTo (t : Nat) (sat : Bool) (x : Int) : Nat := if sat then satTo t x else wrapN x (width t)

/-- A floating value to an integer type (R54): a NaN gives 0, a value outside the range saturates, both with NV; an
in-range inexact result raises NX. -/
def floatToInt (td mode : Nat) (v : Val) : FRes :=
  match v with
  | .nan _ q _ _ => (0, { FFlags.invalid with snan := !q })
  | .inf n => (satTo td (if n then -(2 ^ 64 : Int) else 2 ^ 64), FFlags.invalid)
  | .num n m e =>
    let c := scaleTo m e 0
    let k := if roundsUp mode n c.2.1 c.2.2 (decide (c.1 % 2 = 1)) then c.1 + 1 else c.1
    let x : Int := if n then -(k : Int) else k
    if intVal td (wrapN x (width td)) = x then (wrapN x (width td), { FFlags.none with nx := decide (0 < c.2.1) })
    else (satTo td x, FFlags.invalid)

/-- Is a type code floating (R44)? -/
def isFloat (t : Nat) : Bool := decide (8 ≤ t)

/-- Convert (R163): float to float by Round, with NV on a signalling NaN; float to integer and integer to float by R54;
integer to integer by WrapN or saturation. -/
def convert (ts td mode : Nat) (sat : Bool) (x : Nat) : FRes :=
  if isFloat ts then
    let v := decodeVal ts x
    if isFloat td then
      let r := roundVal td mode v
      (r.1, r.2.or (snanFlags [v]))
    else floatToInt td mode v
  else
    let i := intVal ts x
    if isFloat td then roundInt td mode i 0 false
    else (fitTo td sat i, FFlags.none)

end Sys2Proof.Machine
end

