-- ==== Sys2Proof/Machine/Operands.lean ====
section
/-! DEFINITION. Every operand form: guards (R81), register names and their bounds (R24, R82), vector sources by KIND
(R153), bypass registers (R29), destinations (R152, R154, R155), effective addresses (R174), control values (R153). -/

namespace Sys2Proof.Machine

/-! ## Guards (R81) -/

/-- A vector guard that is false for the slot as a whole: p0 with sense 1. -/
def neverGuard (gp : Nat) (gs : Bool) : Bool := decide (gp = 0) && gs

/-- The guard bit of a lane of a cluster. -/
def Regs.laneGuard (r : Regs) (gp : Nat) (gs : Bool) (cl l : Nat) : Bool := (r.readP cl gp).getLsbD l != gs

/-- The guard bits of a cluster, lane by lane. -/
def Regs.guardLanes (r : Regs) (gp : Nat) (gs : Bool) (cl : Nat) : List Bool :=
  lanes16.map fun l => r.laneGuard gp gs cl l

/-- The clusters of a mask. -/
def maskClusters (m : Nat) : List Nat := clusters8.filter fun k => bitOf m k

/-- The lowest cluster of a mask, for a trap record. -/
def firstCluster (m : Nat) : Nat := match maskClusters m with
  | k :: _ => k
  | [] => 0

end Sys2Proof.Machine

namespace Sys2Proof

open Sys2Proof.Machine

/-- The guard of a C, E or scalar-guarded M slot. -/
def SGuard.holds (g : SGuard) (r : Regs) : Bool := r.readSp g.sp.toNat != g.sense

/-- The guard of a scalar slot. -/
def SHead.holds (g : SHead) (r : Regs) : Bool := r.readSp g.sp.toNat

/-- The slot of a scalar operation. -/
def SHead.slotOf (g : SHead) : Slot := match g.slot with
  | .s0 => .s0
  | .s1 => .s1

/-- The slot of a vector operation. -/
def VOp.slotOf (o : VOp) : Slot := match o.slot with
  | .v0 => .v0
  | .v1 => .v1

/-- Is the M slot's guard false for the slot as a whole (R81, R174)? -/
def MHead.never (h : MHead) (r : Regs) : Bool :=
  if h.gk then neverGuard h.gn.toNat h.gs else !(r.readSp (h.gn.toNat % 8) != h.gs)

/-- The lane guard of an M slot: the slot's own guard for every lane when GK = 0 (R180). -/
def MHead.lane (h : MHead) (r : Regs) (cl l : Nat) : Bool :=
  if h.gk then r.laneGuard h.gn.toNat h.gs cl l else r.readSp (h.gn.toNat % 8) != h.gs

end Sys2Proof

namespace Sys2Proof.Machine

/-! ## Names (R24, R28, R82) -/

/-- Is a field a vector register beyond the partition, or an unbound stream (R24, R28)? Checked whatever the guard
(R81). -/
def Ctx.badName (x : Ctx) (n : Nat) : Bool :=
  if n < 768 then decide (x.vBound ≤ n)
  else if n < 784 then (x.binding (n - 768)).isNone
  else false

/-- The names of a slot, each with the lowest bit of its field, checked in order. -/
def State.checkNames (s : State) (slot : Slot) (cl : Nat) : List (Nat × Nat) → State
  | [] => s
  | (n, bit) :: l => State.checkNames (if s.act.badName n then s.illegal slot cl bit else s) slot cl l

/-- A matrix register beyond the partition (R24). -/
def State.checkMatrix (s : State) (slot : Slot) (bit m : Nat) : State :=
  if s.act.mBound ≤ m then s.illegal slot 0 bit else s

/-- Has a slot of the bundle raised a trap? -/
def State.trapped (s : State) : Bool := s.here.iss.trap.isSome

/-- Go on with a slot unless it has raised a trap that the state before it did not have. -/
def State.unlessTrapped (s0 s : State) (f : State → State) : State :=
  if s.here.iss.trap = s0.here.iss.trap then f s else s

/-! ## Vector sources (R29, R82, R153) -/

/-- A bypass register of a cluster: what its source wrote in the cycle before, else 0 with BE (R29). -/
def State.readBypass (s : State) (n cl : Nat) : List Word × State :=
  match firstSome (fun b => if b.1 = n ∧ b.2.1 = cl then some b.2.2 else none) s.act.bx with
  | some l => (l, s)
  | none => (zeroLanes, s.onAct fun x => x.setCstat 1)

/-- A bypass register for each cluster. -/
def State.bypassAll (s : State) (n : Nat) : List Nat → List (Nat × List Word) × State
  | [] => ([], s)
  | cl :: l =>
    let r := s.readBypass n cl
    let t := State.bypassAll r.2 n l
    ((cl, r.1) :: t.1, t.2)

/-- A vector operand field read for the clusters of a mask (R82): a register, a stream pop, or a bypass register. -/
def State.readField (s : State) (slot : Slot) (bit n : Nat) (cls : List Nat) : List (Nat × List Word) × State :=
  if n < 768 then (cls.map fun cl => (cl, s.act.regs.readV cl n), s)
  else if n < 784 then s.popAll slot bit (n - 768) cls
  else s.bypassAll (n - 784) cls

/-- The sixteen lanes of a value repeated in every element of width w (R153, KIND 1 and 2). -/
def broadcast (w x : Nat) : List Word :=
  let e := x % 2 ^ w
  let lane := match w with
    | 4 => e * 0x11111111
    | 8 => e * 0x01010101
    | 16 => e * 0x00010001
    | _ => e
  lanes16.map fun _ => BitVec.ofNat 32 lane

/-- Source 2 by KIND (R153): a field, a scalar register broadcast, or a signed immediate in every element. -/
def State.readSrc2 (s : State) (o : VOp) (cls : List Nat) : List (Nat × List Word) × State :=
  let w := width o.type.toNat
  match o.kind.toNat with
  | 0 => s.readField o.slotOf 12 o.src2.toNat cls
  | 1 => (cls.map fun cl => (cl, broadcast w (s.act.regs.readS (o.src2.toNat % 64)).toNat), s)
  | _ => (cls.map fun cl => (cl, broadcast w (wrapN (toSigned o.src2.toNat 10) w)), s)

/-- A control value (R153): the field as written when KIND = 2, sN[9:0] when KIND = 1. -/
def State.control (s : State) (o : VOp) : Nat :=
  if o.kind.toNat = 2 then o.src2.toNat else (s.act.regs.readS (o.src2.toNat % 64)).toNat % 1024

/-- The lanes of a cluster in a list of values. -/
def clLanes (l : List (Nat × List Word)) (cl : Nat) : List Word := (lookup l cl).getD zeroLanes

/-! ## Destinations (R102, R152, R154, R155) -/

/-- The bypass register of a vector slot. -/
def slotBypass (slot : Slot) : Nat := if slot = .v1 then 1 else 0

/-- The lanes of a bypass value: lanes whose guard bits were false read zero (R155). -/
def guardedLanes (on : List Bool) (lanes : List Word) : List Word :=
  lanes16.map fun l => if on.getD l false then nth0 lanes l else 0#32

/-- The register cells of the guarded lanes of each cluster. -/
def destCells (r : Regs) (n : Nat) (on : Nat → List Bool) (vals : List (Nat × List Word)) : List (Nat × Word) :=
  (vals.map fun e => lanes16.filterMap fun l =>
    if (on e.1).getD l false then some (vKey e.1 (r.physical n) l, nth0 e.2 l) else none).flatten

/-- The bypass values of a result, one for each cluster (R155). -/
def State.landBypass (s : State) (slot : Slot) (due src : Nat) (on : Nat → List Bool) : List (Nat × List Word) → State
  | [] => s
  | (cl, lanes) :: l => State.landBypass (s.land slot due (.bx src cl (guardedLanes (on cl) lanes))) slot due src on l

/-- A vector result (R152, R154, R155): the guarded lanes of register N, or one element per cluster pushed to a
stream whatever the lane guards; and its bypass register, unless the source wrote nothing at all in the cluster. -/
def State.writeVector (s : State) (slot : Slot) (bit n due bypass : Nat) (on : Nat → List Bool)
    (vals : List (Nat × List Word)) : State :=
  let s1 := if n < 768 then s.land slot due (.v (destCells s.act.regs n on vals))
    else s.pushAll slot bit (n - 768) due vals
  s1.landBypass slot due bypass on (vals.filter fun e => decide (768 ≤ n) || (on e.1).any id)

/-- Predicate bits written where the lane guard is true (R159); p0 discards them (R21). -/
def State.writePreds (s : State) (slot : Slot) (due n : Nat) (on : Nat → List Bool) (vals : List (Nat × List Bool)) : State :=
  if n = 0 then s
  else s.land slot due (.p ((vals.map fun e => lanes16.filterMap fun l =>
    if (on e.1).getD l false then some (16 * (16 * e.1 + n) + l, e.2.getD l false) else none).flatten))

/-- The flags of a result, cluster by cluster, landing with it (R55, R232). The operation is flag-pending until then
(R229), whether or not it raises one. -/
def State.landFlags (s : State) (slot : Slot) (due : Nat) : List (Nat × FFlags) → State
  | [] => s.land slot due .fpu
  | (cl, f) :: l => State.landFlags (if f.any then s.land slot due (.flags cl f) else s) slot due l

/-! ## Addresses (R96, R174) -/

/-- EA (R174): aN + the signed offset, or aN when PI = 1. -/
def effective (base off : Word) (pi : Bool) : Nat := if pi then base.toNat else (base + off).toNat

/-- The offset field, sign-extended. -/
def signedOffset (off : BitVec 16) : Word := off.signExtend 32

/-- The post-increment (R96, R174), readable from the next cycle. -/
def State.postIncrement (s : State) (n : Nat) (off : Word) (pi : Bool) : State :=
  if pi then s.land .m (s.cycle + 1) (.a n (s.act.regs.readA n + off)) else s

/-- Is the bank of a pool address busy with a pane run (R245)? -/
def Core.busyBank (c : Core) (a : Nat) : Bool := decide (c.pane.busy = some (bankOf a)) && c.pane.run.isSome

/-- A gate entry of the M slot, its bytes written in a cycle. -/
def State.storeAt (s : State) (w whole : Nat) (cells masks : List (Nat × Byte)) (part : Bool) : State :=
  s.onAct fun x => { x with
    gate := x.gate ++ [⟨x.seq, 0, w, false, false, cells, [], none, none, none, whole, masks, part, (0, 0)⟩] }

/-- The bytes of a store whose rows a bank's queue has not already served and written (R252). -/
def Ctx.notPut (x : Ctx) (cells : List (Nat × Byte)) : List (Nat × Byte) :=
  cells.filter fun e => !x.svc.put.contains (rowOf e.1)

/-- A store of the M slot: one gate entry, its bytes written in cycle i + 2 (R176, R177). What the queue of a busy bank
has served is in the bank since its service cycle (R252). -/
def State.storeCells (s : State) (cells : List (Nat × Byte)) : State :=
  let left := s.act.notPut cells
  let w := if left.isEmpty && !cells.isEmpty then s.cycle else s.cycle + 2
  s.storeAt w w left [] false

/-- Does the M slot reach a bank through its queue (R246, R252): a busy bank, or one whose queue has served or still holds
an access of the bundle? -/
def State.byQueue (s : State) (p : Nat) : Bool :=
  s.here.busyBank p || (s.act.svc.queued.any fun r => decide (r / 64 = bankOf p)) ||
    s.here.pane.accesses.any fun q => match q with
      | .slot row _ prio => decide (prio = 0) && decide (row / 64 = bankOf p)
      | _ => false

/-- Does an access of `n` bytes at an address of alignment `al` break R174? -/
def Ctx.badAccess (x : Ctx) (a n al : Nat) : Bool := decide (a % al ≠ 0) || !(x.inWindow a n)

/-- The sixteen words of a 64-byte descriptor. -/
def State.descriptor (s : State) (a : Nat) : List Word :=
  (List.range 16).map fun k => s.slotWord (s.act.poolAddr (a + 4 * k))

/-- A word of a descriptor. -/
def dw (d : List Word) (k : Nat) : Nat := (d.getD k 0#32).toNat

end Sys2Proof.Machine
end

