-- ==== Sys2Proof/Machine/CopyIssue.lean ====
section
/-! DEFINITION. The issue of the copy-class and launch operations (R143, R193), and barriers (R139, R140, R298). -/

namespace Sys2Proof.Machine

/-- Does a 64-byte descriptor address break its alignment or the window (R143, R193)? -/
def State.badPacket (s : State) (a : Nat) : Bool := s.act.badAccess a 64 64

/-- Is a packet that of a timed operation (R337)? -/
def isTimed (kind : Nat) (packet : List Word) : Bool := decide (kind ≤ 2) && decide (field (dw packet 0) 8 2 ≠ 0)

/-- Is the operation timed? -/
def CopyOp.timed (o : CopyOp) : Bool := isTimed o.kind o.packet

/-- Destination kind. -/
def CopyOp.dk (o : CopyOp) : Nat := field (dw o.packet 0) 4 4

/-- TCLS (R337). -/
def CopyOp.tcls (o : CopyOp) : Nat := field (dw o.packet 0) 8 2

/-- ROWBYTES or PAGEBYTES. -/
def CopyOp.bytes (o : CopyOp) : Nat := dw o.packet 5

/-- The bound B of a class (R336). -/
def classBound : Nat → Nat
  | 1 => 700
  | 2 => 1100
  | _ => 2400

/-- The deadline of a row of a timed operation (R337). -/
def CopyOp.deadline (o : CopyOp) (r : Nat) : Nat :=
  max (o.issued + classBound o.tcls + r * ceilDiv' o.bytes 256) ((if o.dk = 4 then o.slotFree else o.issued) + 16)

/-- Has a timed row to be delivered within 64 c? Free times then end, so that nothing else in the device delays it (R337). -/
def State.urgent (s : State) : Bool :=
  s.ops.any fun o => o.timed && decide (o.deadline o.row ≤ s.cycle + 64) && (match o.stage with
    | .ready => true
    | .walk _ => true
    | _ => false)

/-- Must an operation wait at issue (R193 step 2, R337): 8,192 operations of the core are outstanding, or 16 timed
ones? -/
def State.copyFull (s : State) (kind : Nat) (packet : List Word) : Bool :=
  decide (8192 ≤ s.here.act.outstanding + s.here.shadow.outstanding) ||
    (isTimed kind packet &&
      decide (16 ≤ (s.ops.filter fun o => decide (o.core = s.cur) && isTimed o.kind o.packet).length))

/-- A copy-class or launch operation is numbered on tlT and handed on, with the words of its packet as they stand in
the issue cycle (R143, R193). The engine acts at a free time after that (log 2). -/
def State.startOp (s : State) (kind tl a : Nat) : State :=
  let x := s.act
  let t := x.task
  let num := (x.timeline tl).i + 1
  let r := s.draw
  let start := if isTimed kind (s.descriptor a) then min r.1 600 else r.1
  let op : CopyOp :=
    { id := s.nextOp, kind := kind, core := s.cur, cid := x.cid, tl := tl, num := num, addr := a,
      packet := s.descriptor a, scope := s.here.iss.scope, asid := (t.map fun k => k.asid).getD 0,
      gang := t.bind fun k => k.gang, launch := t.map fun k => k.launch, blk := (t.map fun k => k.blk).getD 0,
      trace := (t.map fun k => k.trace).getD 0, issued := s.cycle, notBefore := s.cycle + 1 + start, row := 0,
      stage := .ready, status := 0, slotFree := 0, unseen := [], kv := [], data := none, todo := [],
      got := [], accepted := decide (kind = 7) && decide (s.dist.trsbase ≠ 0), peer := none,
      clock := s.clockOf (dieOf s.cur), stamp := none, vstamp := [], blocked := [], rowIds := [] }
  let s1 := (r.2.onAct fun x => x.number tl)
  let s2 := { s1 with ops := s1.ops ++ [op], nextOp := s1.nextOp + 1 }
  if 5 ≤ kind then s2.onDist fun d => { d with waiting := d.waiting ++ [op.id] } else s2

/-- LAUNCH, RELAUNCH and TRACE (R143): the descriptor at the scratchpad address in sN. -/
def State.startLaunch (s : State) (g : SGuard) (kind tl n : Nat) : State :=
  if !(g.holds s.act.regs) then s
  else
    let a := (s.act.regs.readS n).toNat
    if s.badPacket a then s.rangeFault .c a
    else (s.access (rowsOf (s.act.poolAddr a) 64) false 0).startOp kind tl a

/-- The copy-class operations of format MC (R193). -/
def State.startCopy (s : State) (o : McOp) (kind : Nat) : State :=
  if o.head.never s.act.regs then s
  else
    let a := (s.act.regs.readA o.addr.toNat).toNat
    if s.badPacket a then s.rangeFault .m a
    else if s.copyFull kind (s.descriptor a) then s.hold
    else
      let num := (s.act.timeline o.tl.toNat).i + 1
      let s1 := s.access (rowsOf (s.act.poolAddr a) 64) false 0
      (s1.startOp kind o.tl.toNat a).landS .m 1 o.s.toNat (BitVec.ofNat 32 num)

/-- COPY (R193, R195). -/
def execCopy (o : McOp) (s : State) : Out := .next (s.startCopy o 0)

/-- COPYO (R193, R194). -/
def execCopyo (o : McOp) (s : State) : Out := .next (s.startCopy o 1)

/-- GATHERP (R193, R196). -/
def execGatherp (o : McOp) (s : State) : Out := .next (s.startCopy o 2)

/-- MPOST (R193, R197). -/
def execMpost (o : McOp) (s : State) : Out := .next (s.startCopy o 3)

/-- TQPUSH (R193, R198). -/
def execTqpush (o : McOp) (s : State) : Out := .next (s.startCopy o 4)

/-! ## Barriers -/

/-- The launch of a number. -/
def Distributor.launch (d : Distributor) (n : Nat) : Option Launch :=
  firstSome (fun l => if l.num = n then some l else none) d.launches

/-- The group of a task's barrier at a scope (R298): scope, gang or launch or tag, quad; none without membership. -/
def State.group (s : State) (core : Nat) (x : Ctx) (scope : Nat) : Option (Nat × Nat × Nat) :=
  match x.task with
  | none => none
  | some t =>
    match scope, t.gang with
    | 1, some g => if bitOf t.bars 0 then some (1, g, core / 4) else none
    | 2, some g => if bitOf t.bars 1 then some (2, g, 0) else none
    | 3, _ => if bitOf t.bars 2 then some (3, t.launch, 0) else none
    | 4, _ => if bitOf t.bars 3 then (s.dist.launch t.launch).map fun l => (4, l.ptag, 0) else none
    | _, _ => none

/-- Every context that holds a task, by core; those that firmware has saved are among them (R244). -/
def State.contexts (s : State) : List (Nat × Ctx) :=
  (s.cores.map fun e => [(e.1, e.2.act), (e.1, e.2.shadow)] ++ e.2.saved.map fun v => (e.1, v.ctx)).flatten

/-- The members of a barrier's group (R140): the contexts that have not left it. -/
def State.members (s : State) (key : Nat × Nat × Nat) : List (Nat × Ctx) :=
  s.contexts.filter fun e => decide (s.group e.1 e.2 key.1 = some key)

/-- Has every member arrived at instance k of its barrier (R139)? -/
def State.allArrived (s : State) (b : Barrier) : Bool :=
  (s.members (b.scope, b.key, b.quad)).all fun e => decide (b.inst ≤ Store.get 0 e.2.barriers b.scope)

/-- The first cycle of the wait for the release of an instance that completes now: at pod scope the other packages'
members may arrive later, and a longest route of up to 6 hops adds to it (R139, R345; both free). -/
def State.completeAt (s : State) (b : Barrier) : Nat × State :=
  if b.scope = 4 then
    let r := s.draw
    let h := r.2.draw
    (s.cycle + r.1 + 400 * (h.1 % 6), h.2)
  else (s.cycle, s)

/-- The instances of a list that have become complete marked so. -/
def State.completeAll (s : State) : List Barrier → List Barrier × State
  | [] => ([], s)
  | b :: l =>
    if b.full.isNone && s.allArrived b then
      let r := s.completeAt b
      let t := State.completeAll r.2 l
      ({ b with full := some r.1 } :: t.1, t.2)
    else
      let t := State.completeAll s l
      (b :: t.1, t.2)

/-- Instances that have become complete, by an arrival or a departure, are complete in this cycle (R139, R140). -/
def State.checkBarriers (s : State) : State :=
  let r := s.completeAll s.dist.barriers
  r.2.onDist fun d => { d with barriers := r.1 }

/-- An arrival at the next instance of the barrier of a scope (R139). -/
def State.arrive (s : State) (key : Nat × Nat × Nat) : State :=
  let k := Store.get 0 s.act.barriers key.1 + 1
  let mine (b : Barrier) : Bool :=
    decide (b.scope = key.1) && decide (b.key = key.2.1) && decide (b.quad = key.2.2) && decide (b.inst = k) && b.full.isNone
  let me := (s.cur, s.act.cid)
  let known := s.dist.barriers.filter mine
  let id := match known with
    | b :: _ => b.id
    | [] => s.dist.nextBarrier
  let s1 := s.onDist fun d => match known with
    | _ :: _ => { d with barriers := d.barriers.map fun b => if mine b then { b with arrived := b.arrived ++ [me] } else b }
    | [] =>
      let b : Barrier :=
        { id := id, scope := key.1, key := key.2.1, quad := key.2.2, inst := k,
          members := (s.members key).map fun e => (e.1, e.2.cid), arrived := [me], full := none }
      { d with barriers := d.barriers ++ [b], nextBarrier := d.nextBarrier + 1 }
  let s2 := s1.onAct fun x => { x with barriers := Store.insert x.barriers key.1 k }
  (s2.onIss fun i => { i with waits := i.waits ++ [.barrier id] }).checkBarriers

end Sys2Proof.Machine
end

