-- ==== Sys2Proof/Machine/Vector.lean ====
section
/-! DEFINITION. How a vector operation executes (R43, R152 to R156): elements, guards, the floating-point unit of a slot,
and the shared forms of the elementwise instructions. -/

namespace Sys2Proof.Machine

/-! ## Elements (R23, R43) -/

/-- The elements of width w of a cluster's sixteen lanes, element 0 of lane 0 first; FP64 elements are lane pairs. -/
def elems (w : Nat) (lanes : List Word) : List Nat :=
  if w = 64 then (List.range 8).map fun j => (nth0 lanes (2 * j)).toNat + 2 ^ 32 * (nth0 lanes (2 * j + 1)).toNat
  else (lanes16.map fun l => (List.range (32 / w)).map fun k => field (nth0 lanes l).toNat (w * k) w).flatten

/-- The lanes that hold a list of elements of width w. -/
def unelems (w : Nat) (l : List Nat) : List Word :=
  if w = 64 then lanes16.map fun i => BitVec.ofNat 32 (l.getD (i / 2) 0 / 2 ^ (32 * (i % 2)))
  else lanes16.map fun i => BitVec.ofNat 32 (ofWords w ((List.range (32 / w)).map fun k => l.getD (32 / w * i + k) 0))

/-- The lane whose guard bit guards element k. -/
def elemLane (w k : Nat) : Nat := if w = 64 then 2 * k else k / (32 / w)

/-- Guard bits taken lane pair by lane pair: bit 2j for both lanes (R23). -/
def pairGuard (on : List Bool) : List Bool := lanes16.map fun l => on.getD (2 * (l / 2)) false

/-- The guard bits of a cluster for a vector slot, by lane pair where it works on FP64. -/
def State.guardOf (s : State) (o : VOp) (pair : Bool) (cl : Nat) : List Bool :=
  let on := s.act.regs.guardLanes o.gp.toNat o.gs cl
  if pair then pairGuard on else on

/-- The clusters of a vector slot. -/
def clustersOf (o : VOp) : List Nat := maskClusters o.mask.toNat

/-- The flags of the guarded elements of a cluster (R55). -/
def guardedFlags (w : Nat) (on : List Bool) (l : List (Nat × FFlags)) : FFlags :=
  (l.foldl (fun (m : Nat × FFlags) (r : Nat × FFlags) =>
    (m.1 + 1, if on.getD (elemLane w m.1) false then m.2.or r.2 else m.2)) (0, FFlags.none)).2

/-- An operation on the elements of three sources. -/
def map3 (f : Nat → Nat → Nat → Nat × FFlags) (w : Nat) (a b d : List Word) : List (Nat × FFlags) :=
  let ea := elems w a
  let eb := elems w b
  let ed := elems w d
  (List.range ea.length).map fun k => f (ea.getD k 0) (eb.getD k 0) (ed.getD k 0)

/-! ## The slot (R81, R152, R154, R156) -/

/-- The named operands of a vector slot, each with the lowest bit of its field: source 1, source 2 where KIND is 0,
the destination. -/
def namesOf (o : VOp) (src1 src2 dst : Bool) : List (Nat × Nat) :=
  (if src1 then [(o.src1.toNat, 22)] else []) ++ (if src2 && decide (o.kind = 0#2) then [(o.src2.toNat, 12)] else []) ++
    (if dst then [(o.dst.toNat, 32)] else [])

/-- A vector slot: its issue-time checks whatever its guard (R24, R28), and its operation unless its guard is false for
the slot as a whole (R81). -/
def vectorSlot (o : VOp) (names : List (Nat × Nat)) (body : State → State) (s : State) : Out :=
  let s1 := s.checkNames o.slotOf (firstCluster o.mask.toNat) names
  .next (s.unlessTrapped s1 fun s => if neverGuard o.gp.toNat o.gs then s else body s)

/-- The floating-point unit of a slot (R156): a schedule fault in the cycle after a .f64 form; a .f64 form holds it. -/
def State.useFpu (s : State) (slot : Slot) (f64 : Bool) : State :=
  let s1 := if s.act.fpuHold.any fun h => decide (h.1 = slot) && decide (h.2 = s.cycle) then s.raise 6 slot 0 0 else s
  if f64 then s1.onAct fun x => { x with fpuHold := x.fpuHold ++ [(slot, s.cycle + 1)] } else s1

/-- A slot that runs in the floating-point unit. -/
def fpuSlot (o : VOp) (f64 : Bool) (names : List (Nat × Nat)) (body : State → State) (s : State) : Out :=
  let s1 := s.useFpu o.slotOf f64
  let s2 := s1.checkNames o.slotOf (firstCluster o.mask.toNat) names
  .next (s.unlessTrapped s2 fun s => if neverGuard o.gp.toNat o.gs then s else body s)

/-- Is a lane guard true anywhere in the mask? -/
def State.anyLane (s : State) (o : VOp) (pair : Bool) : Bool :=
  (clustersOf o).any fun cl => (s.guardOf o pair cl).any id

/-- A vector result with its flags: a flag-pending operation is one with a true lane guard (R55, R229). -/
def State.writeFloat (s : State) (o : VOp) (latency : Nat) (pair : Bool) (res : List (Nat × List Word))
    (flags : List (Nat × FFlags)) : State :=
  let due := s.cycle + latency
  let s1 := s.writeVector o.slotOf 32 o.dst.toNat due (slotBypass o.slotOf) (s.guardOf o pair) res
  if s.anyLane o pair then s1.landFlags o.slotOf due flags else s1

/-- The sources of an elementwise operation, cluster by cluster: source 1, source 2, the old destination. -/
def State.sources (s : State) (o : VOp) (unary addend : Bool) :
    List (Nat × List Word × List Word × List Word) × State :=
  let cls := clustersOf o
  let r1 := s.readField o.slotOf 22 o.src1.toNat cls
  let r2 := if unary then ([], r1.2) else r1.2.readSrc2 o cls
  let old (cl : Nat) : List Word := if addend then s.act.regs.readV cl o.dst.toNat else zeroLanes
  (cls.map fun cl => (cl, clLanes r1.1 cl, clLanes r2.1 cl, old cl), r2.2)

/-- An integer operation, element by element (R157, R158). -/
def State.integerOp (s : State) (o : VOp) (latency : Nat) (unary addend : Bool) (f : Nat → Nat → Nat → Nat) : State :=
  let w := width o.type.toNat
  let r := s.sources o unary addend
  let vals := r.1.map fun e =>
    (e.1, unelems w ((map3 (fun a b d => (f a b d, FFlags.none)) w e.2.1 e.2.2.1 e.2.2.2).map fun x => x.1))
  r.2.writeVector o.slotOf 32 o.dst.toNat (s.cycle + latency) (slotBypass o.slotOf) (s.guardOf o false) vals

/-- An integer instruction. -/
def integerSlot (o : VOp) (latency : Nat) (unary addend : Bool) (f : Nat → Nat → Nat → Nat) (s : State) : Out :=
  vectorSlot o (namesOf o true (!unary) true) (fun s => s.integerOp o latency unary addend f) s

/-- A floating-point operation, element by element (R160 to R162). -/
def State.floatOp (s : State) (o : VOp) (latency : Nat) (unary addend : Bool) (f : Nat → Nat → Nat → Nat × FFlags) :
    State :=
  let w := width o.type.toNat
  let pair := decide (w = 64)
  let r := s.sources o unary addend
  let res := r.1.map fun e => (e.1, map3 f w e.2.1 e.2.2.1 e.2.2.2)
  r.2.writeFloat o latency pair (res.map fun e => (e.1, unelems w (e.2.map fun x => x.1)))
    (res.map fun e => (e.1, guardedFlags w (s.guardOf o pair e.1) e.2))

/-- A floating-point instruction with its latencies for .bf and .f32, and for .f64. -/
def floatSlot (o : VOp) (latency latency64 : Nat) (unary addend : Bool) (f : Nat → Nat → Nat → Nat × FFlags)
    (s : State) : Out :=
  let f64 := decide (o.type = 10#4)
  fpuSlot o f64 (namesOf o true (!unary) true)
    (fun s => s.floatOp o (if f64 then latency64 else latency) unary addend f) s

/-- The control value of an instruction (R153): one that stands for nothing, from a register, raises an
illegal-operand fault. -/
def withControl (s : State) (o : VOp) (ok : Nat → Bool) (body : Nat → State → State) : State :=
  let c := s.control o
  if ok c then body c s else s.illegal o.slotOf (firstCluster o.mask.toNat) 12

end Sys2Proof.Machine
end

