-- ==== Sys2Proof/Machine/VectorMove.lean ====
section
/-! DEFINITION. Immediates, data movement, the reduction tree and matrix register access from the vector slots (R60,
R61, R167 to R173). -/

namespace Sys2Proof.Machine

/-! ## Immediates and movement (R167 to R169) -/

/-- A movement instruction of latency 2: its lanes by cluster, from source 1. -/
def moveSlot (o : VOp) (src1 : Bool) (f : Nat → List Word → List Word) (s : State) : Out :=
  vectorSlot o (namesOf o src1 false true) (fun s =>
    let pair := decide (o.type = 10#4)
    let cls := clustersOf o
    let r := if src1 then s.readField o.slotOf 22 o.src1.toNat cls else ([], s)
    r.2.writeVector o.slotOf 32 o.dst.toNat (s.cycle + 2) (slotBypass o.slotOf) (s.guardOf o pair)
      (cls.map fun cl => (cl, f cl (clLanes r.1 cl)))) s

/-- A movement instruction with a control value. -/
def moveControl (o : VOp) (src1 : Bool) (ok : Nat → Bool) (f : Nat → Nat → List Word → List Word) (s : State) : Out :=
  let c := s.control o
  if ok c then moveSlot o src1 (f c) s
  else vectorSlot o (namesOf o src1 false true) (fun s => s.illegal o.slotOf (firstCluster o.mask.toNat) 12) s

/-- The lanes VIMM writes (R167). -/
def immLanes (t e : Nat) : List Word :=
  match t with
  | 9 => lanes16.map fun _ => BitVec.ofNat 32 (e * 2 ^ 12)
  | 10 => lanes16.map fun l => if l % 2 = 0 then 0#32 else BitVec.ofNat 32 (e * 2 ^ 12)
  | t => broadcast (width t) (wrapN (toSigned e 20) (width t))

/-- VIMM (R167). -/
def execVimm (o : VOp) (s : State) : Out :=
  moveSlot o false (fun _ _ => immLanes o.type.toNat (o.src1.toNat * 1024 + o.src2.toNat)) s

/-- VMOV (R168). -/
def execVmov (o : VOp) (s : State) : Out := moveSlot o true (fun _ a => a) s

/-- VBCAST (R168): one lane, or the pair (n, n + 1) for .f64. -/
def execVbcast (o : VOp) (s : State) : Out :=
  moveControl o true (controlOk (.vbcast o)) (fun c _ a =>
    let n := c % 16
    lanes16.map fun l => if o.type = 10#4 then nth0 a (n + l % 2) else nth0 a n) s

/-- VMOVS (R168): sN, or the signed immediate. -/
def execVmovs (o : VOp) (s : State) : Out :=
  let x := if o.kind = 1#2 then s.act.regs.readS (o.src2.toNat % 64) else o.src2.signExtend 32
  moveSlot o false (fun _ _ => lanes16.map fun _ => x) s

/-- The source lane of VSHUF (R168): ROT, XOR, REV, UNZIP, ZIP. -/
def shuffleLane (pattern n l : Nat) : Nat :=
  match pattern with
  | 0 => (l + n) % 16
  | 1 => l ^^^ n
  | 2 => 15 - l
  | 3 => if l < 8 then 2 * l % 16 else 2 * (l - 8) + 1
  | _ => l / 2 + 8 * (l % 2)

/-- VSHUF (R168). -/
def execVshuf (o : VOp) (s : State) : Out :=
  moveControl o true (controlOk (.vshuf o)) (fun c _ a => lanes16.map fun l => nth0 a (shuffleLane (c / 16) (c % 16) l)) s

/-- VLANE (R168). -/
def execVlane (o : VOp) (s : State) : Out :=
  moveControl o false (controlOk (.vlane o)) (fun c cl _ => lanes16.map fun l =>
    BitVec.ofNat 32 (match c with
      | 0 => l
      | 1 => cl
      | _ => 16 * cl + l)) s

/-- The source cluster of VXCL (R169). -/
def sourceCluster (c cl : Nat) : Nat := if bitOf c 3 then cl ^^^ (c % 8) else (cl + c % 8) % 8

/-- VXCL (R169): the register of another cluster, masked or not; latency 6, and bx3. -/
def execVxcl (o : VOp) (s : State) : Out :=
  vectorSlot o (namesOf o true false true) (fun s =>
    withControl s o (controlOk (.vxcl o)) fun c s =>
      s.writeVector o.slotOf 32 o.dst.toNat (s.cycle + 6) 3 (s.guardOf o false)
        ((clustersOf o).map fun cl => (cl, s.act.regs.readV (sourceCluster c cl) o.src1.toNat))) s

/-! ## The reduction tree (R60, R61, R170, R171) -/

/-- One addition of the tree: RNE, or wrapping for .i32. -/
def treeAdd (t a b : Nat) : Nat × FFlags :=
  if t = 4 then ((a + b) % 2 ^ 32, FFlags.none) else fAdd t 0 a b

/-- A node with an absent child passes the other unchanged. -/
def treeNode (t : Nat) (a b : Option (Nat × FFlags)) : Option (Nat × FFlags) :=
  match a, b with
  | some x, some y =>
    let r := treeAdd t x.1 y.1
    some (r.1, (x.2.or y.2).or r.2)
  | some x, none => some x
  | none, y => y

/-- One level of the balanced tree. -/
def treeLevel (t : Nat) : List (Option (Nat × FFlags)) → List (Option (Nat × FFlags))
  | a :: b :: l => treeNode t a b :: treeLevel t l
  | l => l

/-- The root of a balanced tree of at most `2^n` values. -/
def treeRoot (t : Nat) : Nat → List (Option (Nat × FFlags)) → Option (Nat × FFlags)
  | 0, l => (l.head?).join
  | n + 1, l => treeRoot t n (treeLevel t l)

/-- The value a latch lane holds, or a lane pair for .f64. -/
def Latch.value (k : Latch) (pair : Bool) (e : Nat) : Option Nat :=
  if pair then match lookup k.lanes (2 * e), lookup k.lanes (2 * e + 1) with
    | some a, some b => some (a.toNat + 2 ^ 32 * b.toNat)
    | _, _ => none
  else (lookup k.lanes e).map fun x => x.toNat

/-- A latch lane, or lane pair, set. -/
def Latch.put (k : Latch) (pair : Bool) (e x : Nat) : Latch :=
  let low := Store.insert k.lanes (if pair then 2 * e else e) (BitVec.ofNat 32 x)
  { k with lanes := if pair then Store.insert low (2 * e + 1) (BitVec.ofNat 32 (x / 2 ^ 32)) else low }

/-- The cluster values of element e combined, absent where the cluster is outside the mask or the guard is false. -/
def State.clusterTree (s : State) (o : VOp) (pair : Bool) (src : List (Nat × List Word)) (e : Nat) :
    Option (Nat × FFlags) :=
  let w := if pair then 64 else 32
  treeRoot o.type.toNat 3 (clusters8.map fun cl =>
    if bitOf o.mask.toNat cl && (s.guardOf o pair cl).getD (elemLane w e) false then
      some ((elems w (clLanes src cl)).getD e 0, FFlags.none) else none)

/-- A tree result added into a latch lane (R60). -/
def Latch.addTree (k : Latch) (t : Nat) (pair : Bool) (e : Nat) (r : Option (Nat × FFlags)) : Latch × FFlags :=
  match r with
  | none => (k, FFlags.none)
  | some x => match k.value pair e with
    | none => (k.put pair e x.1, x.2)
    | some old =>
      let z := treeAdd t old x.1
      (k.put pair e z.1, x.2.or z.2)

/-- A latch of another type raises an illegal-operand fault (R61). -/
def Latch.typeBad (k : Latch) (t : Nat) : Bool := decide (k.type ≠ 0) && decide (k.type ≠ t)

/-- The flags of a tree operation, to the lowest-numbered cluster of the mask; .f32 and .f64 are flag-pending. -/
def State.landTree (s : State) (o : VOp) (due : Nat) (pair : Bool) (f : FFlags) : State :=
  if o.type = 4#4 || !s.anyLane o pair then s else s.landFlags o.slotOf due [(firstCluster o.mask.toNat, f)]

/-- VRED (R60, R170, R171): operations on one latch take effect in issue order. -/
def execVred (o : VOp) (s : State) : Out :=
  let t := o.type.toNat
  let n := o.dst.toNat % 4
  let pair := decide (t = 10)
  vectorSlot o (namesOf o true false false) (fun s =>
    let k := Store.get Latch.empty s.act.regs.ps n
    if k.typeBad t then s.illegal o.slotOf (firstCluster o.mask.toNat) 32
    else
      let r := s.readField o.slotOf 22 o.src1.toNat (clustersOf o)
      let z := (List.range (if pair then 8 else 16)).foldl (fun (m : Latch × FFlags) e =>
        let a := m.1.addTree t pair e (s.clusterTree o pair r.1 e)
        (a.1, m.2.or a.2)) ({ k with type := t }, FFlags.none)
      let s1 := r.2.onAct fun x => { x with regs := { x.regs with ps := Store.set Latch.empty x.regs.ps n z.1 } }
      s1.landTree o (s.cycle + 5) pair z.2) s

/-- RDRAIN (R61, R170, R171): with no true lane guard it does nothing. -/
def execRdrain (o : VOp) (s : State) : Out :=
  let t := o.type.toNat
  let n := o.src1.toNat % 4
  let pair := decide (t = 10)
  vectorSlot o (namesOf o false false true) (fun s =>
    let k := Store.get Latch.empty s.act.regs.ps n
    if k.typeBad t then s.illegal o.slotOf (firstCluster o.mask.toNat) 22
    else if !s.anyLane o pair then s
    else
      let count := if pair then 8 else 16
      let z := (treeRoot t 4 ((List.range count).map fun e => (k.value pair e).map fun x => (x, FFlags.none))).getD
        (0, FFlags.none)
      let w := if pair then 64 else 32
      let lanes := unelems w ((List.range count).map fun _ => z.1)
      let s1 := s.onAct fun x => { x with regs := { x.regs with ps := Store.set Latch.empty x.regs.ps n Latch.empty } }
      let s2 := s1.writeVector o.slotOf 32 o.dst.toNat (s.cycle + 10) 4 (s.guardOf o pair)
        ((clustersOf o).map fun cl => (cl, lanes))
      s2.landTree o (s.cycle + 10) pair z.2) s

/-! ## Matrix register access (R172, R173, R207) -/

/-- Is a matrix register in use by the engine for an access (R173): an accumulator, an A register or a drain's
destination during the beats; for a write also a drain's accumulator? -/
def MxUse.blocks (u : MxUse) (cycle reg : Nat) (write : Bool) : Bool :=
  u.regs.contains reg && decide (cycle ≤ u.last) && (decide (u.kind ≠ 2) || write)

/-- Are the sums of an accumulator not yet final for slots (R207)? -/
def MxUse.filling (u : MxUse) (cycle reg : Nat) : Bool :=
  u.regs.contains reg && decide (u.kind = 0) && decide (u.last < cycle) && decide (cycle < u.final)

/-- A slot access to a matrix register: a schedule fault while the engine uses it (R173), a stall while its sums are
not final (R207). -/
def State.useMatrix (s : State) (slot : Slot) (reg : Nat) (write : Bool) : State :=
  let uses := s.here.mx.uses ++ s.here.iss.uses
  if uses.any fun u => u.blocks s.cycle reg write then s.raise 6 slot 0 0
  else if uses.any fun u => u.filling s.cycle reg then s.hold
  else s

/-- The index k of VMRD and VMWR (R172). -/
def State.matrixIndex (s : State) (o : VOp) : Nat :=
  if o.kind = 1#2 then (s.act.regs.readS (o.src2.toNat % 64)).toNat % 64 else o.src2.toNat % 64

/-- The register number of a matrix operand field. -/
def fieldReg (x : Nat) : Nat := x % 32

/-- The direction of a matrix operand field. -/
def fieldDir (x : Nat) : Nat := x / 256

/-- A vector slot with a matrix operand: its checks whatever its guard, and its operation. -/
def matrixSlot (o : VOp) (reg bit : Nat) (write : Bool) (names : List (Nat × Nat)) (body : State → State) (s : State) : Out :=
  vectorSlot o names (fun s =>
    let s1 := s.useMatrix o.slotOf reg write
    s.unlessTrapped s1 body) (s.checkMatrix o.slotOf bit reg)

/-- VMRD (R172): cluster c reads elements 16(c mod 4) + l; latency 4, and bx5. -/
def execVmrd (o : VOp) (s : State) : Out :=
  let f := o.src1.toNat
  matrixSlot o (fieldReg f) 22 false (namesOf o false false true) (fun s =>
    let all := s.act.regs.readMDir (fieldReg f) (fieldDir f) (s.matrixIndex o)
    s.writeVector o.slotOf 32 o.dst.toNat (s.cycle + 4) 5 (s.guardOf o false)
      ((clustersOf o).map fun cl => (cl, lanes16.map fun l => nth0 all (16 * (cl % 4) + l)))) s

/-- VMWR (R172): latency 2; elements handled by clusters outside the mask are unchanged. -/
def execVmwr (o : VOp) (s : State) : Out :=
  let f := o.dst.toNat
  matrixSlot o (fieldReg f) 32 true (namesOf o true false false) (fun s =>
    let k := s.matrixIndex o
    let r := s.readField o.slotOf 22 o.src1.toNat (clustersOf o)
    let cells := ((clustersOf o).map fun cl =>
      let on := s.guardOf o false cl
      lanes16.filterMap fun l =>
        let e := mElem (fieldDir f) k (16 * (cl % 4) + l)
        if on.getD l false then some (mKey (fieldReg f) e.1 e.2, nth0 (clLanes r.1 cl) l) else none).flatten
    r.2.land o.slotOf (s.cycle + 2) (.m cells)) s

end Sys2Proof.Machine
end

