-- ==== Sys2Proof/Machine/MemorySlot.lean ====
section
/-! DEFINITION. The memory slot: loads, stores, gathers, scatters, transposing and matrix transfers, AMO, FENCE (R174 to
R186). -/

namespace Sys2Proof.Machine

/-- An M slot: the names it gives, checked whatever its guard, and its operation unless the guard is false for the slot
as a whole (R81, R174). -/
def memorySlot (h : MHead) (names : List (Nat × Nat)) (body : State → State) (s : State) : Out :=
  let s1 := s.checkNames .m (firstCluster h.mask.toNat) names
  .next (s.unlessTrapped s1 fun s => if h.never s.act.regs then s else body s)

/-- The lane guards of a cluster of an M slot (R81, R180). -/
def State.memLanes (s : State) (h : MHead) (cl : Nat) : List Bool := lanes16.map fun l => h.lane s.act.regs cl l

/-- Numbers without repeats, in the order of their first appearance. -/
def distinct : List Nat → List Nat
  | [] => []
  | x :: l => x :: (distinct l).filter fun y => decide (y ≠ x)

/-- The rows of several accesses of `n` bytes, in order (R175). -/
def rowsOfAll (n : Nat) (l : List Nat) : List Nat := distinct ((l.map fun a => rowsOf a n).flatten)

/-- A load's value is readable by a cycle (R186). -/
def State.loadBy (s : State) (c : Nat) : State := s.onAct fun x => { x with loadAt := max x.loadAt c }

/-- The lanes of a loaded value as a stream takes them: the false lanes of an LDV push zero (R154, R180). -/
def zeroFalse (on : List Bool) (lanes : List Word) : List Word := guardedLanes on lanes

/-! ## Vector and scalar loads and stores (R180) -/

/-- Does the extent of a vector access break R174: 64 bytes for each masked cluster? -/
def State.badVector (s : State) (ea : Nat) (cls : List Nat) : Bool :=
  decide (ea % 64 ≠ 0) || cls.any fun c => !(s.act.inWindow (ea + 64 * c) 64)

/-- LDV. -/
def execLdv (o : MvOp) (s : State) : Out :=
  memorySlot o.head [(o.v.toNat, 32)] (fun s =>
    let off := signedOffset o.off
    let ea := effective (s.act.regs.readA o.base.toNat) off o.pi
    let cls := maskClusters o.head.mask.toNat
    if s.badVector ea cls then s.rangeFault .m ea
    else
      let at_ (c : Nat) : Nat := s.act.poolAddr (ea + 64 * c)
      let vals := cls.map fun c => (c, zeroFalse (s.memLanes o.head c) (s.readElem 0 (at_ c) 0))
      let s1 := s.access (rowsOfAll 64 (cls.map at_)) false 0
      ((s1.writeVector .m 32 o.v.toNat (s.cycle + 5) 2 (s.memLanes o.head) vals).postIncrement o.base.toNat off o.pi).loadBy
        (s.cycle + 5)) s

/-- STV. -/
def execStv (o : MvOp) (s : State) : Out :=
  memorySlot o.head [(o.v.toNat, 32)] (fun s =>
    let off := signedOffset o.off
    let ea := effective (s.act.regs.readA o.base.toNat) off o.pi
    let cls := maskClusters o.head.mask.toNat
    if s.badVector ea cls then s.rangeFault .m ea
    else
      let at_ (c : Nat) : Nat := s.act.poolAddr (ea + 64 * c)
      let r := s.readField .m 32 o.v.toNat cls
      let cells := (cls.map fun c => (lanes16.map fun l =>
        if (s.memLanes o.head c).getD l false then wordCells (at_ c + 4 * l) (nth0 (clLanes r.1 c) l) else []).flatten).flatten
      ((r.2.access (rowsOfAll 64 (cls.map at_)) true 0).storeCells cells).postIncrement o.base.toNat off o.pi) s

/-- Bytes of an element of a type. -/
def typeBytes (t : Nat) : Nat := width t / 8

/-- The value of `n` bytes extended to 32 bits by the signedness of the type (R180, R181). -/
def extend (t x : Nat) : Word := BitVec.ofInt 32 (intVal t x)

/-- LDS. -/
def execLds (o : MsOp) (s : State) : Out :=
  memorySlot o.head [] (fun s =>
    let off := signedOffset o.off
    let ea := effective (s.act.regs.readA o.base.toNat) off o.pi
    let n := typeBytes o.type.toNat
    if s.act.badAccess ea n n then s.rangeFault .m ea
    else
      let a := s.act.poolAddr ea
      let x := extend o.type.toNat (ofBytes (s.slotBytes a n))
      (((s.access (rowsOf a n) false 0).landS .m 5 o.s.toNat x).postIncrement o.base.toNat off o.pi).loadBy (s.cycle + 5)) s

/-- STS. -/
def execSts (o : MsOp) (s : State) : Out :=
  memorySlot o.head [] (fun s =>
    let off := signedOffset o.off
    let ea := effective (s.act.regs.readA o.base.toNat) off o.pi
    let n := typeBytes o.type.toNat
    if s.act.badAccess ea n n then s.rangeFault .m ea
    else
      let a := s.act.poolAddr ea
      let cells := cellsAt a (toBytes (s.act.regs.readS o.s.toNat).toNat n)
      ((s.access (rowsOf a n) true 0).storeCells cells).postIncrement o.base.toNat off o.pi) s

/-! ## Gathers and scatters (R181, R182) -/

/-- The address of each lane: (aN + index × w/8) mod 2^32, with its guard, by cluster and lane. -/
def State.gather (s : State) (o : MxOp) (idx : List (Nat × List Word)) : List (Nat × Nat × Nat × Bool) :=
  let base := (s.act.regs.readA o.base.toNat).toNat
  let n := typeBytes o.type.toNat
  ((maskClusters o.head.mask.toNat).map fun c => lanes16.map fun l =>
    (c, l, (base + (nth0 (clLanes idx c) l).toNat * n) % 2 ^ 32, (s.memLanes o.head c).getD l false)).flatten

/-- The first lane of true guard whose address breaks R181. -/
def State.badGather (s : State) (n : Nat) (l : List (Nat × Nat × Nat × Bool)) : Option Nat :=
  firstSome (fun e => if e.2.2.2 && s.act.badAccess e.2.2.1 n n then some e.2.2.1 else none) l

/-- What each lane of an LDX delivers: the value at its address; a lane of false guard whose address is not legal, which
only a stream takes (R154), delivers a free value (log 8). -/
def State.gatherValue (s : State) (o : MxOp) (e : Nat × Nat × Nat × Bool) : Word :=
  let n := typeBytes o.type.toNat
  if s.act.badAccess e.2.2.1 n n then BitVec.ofNat 32 (Config.freeNat (s.free + 16 * e.1 + e.2.1))
  else extend o.type.toNat (ofBytes (s.slotBytes (s.act.poolAddr e.2.2.1) n))

/-- LDX. -/
def execLdx (o : MxOp) (s : State) : Out :=
  memorySlot o.head [(o.index.toNat, 22), (o.data.toNat, 32)] (fun s =>
    let n := typeBytes o.type.toNat
    let cls := maskClusters o.head.mask.toNat
    let r := s.readField .m 22 o.index.toNat cls
    let lanes := s.gather o r.1
    match s.badGather n lanes with
    | some a => s.rangeFault .m a
    | none =>
      let live := lanes.filter fun e => e.2.2.2 || (decide (768 ≤ o.data.toNat) && !(s.act.badAccess e.2.2.1 n n))
      let rows := distinct (live.map fun e => rowOf (s.act.poolAddr e.2.2.1))
      let vals := cls.map fun c => (c, (lanes.filter fun e => decide (e.1 = c)).map fun e => s.gatherValue o e)
      let s1 := { r.2.access rows false 0 with free := s.free + 128 }
      (s1.writeVector .m 32 o.data.toNat (s.cycle + 5) 2 (s.memLanes o.head) vals).loadBy (s.cycle + 5)) s

/-- STX: of several lanes that reach one byte, the last in the order of cluster, then lane, stands. -/
def execStx (o : MxOp) (s : State) : Out :=
  memorySlot o.head [(o.index.toNat, 22), (o.data.toNat, 32)] (fun s =>
    let n := typeBytes o.type.toNat
    let cls := maskClusters o.head.mask.toNat
    let r := s.readField .m 22 o.index.toNat cls
    let lanes := s.gather o r.1
    match s.badGather n lanes with
    | some a => s.rangeFault .m a
    | none =>
      let d := r.2.readField .m 32 o.data.toNat cls
      let live := lanes.filter fun e => e.2.2.2
      let rows := distinct (live.map fun e => rowOf (s.act.poolAddr e.2.2.1))
      let cells := (live.map fun e =>
        cellsAt (s.act.poolAddr e.2.2.1) (toBytes (nth0 (clLanes d.1 e.1) e.2.1).toNat n)).flatten
      (d.2.access rows true 0).storeCells cells) s

/-! ## Transposing transfers (R183) -/

/-- Does a transposed field break the limits of R183 or the window? -/
def State.badField (s : State) (ea w : Nat) : Bool :=
  let col0 := ea % 128 * 8
  let row0 := ea % 32768 / 128
  decide (col0 % 128 ≠ 0) || decide (1024 < col0 + 128 * (32 / w)) || decide (256 < row0 + w) || !(s.act.inWindow ea 1)

/-- The 512-byte rows that the w pane rows from a pool address lie in. -/
def paneRows (p w : Nat) : List Nat := distinct ((List.range w).map fun b => rowOf (p + 128 * b))

/-- Where bit b of each element of a transposed field lies: key and bit of the lane, pool address, bit of the byte. -/
def fieldBits (r : Regs) (p w b : Nat) (reg : Option Nat) (lanes : List (Nat × Nat)) : List (Nat × Nat × Nat × Nat) :=
  (lanes.map fun e => (List.range (32 / w)).map fun j =>
    let k := (16 * e.1 + e.2) * (32 / w) + j
    (vKey e.1 (match reg with
      | some n => r.physical n
      | none => 0) e.2, w * j + b, p + 128 * b + k / 8, k % 8)).flatten

/-- The lanes of a mask that a condition picks. -/
def pickLanes (cls : List Nat) (f : Nat → Nat → Bool) : List (Nat × Nat) :=
  (cls.map fun c => (lanes16.filter fun l => f c l).map fun l => (c, l)).flatten

/-- The lanes of a transposed field read from rows `rows` as they stand. -/
def State.fieldLanes (s : State) (p w : Nat) (rows : List Nat) (c : Nat) : List Word :=
  lanes16.map fun l => BitVec.ofNat 32 (rows.foldl (fun x b => (List.range (32 / w)).foldl (fun x j =>
    let k := (16 * c + l) * (32 / w) + j
    x + b2n ((s.slotByte (p + 128 * b + k / 8)).getLsbD (k % 8)) * 2 ^ (w * j + b)) x) 0)

/-- The direct port of a bank is taken through a cycle (R183). -/
def State.reserve (s : State) (bank last : Nat) : State :=
  s.onHere fun c => { c with reserved := c.reserved ++ [(bank, s.cycle, last)] }

/-- The rows an LDT or STT seeks at its issue: the first, or on a busy bank every one (R183, R252). -/
def State.fieldRows (s : State) (p w : Nat) : List Nat :=
  if s.byQueue p then paneRows p w else (paneRows p w).take 1

/-- Does an element pushed to a stream register go to a pipe, which has no bytes that later row reads could complete? -/
def State.isPipe (s : State) (n : Nat) : Bool :=
  match s.act.binding (n - 768) with
  | some b => match b.src with
    | .pipe _ _ _ => true
    | _ => false
  | none => false

/-- The bytes of an element pushed by this bundle that bits of its lanes reach: byte address in the pool and bit. -/
def pushedBits (gate : List Gated) (seq : Nat) (cls : List Nat) (bits : List (Nat × Nat × Nat × Nat)) :
    List (Nat × Nat × Nat × Nat) :=
  let mine := (gate.filter fun g => decide (g.seq = seq) && decide (g.prio ≠ 0)).reverse.take cls.length
  let bases := cls.zip (mine.reverse.map fun g => (g.cells.map fun e => e.1))
  bits.filterMap fun t =>
    let c := t.1 / 16 / 768
    let byte := 4 * (t.1 % 16) + t.2.1 / 8
    match lookup bases c with
    | some l => (l[byte]?).map fun a => (a, t.2.1 % 8, t.2.2)
    | none => none

/-- LDT: rows row0 to row0 + w − 1 in cycles i to i + w − 1, the value readable from i + w + 4 (R183); on a busy bank
every row is served before the bundle issues (R252). -/
def execLdt (o : MvOp) (s : State) : Out :=
  memorySlot o.head [(o.v.toNat, 32)] (fun s =>
    let off := signedOffset o.off
    let ea := effective (s.act.regs.readA o.base.toNat) off o.pi
    let w := width o.type.toNat
    if s.badField ea w then s.rangeFault .m ea
    else
      let p := s.act.poolAddr ea
      let n := o.v.toNat
      let cls := maskClusters o.head.mask.toNat
      let now := if s.byQueue p || (decide (768 ≤ n) && s.isPipe n) then w else 1
      let due := s.cycle + w + 4
      let vals := cls.map fun c => (c, s.fieldLanes p w (List.range now) c)
      let s1 := (s.access (s.fieldRows p w) false 0).writeVector .m 32 n due 2 (s.memLanes o.head) vals
      let all := pickLanes cls fun c l => decide (768 ≤ n) || (s.memLanes o.head c).getD l false
      let later := (List.range (w - now)).map fun k => now + k
      let s2 := later.foldl (fun s' b =>
        let bits := fieldBits s.act.regs p w b (if n < 768 then some n else none) all
        let s3 := s'.land .m (s.cycle + b) (.ldtRow bits)
        if n < 768 then s3 else s3.land .m (s.cycle + b) (.ldtPush (pushedBits s3.act.gate s3.act.seq cls bits))) s1
      let s4 := if s.byQueue p then s2 else s2.reserve (bankOf p) (s.cycle + w - 1)
      (s4.postIncrement o.base.toNat off o.pi).loadBy due) s

/-- A byte and the mask of its bits that a list of bits gives: address, bit, value. -/
def gatherBits : List (Nat × Nat × Bool) → Store (Nat × Nat)
  | [] => []
  | (a, k, b) :: l =>
    let r := gatherBits l
    let e := Store.get (0, 0) r a
    Store.insert r a (e.1 + b2n b * 2 ^ k, e.2 + 2 ^ k)

/-- STT: row row0 + b is written in cycle i + 2 + b, one gate-buffer entry (R183); the columns of lanes of false guard
and of clusters outside the mask keep their bits. -/
def execStt (o : MvOp) (s : State) : Out :=
  memorySlot o.head [(o.v.toNat, 32)] (fun s =>
    let off := signedOffset o.off
    let ea := effective (s.act.regs.readA o.base.toNat) off o.pi
    let w := width o.type.toNat
    if s.badField ea w then s.rangeFault .m ea
    else
      let p := s.act.poolAddr ea
      let cls := maskClusters o.head.mask.toNat
      let busy := s.byQueue p
      let r := s.readField .m 32 o.v.toNat cls
      let lanes := pickLanes cls fun c l => (s.memLanes o.head c).getD l false
      let whole := if busy then s.cycle else s.cycle + w + 1
      let s1 := (List.range w).foldl (fun s' b =>
        let bits := (lanes.map fun e => (List.range (32 / w)).map fun j =>
          let k := (16 * e.1 + e.2) * (32 / w) + j
          (p + 128 * b + k / 8, k % 8, (nth0 (clLanes r.1 e.1) e.2).getLsbD (w * j + b))).flatten
        let t := if s.act.svc.put.contains (rowOf (p + 128 * b)) then [] else gatherBits bits
        s'.storeAt (if busy then s.cycle else s.cycle + 2 + b) whole (t.map fun e => (e.1, BitVec.ofNat 8 e.2.1))
          (t.map fun e => (e.1, BitVec.ofNat 8 e.2.2)) (decide (0 < b))) (r.2.access (s.fieldRows p w) true 0)
      let s2 := if busy then s1 else s1.reserve (bankOf p) (s.cycle + w - 1)
      s2.postIncrement o.base.toNat off o.pi) s

/-! ## Matrix-register transfers (R184) -/

/-- The index k of LDM and STM. -/
def State.mmIndex (s : State) (o : MmOp) : Nat :=
  if o.ki then (s.act.regs.readS o.k.toNat).toNat % 64 else o.k.toNat

/-- A matrix transfer: the register's bound whatever the guard, the engine's use of it, the 256 bytes at EA. -/
def matrixTransfer (o : MmOp) (write : Bool) (body : Nat → State → State) (s : State) : Out :=
  memorySlot o.head [] (fun s =>
    let s1 := s.useMatrix .m o.m.toNat write
    s.unlessTrapped s1 fun s =>
      let ea := effective (s.act.regs.readA o.base.toNat) (signedOffset o.off) false
      if s.act.badAccess ea 256 64 then s.rangeFault .m ea else body (s.act.poolAddr ea) s) (s.checkMatrix .m 37 o.m.toNat)

/-- LDM: the elements are seen from i + 5. -/
def execLdm (o : MmOp) (s : State) : Out :=
  matrixTransfer o true (fun a s =>
    let k := s.mmIndex o
    let cells := (List.range 64).map fun t =>
      let e := mElem o.dir.toNat k t
      (mKey o.m.toNat e.1 e.2, s.slotWord (a + 4 * t))
    ((s.access (rowsOf a 256) false 0).land .m (s.cycle + 5) (.m cells)).loadBy (s.cycle + 5)) s

/-- STM: the register is read at issue, the bytes are written in i + 2. -/
def execStm (o : MmOp) (s : State) : Out :=
  matrixTransfer o false (fun a s =>
    let l := s.act.regs.readMDir o.m.toNat o.dir.toNat (s.mmIndex o)
    let cells := ((List.range 64).map fun t => wordCells (a + 4 * t) (nth0 l t)).flatten
    (s.access (rowsOf a 256) true 0).storeCells cells) s

/-! ## AMO and FENCE (R185, R186) -/

/-- At pkg scope or wider the die's clock is merged into K of the core's scratchpad (R319, R320). -/
def State.mergePad (s : State) : State :=
  if 3 ≤ s.here.iss.scope then s.onHere fun c => { c with kpad := mergeMax c.kpad (s.clockOf (dieOf s.cur)) } else s

/-- An AMO at pkg scope or wider is a stamped write (R316, R320): numbered, with its number in K of the scratchpad. Its write
is in the bank in the cycle that R185 fixes, whatever the frontiers (log 115). -/
def State.amoClock (s : State) : State :=
  if s.here.iss.scope < 3 then s
  else
    let die := dieOf s.cur
    let v := s.clockOf die
    let r := State.numberWrite { s with nextWrite := s.nextWrite + 1 } die s.nextWrite true
    (r.2.closeWrite die s.nextWrite).onHere fun c => { c with kpad := mergeMax c.kpad (Store.set 0 v die r.1) }

/-- AMO: the word as it stands at the end of cycle i + 1, written in cycle i + 2; sD readable from i + 5. On a busy bank
its read and its write have taken place in its service cycle, and only sD is left (R252). -/
def execAmo (o : MaOp) (s : State) : Out :=
  memorySlot o.head [] (fun s =>
    let a := (s.act.regs.readA o.addr.toNat).toNat
    if s.act.badAccess a 4 4 then s.rangeFault .m a
    else
      let p := s.act.poolAddr a
      let x := s.act.regs.readS o.src.toNat
      let c := s.act.regs.readS o.cmp.toNat
      let s1 := s.access (rowsOf p 4) true 0
      let s2 := if s.act.svc.put.contains (rowOf p) then s1.landS .m 5 o.dst.toNat (s.slotWord p)
        else s1.land .m (s.cycle + 2) (.amo p o.aop.toNat x c o.dst.toNat)
      s2.amoClock.loadBy (s.cycle + 5)) s

/-- FENCE: the earliest cycle of the next bundle, by SET: 0 all, 1 loads, 2 stores. -/
def execFence (h : MHead) (set : BitVec 2) (s : State) : Out :=
  memorySlot h [] (fun s =>
    let s0 := s.mergePad
    let s1 := if set = 2#2 then s0 else s0.onIss fun i => { i with bound := max i.bound s.act.loadAt }
    if set = 1#2 then s1 else s1.onIss fun i => { i with waits := i.waits ++ [.stores s.act.seq] }) s

end Sys2Proof.Machine
end

