-- ==== Sys2Proof/Machine/TraceRecord.lean ====
section
/-! DEFINITION. What a traced block is recorded to have read and written (R357 to R360). -/

namespace Sys2Proof.Machine

/-- The handle of a trace (R353): slot and generation. -/
def Trace.handle (t : Trace) : Nat := t.slot + 64 * t.gen

/-- The live trace of a handle. -/
def State.trace (s : State) (h : Nat) : Option Trace := s.dist.traces.find? fun t => decide (t.handle = h)

/-- That trace changed. -/
def State.onTrace (s : State) (h : Nat) (f : Trace → Trace) : State :=
  s.onDist fun d => { d with traces := replaceFirst (fun t => decide (t.handle = h)) f d.traces }

/-- A record with nothing in it (R360). -/
def TraceRec.empty (blk : Nat) : TraceRec := ⟨blk, false, false, false, false, false, false, [], []⟩

/-- The record of a block. -/
def Trace.record (t : Trace) (blk : Nat) : TraceRec :=
  (t.recs.find? fun r => decide (r.blk = blk)).getD (TraceRec.empty blk)

/-- The record of a block changed. -/
def Trace.onRecord (t : Trace) (blk : Nat) (f : TraceRec → TraceRec) : Trace :=
  let others := t.recs.filter fun r => !decide (r.blk = blk)
  { t with recs := insertBy (fun r => r.blk) (f (t.record blk)) others }

/-- A task's record changed; nothing where its launch names no trace (handle 0). -/
def State.onRecord (s : State) (h blk : Nat) (f : TraceRec → TraceRec) : State :=
  if h = 0 then s else s.onTrace h fun t => t.onRecord blk f

/-- Runs that meet are joined (R358). -/
def joinRuns : List (Nat × Nat) → List (Nat × Nat)
  | [] => []
  | r :: l => match joinRuns l with
    | [] => [r]
    | k :: m => if k.1 ≤ r.1 + r.2 then (r.1, max (r.1 + r.2) (k.1 + k.2) - r.1) :: m else r :: k :: m

/-- A tile added to a set of at most 32 runs (R358): the set, and whether it overflowed. -/
def addTile (runs : List (Nat × Nat)) (tile : Nat) : List (Nat × Nat) × Bool :=
  let new := joinRuns (insertBy (fun (r : Nat × Nat) => r.1) (tile, 1) runs)
  if 32 < new.length then (runs, true) else (new, false)

/-- The tile of a virtual address: 16 KB (R351, R360). -/
def tileOf (va : Nat) : Nat := va / 16384

/-- A tile read by a block (R357, R358). -/
def State.noteRead (s : State) (h blk tile : Nat) : State :=
  s.onRecord h blk fun r =>
    let z := addTile r.reads tile
    { r with reads := z.1, rovf := r.rovf || z.2 }

/-- A tile written by a block (R357, R358). -/
def State.noteWrite (s : State) (h blk tile : Nat) : State :=
  s.onRecord h blk fun r =>
    let z := addTile r.writes tile
    { r with writes := z.1, wovf := r.wovf || z.2 }

/-- A read of host memory or of another package (R357, R359). -/
def State.noteExt (s : State) (h blk : Nat) : State := s.onRecord h blk fun r => { r with ext := true }

/-- An MMA, MMAS, facet or SSQ command of a context (R359): LOC, unless the trace has LOCAL = 1. -/
def State.noteLocal (s : State) (x : Ctx) : State :=
  match x.task with
  | none => s
  | some t => match s.trace t.trace with
    | none => s
    | some k => if k.isLocal then s else s.onRecord t.trace t.blk fun r => { r with loc := true }

end Sys2Proof.Machine
end

