-- ==== Sys2Proof/Machine/Package.lean ====
section
/-! DEFINITION. Memory outside the cores: homes, far-line copies and clocks (R308, R310, R313, R315, R316), replicated
pages (R321), channels (R348), address translation (R326 to R330, R336) and the watch filters (R354 to R356). -/

namespace Sys2Proof.Machine

/-! ## Addresses and channels -/

/-- The die whose stack holds an HBM address (R328). -/
def homeDie (a : Nat) : Nat := field a 36 4

/-- The 512-byte line of an HBM address (R315). -/
def lineOf (a : Nat) : Nat := a / 512

/-- The channels of a stack that have not been retired (R347, R348). -/
def State.liveChannels (s : State) (stack : Nat) : List Nat :=
  (List.range 32).filter fun c => !(Store.get 0#32 s.dist.retmap stack).getLsbD c

/-- Does an HBM address lie in a retired part of its stack or in a fenced channel (R346, R348)? -/
def State.fencedAt (s : State) (a : Nat) : Bool :=
  let live := s.liveChannels (homeDie a)
  let off := a % 2 ^ 36
  decide (live.length * 2 ^ 31 ≤ off) || s.dist.fenced.contains (homeDie a, live.getD (off / 256 % live.length) 0)

/-- The same for the 256-byte units of `n` bytes. -/
def State.fencedRange (s : State) (a n : Nat) : Bool :=
  !(s.dist.fenced.isEmpty && s.dist.retmap.isEmpty) &&
    (List.range ((n + 511) / 256)).any fun k => s.fencedAt (min (a + 256 * k) (a + n - 1))

/-- Have any of `n` bytes an uncorrectable error (R348)? -/
def State.badRange (s : State) (a n : Nat) : Bool :=
  s.dist.errors.any fun u => decide (256 * u < a + n) && decide (a < 256 * u + 256)

/-! ## Clocks (R316) -/

/-- Sixteen die numbers. -/
def dies16 : List Nat := List.range 16

/-- Do the published frontiers cover a clock (R316.4, R316.5)? -/
def State.covered (s : State) (v : Store Nat) : Bool :=
  dies16.all fun k => decide (Store.get 0 v k ≤ (s.die k).af)

/-- Has a write been applied at its home and at every copy that dies of a test read from? A delivery to a scratchpad has been
when its row is in the banks. -/
def State.appliedFor (s : State) (near : Nat → Bool) (id : Nat) : Bool :=
  !(s.dies.any fun e => e.2.incoming.any fun w => decide (w.id = id) && (w.home || near e.1)) &&
  !(s.reps.any fun w => decide (w.id = id)) && !(s.ops.any fun o => decide (o.stamp.map (fun t => t.1) = some id))

/-- Is a write visible at pkg scope (R310): applied at its home and at every copy? -/
def State.visible (s : State) (id : Nat) : Bool := s.appliedFor (fun _ => true) id

/-- Is a write visible at a scope of a die's agents (R309, R310): at the scopes within a die only its own copy counts? -/
def State.visibleAt (s : State) (scope die id : Nat) : Bool := s.appliedFor (fun d => decide (3 ≤ scope) || decide (d = die)) id

/-- The frontier of a die (R316.3). -/
def State.frontier (s : State) (d : Nat) : Nat :=
  belowAll ((s.die d).unseen.filter fun e => !s.visible e.2) (s.die d).sent

/-- FRONTIER_PUBLISH (R316.3). -/
def execFrontierPublish (die : Nat) (s : State) : Out :=
  if 16 ≤ die then .fault (.absent die)
  else .next (s.onDie die fun d =>
    { d with af := s.frontier die, unseen := d.unseen.filter fun e => !s.visible e.2 })

/-! ## The far-line buffers (R315) -/

/-- The far-line copy of a line in a die's buffer. -/
def Die.farLine (d : Die) (line : Nat) : Option (List Byte) := lookup d.far line

/-- One byte of HBM as a die reads it: its buffer's copy of a line of another die, or the home's (R315). -/
def State.deviceByte (s : State) (die a : Nat) : Byte :=
  if homeDie a = die then Memory.read s.hbm a
  else match (s.die die).farLine (lineOf a) with
    | some l => nth0 l (a % 512)
    | none => Memory.read s.hbm a

/-- `n` bytes as a die reads them. -/
def State.dieBytes (s : State) (die a n : Nat) : List Byte := (List.range n).map fun i => s.deviceByte die (a + i)

/-! ## Translation (R326 to R330) -/

/-- What a walk meets: a leaf, or a failing entry with its level and cause (0 invalid, 2 malformed). -/
inductive Walk where
  | leaf (l : Leaf) (level : Nat)
  | bad (level cause : Nat)
  deriving DecidableEq, Repr

/-- Address bits below an entry of a level (R327). -/
def levelBits (level : Nat) : Nat :=
  match level with
  | 3 => 42
  | 2 => 30
  | 1 => 21
  | _ => 16

/-- The index of an address at a level (R327). -/
def levelIndex (va level : Nat) : Nat :=
  match level with
  | 3 => field va 42 10
  | 2 => field va 30 12
  | 1 => field va 21 9
  | _ => field va 16 5

/-- The leaf an entry holds, none where it is malformed (R328). -/
def leafOf (e bits : Nat) : Option Leaf :=
  let kind := field e 8 4
  let rep := bitOf e 6
  let rmask := field e 48 16
  let pa := field e 16 32 * 65536
  let okZero := decide (field e 12 4 = 0) && !bitOf e 7 && decide (pa % 2 ^ bits = 0)
  let okKind := match kind with
    | 0 => decide (field e 40 8 = 0)
    | 1 => true
    | 2 => decide (field e 46 2 = 0)
    | _ => false
  let okRep := if rep then decide (kind = 0) && bitOf rmask (field pa 36 4) else decide (rmask = 0)
  if okZero && okKind && okRep then some ⟨pa, kind, bits, bitOf e 2, bitOf e 3, field e 4 2, rep, rmask⟩ else none

/-- The copy engine that translates for a core: QUAD div 2 (R330). -/
def engineOf (core : Nat) : Nat := core % 32 / 8

/-- The translator of host accesses on die 0 (R342). -/
def hostEngine : Nat := 4

/-- A die controller or the distributor: it walks the tables, and keeps nothing. -/
def noEngine : Nat := 5

/-- The eight-byte entry at a physical address, as a die's walker reads it (R315, R327, R330). -/
def State.entryAt (s : State) (die a : Nat) : Nat := ofBytes (s.dieBytes die a 8)

/-- The entry a walk uses for an address at a level (R330): of a cached entry and the table's the one or the other. -/
def State.entryFor (s : State) (die eng asid va level table : Nat) : Nat :=
  let now := s.entryAt die (table + 8 * levelIndex va level)
  let mine (e : TableEntry) : Bool :=
    decide (e.eng = eng) && decide (e.asid = asid) && decide (e.level = level) && decide (e.part = va / 2 ^ levelBits level)
  match (s.die die).tables.find? mine with
  | some e => if Config.keepsOld s.free (va / 65536) then e.entry else now
  | none => now

/-- A walk from a table down `level + 1` levels (R327, R328), with the non-leaf entries it meets: level, entry. -/
def State.walkFrom (s : State) (die eng asid va : Nat) : Nat → Nat → Walk × List (Nat × Nat)
  | table, 0 =>
    let e := s.entryFor die eng asid va 0 table
    if !bitOf e 0 then (.bad 0 0, [])
    else if !bitOf e 1 then (.bad 0 2, [])
    else match leafOf e 16 with
      | some l => (.leaf l 0, [])
      | none => (.bad 0 2, [])
  | table, n + 1 =>
    let level := n + 1
    let e := s.entryFor die eng asid va level table
    if !bitOf e 0 then (.bad level 0, [])
    else if bitOf e 1 then
      if level = 3 then (.bad level 2, [])
      else match leafOf e (levelBits level) with
        | some l => (.leaf l level, [])
        | none => (.bad level 2, [])
    else if field e 2 6 = 0 ∧ field e 40 24 = 0 then
      let r := State.walkFrom s die eng asid va (field e 8 32 * 256) n
      (r.1, (level, e) :: r.2)
    else (.bad level 2, [])

/-- The walk of an address in an address space (R326, R327). -/
def State.walkPath (s : State) (die eng asid va : Nat) : Walk × List (Nat × Nat) :=
  s.walkFrom die eng asid va (Store.get 0 s.roots asid) 3

/-- Its result. -/
def State.walk (s : State) (die eng asid va : Nat) : Walk := (s.walkPath die eng asid va).1

/-- The entry of an engine's TLB that covers an address (R330). -/
def Die.tlbEntry (d : Die) (eng asid va : Nat) : Option TlbEntry :=
  d.tlbs.find? fun e => decide (e.eng = eng) && decide (e.asid = asid) && decide (e.va ≤ va) &&
    decide (va < e.va + 2 ^ e.leaf.bits)

/-- Level of a leaf by its size (R327). -/
def Leaf.level (l : Leaf) : Nat := if l.bits = 30 then 2 else if l.bits = 21 then 1 else 0

/-- Does a leaf permit an access (R329)? -/
def Leaf.permits (l : Leaf) (write : Bool) : Bool := if write then l.w else l.r

/-- The physical address of a virtual one under a leaf. -/
def Leaf.translate (l : Leaf) (va : Nat) : Nat := l.base + va % 2 ^ l.bits

/-- Does an entry cover a part of `n` bytes from an address? -/
def TlbEntry.covers (e : TlbEntry) (asid va n : Nat) : Bool :=
  decide (e.asid = asid) && decide (e.va < va + n) && decide (va < e.va + 2 ^ e.leaf.bits)

/-- The list without the entry that a number picks among those of a test, where they fill their places. -/
def evict {α : Type} (mine : α → Bool) (places pick : Nat) (l : List α) : List α :=
  let n := (l.filter mine).length
  if n < places then l
  else (l.foldl (fun (e : Nat × List α) x =>
    if mine x then (e.1 + 1, if e.1 = pick % n then e.2 else e.2 ++ [x]) else (e.1, e.2 ++ [x])) (0, [])).2

/-- A leaf put into an engine's TLB of 4,096, in the place of what covered its page, or of an entry that is free (R330). -/
def State.install (s : State) (die eng asid va : Nat) (l : Leaf) : State :=
  let base := va - va % 2 ^ l.bits
  let mine (e : TlbEntry) : Bool := decide (e.eng = eng)
  let t := s.draw
  t.2.onDie die fun d =>
    let rest := d.tlbs.filter fun e => !(mine e && e.covers asid base (2 ^ l.bits))
    { d with tlbs := evict mine 4096 t.1 rest ++ [⟨eng, asid, base, l⟩] }

/-- The non-leaf entries of a walk put into an engine's walk cache of 256 (R330). -/
def State.installTables (s : State) (die eng asid va : Nat) (path : List (Nat × Nat)) : State :=
  path.foldl (fun s p =>
    let new : TableEntry := ⟨eng, asid, p.1, va / 2 ^ levelBits p.1, p.2⟩
    let mine (e : TableEntry) : Bool := decide (e.eng = eng)
    let same (e : TableEntry) : Bool := mine e && decide (e.asid = asid) && decide (e.level = p.1) && decide (e.part = new.part)
    let t := s.draw
    t.2.onDie die fun d => { d with tables := evict mine 256 t.1 (d.tables.filter fun e => !same e) ++ [new] }) s

/-- What an engine keeps of a walk: valid and well-formed entries alone (R330). -/
def State.keepWalk (s : State) (die eng asid va : Nat) : State :=
  let w := s.walkPath die eng asid va
  match w.1 with
  | .leaf l _ => (s.installTables die eng asid va w.2).install die eng asid va l
  | .bad _ _ => s.installTables die eng asid va w.2

/-- The leaf of an address, by an engine's TLB or by a walk that waits for nothing (R330, R332, R342): of an entry of the TLB
and the table's the one or the other. -/
def State.leafNow (s : State) (die eng asid va : Nat) : Option Leaf :=
  let new := match s.walk die eng asid va with
    | .leaf l _ => some l
    | .bad _ _ => none
  match (s.die die).tlbEntry eng asid va with
  | some e => if Config.keepsOld s.free (va / 65536) then some e.leaf else new
  | none => new

/-- The same for the controller of a die; none where the access is refused. -/
def State.translateNow (s : State) (die asid va : Nat) (write : Bool) : Option Leaf :=
  (s.leafNow die noEngine asid va).filter fun l => l.permits write

/-! ## Latency classes (R336) -/

/-- The geometric class of a stack seen from a die. -/
def geoClass (reader stack : Nat) : Nat :=
  let dr := max (reader / 4) (stack / 4) - min (reader / 4) (stack / 4)
  let dc := max (reader % 4) (stack % 4) - min (reader % 4) (stack % 4)
  if reader = stack then 1 else if dr + dc = 1 then 2 else 3

/-- The lowest stack of a replication mask. -/
def lowestStack (mask : Nat) : Nat := ((dies16.filter fun k => bitOf mask k).head?).getD 0

/-- The stack that serves a die's reads of a page (R321). -/
def Leaf.serving (l : Leaf) (die : Nat) : Nat :=
  if l.rep then (if bitOf l.rmask die then die else lowestStack l.rmask) else field l.base 36 4

/-- The effective class of a leaf for a reader (R336). -/
def Leaf.effective (l : Leaf) (die : Nat) : Nat :=
  if l.lc = 0 ∨ l.kind ≠ 0 then 0 else max l.lc (geoClass die (l.serving die))

/-! ## Watch filters (R354 to R356) -/

/-! ## Writes (R310, R313 to R316, R321) -/

/-- The aligned 64-byte blocks of consecutive bytes (R313), at most `fuel` of them. -/
def blocks64 : Nat → Nat → List Byte → List (Nat × List Byte)
  | 0, _, _ => []
  | fuel + 1, a, l =>
    if l.isEmpty then []
    else
      let n := 64 - a % 64
      (a, l.take n) :: blocks64 fuel (a + n) (l.drop n)

/-- K raised by an applied stamped write (R316.4). -/
def raiseK (k : Store Nat) (w : Stamped) : Store Nat :=
  if w.num = 0 then k else mergeMax k (Store.set 0 w.clock w.src w.num)

/-- A far-line buffer's copy of bytes written. -/
def Die.farWrite (d : Die) (a : Nat) (bytes : List Byte) : Die :=
  let cells := cellsAt a bytes
  { d with far := d.far.map fun l =>
      if l.1 = lineOf a then (l.1, (List.range l.2.length).map fun k => (lookup cells (512 * l.1 + k)).getD (nth0 l.2 k))
      else l }

/-- A home applies a write, and forwards it to every buffer that holds the line (R315): it arrives there at a free time. -/
def State.applyPlain (s : State) (die : Nat) (w : Stamped) : State :=
  match w.space with
  | 0 =>
    let s1 := { s with hbm := Memory.writeBytes s.hbm w.addr w.bytes }
    let s2 := s1.onDie die fun d => { d with kHome := raiseK d.kHome w }
    dies16.foldl (fun s j =>
      if j ≠ die ∧ ((s.die j).far.any fun l => decide (l.1 = lineOf w.addr)) then
        let t := s.draw
        t.2.onDie j fun d => { d with incoming := d.incoming ++ [{ w with home := false, due := s.cycle + 1 + t.1 }] }
      else s) s2
  | 1 => { s with host := Memory.writeBytes s.host w.addr w.bytes }
  | _ => { s with pod := Memory.writeBytes s.pod w.addr w.bytes }

/-- What the device's own units write into HBM (R356): applied at the home, and forwarded, as an unnumbered write. -/
def State.pokeHbm (s : State) (a : Nat) (bytes : List Byte) : State :=
  let id := s.nextWrite
  (blocks64 (bytes.length + 1) a bytes).foldl
    (fun s b => s.applyPlain (homeDie b.1) ⟨id, 0, 0, [], true, 0, b.1, b.2, false, 0⟩) { s with nextWrite := id + 1 }

/-- The stacks of a replicated page's write, none for an ordinary page (R321). -/
def Leaf.copies (l : Leaf) : List Nat := if l.rep then dies16.filter fun k => bitOf l.rmask k else []

/-- The addresses that an access through a leaf reaches: of a replicated page a read has the copy that serves the die's reads,
a write every copy (R321). -/
def Leaf.places (l : Leaf) (die va : Nat) (write : Bool) : List Nat :=
  let a := l.translate va
  if l.rep then (if write then l.copies else [l.serving die]).map fun k => a % 2 ^ 36 + 2 ^ 36 * k else [a]

/-! ## Watch filters (R354 to R356) -/

/-- A trace is LOST (R354, R356). -/
def State.loseTrace (s : State) (h : Nat) : State := s.onTrace h fun t => { t with lost := true }

/-- A trace's own write through a leaf (R352, R356): refused where the page is no device memory or its channel is fenced or
retired (R346, R348). -/
def State.writeOwn (s : State) (l : Leaf) (va : Nat) (bytes : List Byte) : Option State :=
  if l.kind = 0 && !((l.places 0 va true).any fun a => s.fencedRange a bytes.length) then
    some ((l.places 0 va true).foldl (fun s a => s.pokeHbm a bytes) s)
  else none

/-- A bit of a trace's dirty bitmap set (R352, R356): a refused bitmap write marks the trace LOST. -/
def State.setDirty (s : State) (t : Trace) (bit : Nat) : State :=
  let va := t.bmap + bit / 8
  match s.translateNow 0 t.asid va true with
  | some l =>
    (s.writeOwn l va [Memory.read s.hbm (l.translate va) ||| BitVec.ofNat 8 (2 ^ (bit % 8))]).getD (s.loseTrace t.handle)
  | none => s.loseTrace t.handle

/-- The watch filters at a write of `n` bytes of HBM (R354 to R356): every trace that watches a tile it changes. -/
def State.filterWrite (s : State) (a n : Nat) : State :=
  s.dist.traces.foldl (fun s t =>
    (t.watch.filter fun w => decide (w.1 * 16384 < a + n) && decide (a < (w.1 + 1) * 16384)).foldl
      (fun s w => s.setDirty t w.2) s) s

/-- A home applies a write that may pass the filters (R355). -/
def State.applyHome (s : State) (die : Nat) (w : Stamped) : State :=
  (if w.watched && decide (w.space = 0) then s.filterWrite w.addr w.bytes.length else s).applyPlain die w

/-! ## The trace store (R360) -/

/-- A number of zero bytes. -/
def zeroBytes (n : Nat) : List Byte := List.replicate n 0#8

/-- The 64 words of ranges of a record (R360). -/
def rangeBytes (l : List (Nat × Nat)) : List Byte :=
  let b := (l.map fun r => toBytes (r.1 + 2 ^ 38 * (r.2 - 1)) 8).flatten
  b ++ zeroBytes (256 - b.length)

/-- A record as it lies in the trace store (R360). -/
def TraceRec.bytes (r : TraceRec) : List Byte :=
  toBytes (b2n r.valid + 2 * b2n r.rovf + 4 * b2n r.wovf + 8 * b2n r.loc + 16 * b2n r.ext + 32 * b2n r.kill +
    256 * r.reads.length + 65536 * r.writes.length) 4 ++ toBytes r.blk 4 ++ zeroBytes 56 ++ rangeBytes r.reads ++
    rangeBytes r.writes

/-- The address of the record of a block in the trace store. -/
def Trace.recordAt (t : Trace) (base blk : Nat) : Nat := base * 2 ^ 32 + 2 ^ 26 * t.slot + 576 * blk

/-- The records of a trace written to the trace store. -/
def State.storeRecords (s : State) (h : Nat) (blks : List Nat) : State :=
  match s.trace h with
  | some t => blks.foldl (fun s b =>
      s.pokeHbm (t.recordAt s.dist.trsbase b) (t.record b).bytes) s
  | none => s

/-- What a killed block's operations still do is written to its record in the store, which is VALID already (R359, R360). -/
def State.keepRecord (s : State) (h blk : Nat) : State :=
  match s.trace h with
  | some t => if (t.record blk).valid then s.storeRecords h [blk] else s
  | none => s

/-- Every record of a trace becomes not VALID, in the store as well (R361): those that an earlier trace left in the slot too. -/
def State.dropRecords (s : State) (h : Nat) : State :=
  match s.trace h with
  | some t =>
    let first := t.recordAt s.dist.trsbase 0
    let stored := s.hbm.filter fun c => decide (first ≤ c.1) && decide (c.1 < first + 576 * 65536) &&
      decide ((c.1 - first) % 576 = 0) && c.2.getLsbD 0
    (stored.foldl (fun s c => s.pokeHbm c.1 [c.2 &&& 0xFE#8]) s).onTrace h fun t => { t with recs := [] }
  | none => s

/-! ## Writes on their way (R314 to R316, R321) -/

/-- One block of a write is sent: to its home, or to the primary of a replicated page; it arrives at a free time
(R314). -/
def State.sendBlock (s : State) (die id : Nat) (clock : Option (Store Nat)) (watched : Bool) (space : Nat) (copies : List Nat)
    (a : Nat) (bytes : List Byte) : State :=
  let r := s.numberWrite die id clock.isSome
  let t := r.2.draw
  let due := s.cycle + 1 + t.1
  let v := clock.getD []
  if copies.isEmpty then
    let home := if space = 0 then homeDie a else die
    t.2.onDie home fun d =>
      { d with incoming := d.incoming ++ [⟨id, die, r.1, v, true, space, a, bytes, watched, due⟩] }
  else { t.2 with reps := t.2.reps ++ [⟨id, die, r.1, v, a, bytes, copies, false, watched, due⟩] }

/-- A write of consecutive bytes: its identity, and the state with its blocks on their way. A write with a clock is stamped
(R316). `space` 0 HBM, 1 host memory, 2 other packages. -/
def State.sendWrite (s : State) (die : Nat) (clock : Option (Store Nat)) (watched : Bool) (space : Nat) (copies : List Nat)
    (a : Nat) (bytes : List Byte) : Nat × State :=
  let id := s.nextWrite
  (id, (blocks64 (bytes.length + 1) a bytes).foldl
    (fun s b => s.sendBlock die id clock watched space copies b.1 b.2) { s with nextWrite := id + 1 })

/-- A far-line buffer applies a forwarded write. -/
def State.applyFar (s : State) (die : Nat) (w : Stamped) : State :=
  s.onDie die fun d => { d.farWrite w.addr w.bytes with kFar := raiseK d.kFar w }

/-- Must a write that came before another be applied before it: an earlier forward of its line, or an earlier row on its way
from one die to another package (R315, R344)? -/
def Stamped.goesBefore (b w : Stamped) : Bool :=
  (!b.home && !w.home && decide (lineOf b.addr = lineOf w.addr)) ||
  (decide (b.space = 2) && decide (w.space = 2) && decide (b.src = w.src) && decide (b.addr / 2 ^ 40 = w.addr / 2 ^ 40))

/-- The first write a die can apply (R315, R316.4): its time has come, the frontiers cover its clock, and nothing that goes
before it is still on its way. -/
def State.applicable (s : State) (die : Nat) : List Stamped → List Stamped → Option (Stamped × List Stamped)
  | _, [] => none
  | before, w :: l =>
    if (decide (w.due ≤ s.cycle) || s.urgent) && !(before.any fun b => b.goesBefore w) && s.covered w.clock then
      some (w, before ++ l)
    else State.applicable s die (before ++ [w]) l

/-- STAMPED_WRITE_APPLY (R315, R316). -/
def execStampedWriteApply (die : Nat) (s : State) : Out :=
  if 16 ≤ die then .fault (.absent die)
  else match s.applicable die [] (s.die die).incoming with
    | none => .next s
    | some (w, rest) =>
      let s1 := s.onDie die fun d => { d with incoming := rest }
      .next (if w.home then s1.applyHome die w else s1.applyFar die w)

/-- Do two writes reach one 64-byte block? -/
def sameBlock (a b : Nat) : Bool := decide (a / 64 = b / 64)

/-! ## The host's window (R342) -/

/-- Parts of a range of virtual addresses that lie in one 64 KB page each, at most `fuel`. -/
def pageParts : Nat → Nat → Nat → List (Nat × Nat)
  | 0, _, _ => []
  | fuel + 1, va, n =>
    if n = 0 then []
    else
      let m := min n (65536 - va % 65536)
      (va, m) :: pageParts fuel ((va + m) % 2 ^ 52) (n - m)

/-- The virtual address of a BAR4 offset. -/
def State.windowVa (s : State) (off : Nat) : Nat := s.hwbase.toNat % 65536 * 2 ^ 36 + off

/-- HASID. -/
def State.hostAsid (s : State) : Nat := s.hasid.toNat % 4096

/-- Is HWBASE or HASID being written in this cycle (R342)? -/
def State.windowMoves (s : State) : Bool := s.setNow.contains 5

/-- The leaf of a host access, by the translator of die 0: none where it is refused (R342). -/
def State.hostLeaf (s : State) (va : Nat) (write : Bool) : Option Leaf :=
  if s.windowMoves then none
  else (s.leafNow 0 hostEngine s.hostAsid va).filter fun l => l.permits write && !decide (l.kind = 1)

/-- The pages of a host access. -/
def State.hostPages (s : State) (off n : Nat) : List (Nat × Nat) := pageParts (n / 65536 + 2) (s.windowVa off) n

/-- Does a range of a replicated page meet the block of a write (R321)? -/
def RepWrite.meets (w : RepWrite) (a n : Nat) : Bool :=
  let b := w.addr % 2 ^ 36 / 64 * 64
  decide (b < a % 2 ^ 36 + n) && decide (a % 2 ^ 36 < b + 64)

/-- Does an operation wait to read the block of a write (R321)? -/
def RepWrite.awaited (w : RepWrite) (o : CopyOp) : Bool := o.blocked.any fun r => w.meets r.1 r.2

/-- Is every earlier host write visible at sys scope (R343)? -/
def State.hostSettled (s : State) : Bool := s.hostSent.all fun id => s.visible id

/-- Does the host's oldest access wait to read the block of a write (R321, R343)? -/
def State.hostAwaits (s : State) (w : RepWrite) : Bool :=
  match s.hostWait with
  | .hostMemoryRead ⟨.window, off⟩ n :: _ => s.hostSettled && (s.hostPages off n).any fun p => match s.hostLeaf p.1 false with
    | some l => l.rep && w.meets (l.translate p.1) p.2
    | none => false
  | _ => false

/-- Can a replicated write take its next phase (R321)? A read that waits at the block comes before a later lock. -/
def State.repReady (s : State) (w : RepWrite) : Bool :=
  (decide (w.due ≤ s.cycle) || s.urgent) &&
  (w.locked || (!(s.reps.any fun v => v.locked && sameBlock v.addr w.addr) && !(s.ops.any w.awaited) && !s.hostAwaits w &&
    s.covered w.clock))

/-- REPLICATED_WRITE (R321): the block is locked in every copy; a later step, at most 900 c after, writes it in every
copy and unlocks it, and the reads that wait there are served in that cycle. The lock phase waits until the block is
unlocked. -/
def execReplicatedWrite (id : Nat) (s : State) : Out :=
  match s.reps.find? fun w => decide (w.id = id) && s.repReady w with
  | none => .next s
  | some w =>
    if w.locked then
      let s1 := { s with reps := s.reps.erase w }
      let s2 := if w.watched then s1.filterWrite w.addr w.bytes.length else s1
      let s3 := w.copies.foldl (fun s k =>
        { s with hbm := Memory.writeBytes s.hbm (w.addr % 2 ^ 36 + 2 ^ 36 * k) w.bytes }) s2
      let s4 := { s3 with ops := s3.ops.map fun o => if w.awaited o then { o with notBefore := s.cycle } else o }
      .next (s4.onDie (homeDie w.addr) fun d =>
        { d with kHome := raiseK d.kHome ⟨w.id, w.src, w.num, w.clock, true, 0, w.addr, [], false, 0⟩ })
    else
      let t := s.draw
      let lock (v : RepWrite) : RepWrite := { v with locked := true, due := s.cycle + t.1 % 800 + 1 }
      .next { t.2 with reps := replaceFirst (fun v => decide (v = w)) lock t.2.reps }

/-! ## Reads (R315, R316.5, R321) -/

/-- The lines of other dies that a read touches. -/
def farLines (die a n : Nat) : List Nat :=
  if n = 0 then []
  else ((List.range (lineOf (a + n - 1) - lineOf a + 1)).map fun k => lineOf a + k).filter
    fun l => decide (homeDie (512 * l) ≠ die)

/-- A fetched line may be installed (R315): a free choice, while the buffer has room for one of its 4,096 lines. What
the home has applied comes with it (log 9). -/
def State.maybeInstall (s : State) (die line : Nat) : State :=
  let d := s.die die
  if (d.farLine line).isSome || decide (4096 ≤ d.far.length) then s
  else
    let t := s.draw
    if t.1 % 2 = 1 then
      t.2.onDie die fun d =>
        { d with far := d.far ++ [(line, Memory.bytes s.hbm (512 * line) 512)]
                 kFar := mergeMax d.kFar (s.die (homeDie (512 * line))).kHome }
    else t.2

/-- K of what served a read (R316.5): of the buffer for the lines it holds, of the home for the others. -/
def State.responseK (s : State) (die a n : Nat) : Store Nat :=
  let held (l : Nat) : Bool := ((s.die die).farLine l).isSome
  let ls := farLines die a n
  mergeMax (if ls.any held then (s.die die).kFar else [])
    (if ls.isEmpty || ls.any fun l => !held l then (s.die (homeDie a)).kHome else [])

/-- Does a read of a replicated page meet a locked block (R321)? -/
def State.lockedRange (s : State) (a n : Nat) : Bool := s.reps.any fun w => w.locked && w.meets a n

/-- A read of device memory by an agent of a die: none while it must wait (R316.5, R321); its bytes, the K of the
response, and the state with the lines that were installed. A read that has waited at a locked block (`waited`) has been
through its clock. -/
def State.readDevice (s : State) (die : Nat) (l : Leaf) (a n : Nat) (waited : Bool) : Option (List Byte × Store Nat × State) :=
  if !waited && !s.covered (s.clockOf die) then none
  else if l.rep then
    let at_ := a % 2 ^ 36 + 2 ^ 36 * l.serving die
    if s.lockedRange at_ n then none else some (Memory.bytes s.hbm at_ n, (s.die (homeDie a)).kHome, s)
  else
    some (s.dieBytes die a n, s.responseK die a n, (farLines die a n).foldl (fun s k => s.maybeInstall die k) s)

end Sys2Proof.Machine
end

