-- ==== Sys2Proof/Machine/Records.lean ====
section
/-! DEFINITION. Task records, the dependence counters and the queues of the distributor (R280, R281, R284 to R286, R289,
R294). -/

namespace Sys2Proof.Machine

/-! ## Launches -/

/-- A live launch. -/
def State.launch (s : State) (n : Nat) : Option Launch := s.dist.launch n

/-- A launch changed. -/
def State.onLaunch (s : State) (n : Nat) (f : Launch → Launch) : State :=
  s.onDist fun d => { d with launches := replaceFirst (fun l => decide (l.num = n)) f d.launches }

/-- A 64-bit address in two words of a descriptor. -/
def dw64 (d : List Word) (k : Nat) : Nat := dw d k + 2 ^ 32 * dw d (k + 1)

/-- Virtual address of the parameter tile (R144). -/
def Launch.param (l : Launch) : Nat := dw64 l.desc 2

/-- Bytes of memory of any kind at a physical address, as a die's own units read them. -/
def State.physical (s : State) (die : Nat) (l : Leaf) (a n : Nat) : List Byte :=
  match l.kind with
  | 0 => (List.range n).map fun k => if l.rep then Memory.read s.hbm (a + k) else s.deviceByte die (a + k)
  | 1 => Memory.bytes s.host a n
  | _ => Memory.bytes s.pod a n

/-- Bytes at a virtual address within one 64 KB page, read by the distributor on die 0: none where it is refused. -/
def State.readPage (s : State) (asid va n : Nat) : Option (List Byte) :=
  match s.translateNow 0 asid va false with
  | some l => some (s.physical 0 l (l.translate va) n)
  | none => none

/-- A word of little-endian bytes. -/
def wordAt (b : List Byte) (k : Nat) : Nat := ofBytes ((b.drop k).take 4)

/-! ## Records (R284, R285) -/

/-- Does the successor list of a record lie within the tile (R284)? -/
def listOk (nsucc slist : Nat) : Bool :=
  decide (nsucc ≤ 1024) && decide (slist % 2 = 0) && (decide (nsucc = 0) || decide (slist + 2 * nsucc ≤ 16384))

/-- Does a record obey R284 as a record of a launch in a queue of a level? -/
def Launch.recordOk (l : Launch) (level : Nat) (w : List Word) : Bool :=
  decide (dw w 0 < 2 ^ 15) && decide (dw w 0 < 16 * l.image.lines) && decide (dw w 1 = l.image.partition.toNat) &&
  listOk (field (dw w 2) 16 16) (dw w 3) && decide (dw w 5 = level) && decide (dw w 6 = 0) && decide (dw w 7 < 65536)

/-- The successor list of a record, read from the parameter tile (R285); none where the read is refused. -/
def State.successors (s : State) (l : Launch) (nsucc slist : Nat) : Option (List Nat) :=
  if nsucc = 0 then some []
  else (s.readPage l.asid (l.param + slist) (2 * nsucc)).map fun b =>
    (List.range nsucc).map fun k => ofBytes ((b.drop (2 * k)).take 2)

/-- The record that eight words describe. -/
def Launch.record (l : Launch) (w : List Word) (succ : List Nat) (group : Bool) (mailbox : Option (Nat × Nat × Nat))
    (clock : Store Nat) : Record :=
  { launch := l.num, blk := field (dw w 7) 0 16, entry := field (dw w 0) 0 15, prio := field (dw w 5) 0 2,
    release := dw w 4, succ := succ, ready := false, group := group, mailbox := mailbox, words := w,
    clock := clock }

/-- The level of a queue (R288, R289). -/
def Distributor.queueLevel (d : Distributor) (q : Nat) : Nat :=
  if q < 4 then q else field (Store.get 0#32 d.qlevel (q / 16)).toNat (2 * (q % 16)) 2

/-- Free blocks of a die's lending pool taken or, with `back`, returned. -/
def State.lendBlocks (s : State) (die taken back : Nat) : State :=
  s.onDie die fun d => { d with lend := d.lend - taken + back }

/-- The elements that have just taken lent slots of a ring are written there, past the watch filter (R281, R300, R355): where
firmware has laid out the pool of the die (R347). -/
def State.writeLent (s : State) (n die size : Nat) (old new : Ring) : State :=
  match (s.die die).pool with
  | none => s
  | some p =>
    let entered := new.lent.filter fun e => !(old.lent.any fun k => decide (k.1 = e.1))
    (entered.foldl (fun (z : Nat × State) e =>
      let a := p + 1024 * Config.lentBlock n (z.1 / size) + 1024 / size * (z.1 % size)
      let bytes := e.2.flatMap fun w => toBytes w.toNat 4
      (z.1 + 1, (z.2.filterWrite a bytes.length).pokeHbm a bytes)) (old.lentUsed, s)).2

/-- Can a record enter a queue (R281)? -/
def State.queueOpen (s : State) (q : Nat) : Bool := (s.queue q).ring.canEnter 32 (s.die 0).lend

/-- A record's words enter a queue: the next entry or lent slot (R281). -/
def State.ringEnter (s : State) (q : Nat) (w : List Word) : State :=
  let old := (s.queue q).ring
  let r := old.enter 32 w
  ((s.onQueue q fun k => { k with ring := r.1 }).lendBlocks 0 r.2 0).writeLent q 0 32 old r.1

/-- A block's counter changed (R285). -/
def Launch.bump (l : Launch) (blk : Nat) (by_ : Int) : Launch :=
  { l with deps := Store.set 0 l.deps blk (Store.get 0 l.deps blk + by_) }

/-- A record enters a queue that is not wired: its PRED is added to its block's counter (R285). -/
def State.enterRecord (s : State) (q : Nat) (r : Record) : State :=
  let s1 := (s.ringEnter q r.words).onQueue q fun k => { k with recs := k.recs ++ [r] }
  s1.onLaunch r.launch fun l => l.bump r.blk (field (dw r.words 2) 0 16 : Nat)

/-- A block that retires or is killed decrements its successors (R285, R303). -/
def State.decrement (s : State) (launch : Nat) (succ : List Nat) : State :=
  s.onLaunch launch fun l => succ.foldl (fun l b => l.bump b (-1)) l

/-- Is a record ready in this cycle (R286, R287)? A later frame's record does not become ready while TICK is held. -/
def State.recordReady (s : State) (r : Record) : Bool :=
  r.ready || match s.launch r.launch with
    | some l =>
      decide (Store.get 0 l.deps r.blk = 0) &&
      (decide (r.release = 0) || decide (0 ≤ toSigned (wrapN ((s.dist.tick : Int) - r.release) 32) 32))
    | none => false

/-- Records that have become ready stay ready (R286). -/
def State.markReady (s : State) : State :=
  s.onDist fun d => { d with queues := d.queues.map fun e =>
    (e.1, { e.2 with recs := e.2.recs.map fun r => if s.recordReady r then { r with ready := true } else r }) }

/-- Is some record about to become ready? -/
def State.anyNewReady (s : State) : Bool :=
  s.dist.queues.any fun e => e.2.recs.any fun r => !r.ready && s.recordReady r

/-! ## Messages (R304, R305) -/

/-- The registration at a virtual address of an address space, and its number. -/
def State.mailboxAt (s : State) (asid : Nat) (hits : Nat → Bool) : Option (Nat × Mailbox) :=
  firstSome (fun (e : Nat × Option Mailbox) => match e.2 with
    | some m => if decide (m.asid = asid) && hits m.va then some (e.1, m) else none
    | none => none) s.dist.mailboxes

/-- A registration changed. -/
def State.onMailbox (s : State) (n : Nat) (f : Mailbox → Mailbox) : State :=
  s.onDist fun d => { d with mailboxes := match Store.get none d.mailboxes n with
    | some m => Store.insert d.mailboxes n (some (f m))
    | none => d.mailboxes }

/-- A message becomes acceptable: ordered by cycle, by kind (0 MPOST, 1 copy, 2 host), by core and counter (R305). -/
def State.post (s : State) (n kind core tl : Nat) (msg : Message) : State :=
  let key := s.cycle * 2 ^ 20 + kind * 2 ^ 16 + core * 32 + tl
  s.onMailbox n fun m => { m with waiting := sortBy (fun (e : Message) => e.order) (m.waiting ++ [{ msg with order := key }]) }

end Sys2Proof.Machine
end

