-- ==== Sys2Proof/Machine/CopyEngine.lean ====
section
/-! DEFINITION. The copy engines: the rows of copy-class operations, translation and page faults, timed operations, and
completion (R193 to R198, R244, R252, R305, R310, R322, R329, R330, R335 to R339, R343, R344, R346, R357). -/

namespace Sys2Proof.Machine

/-! ## Packets (R193, R195 to R198, R337) -/

/-- Source kind; a GATHERP's is virtual. -/
def CopyOp.sk (o : CopyOp) : Nat := if o.kind = 2 then 0 else field (dw o.packet 0) 0 4

/-- Rows, or places of a GATHERP. -/
def CopyOp.rows (o : CopyOp) : Nat := dw o.packet 6 + 1

/-- The die of the operation's copy engine (R193). -/
def CopyOp.die (o : CopyOp) : Nat := dieOf o.core

/-- Are words of a packet that no field occupies zero? -/
def CopyOp.zero (o : CopyOp) (ks : List Nat) : Bool := ks.all fun k => decide (dw o.packet k = 0)

/-- Is an address well-formed for its kind (R195, R326)? -/
def addressOk (kind lo hi : Nat) : Bool :=
  match kind with
  | 0 => decide (hi < 2 ^ 20)
  | 1 => decide (lo % 4 = 0) && decide (hi = 0)
  | 4 => decide (lo < 16) && decide (hi = 0)
  | _ => decide (hi = 0)

/-- The limits of a timed operation (R337). -/
def CopyOp.timedOk (o : CopyOp) : Bool :=
  !o.timed || (decide (o.sk = 0) && decide (o.rows ≤ 64) && decide (o.bytes ≤ 4096))

/-- Does a packet of COPY or COPYO keep the limits of R195, R326 and R337? -/
def CopyOp.copyOk (o : CopyOp) : Bool :=
  let p := o.packet
  decide (dw p 0 < 1024) && [0, 1, 3, 4].contains o.sk && decide (o.dk ≤ 4) &&
  addressOk o.sk (dw p 1) (dw p 2) && addressOk o.dk (dw p 3) (dw p 4) &&
  decide (4 ≤ o.bytes) && decide (o.bytes ≤ 2 ^ 24) && decide (o.bytes % 4 = 0) && decide (o.rows ≤ 65536) &&
  (decide (o.sk = 4) || decide (dw p 7 % 4 = 0)) && (decide (o.dk = 4) || decide (dw p 8 % 4 = 0)) &&
  decide (dw p 9 < 512) && o.zero [10, 11, 12, 13, 14] && o.timedOk

/-- Does a packet of GATHERP keep the limits of R196, R326 and R337? -/
def CopyOp.gatherOk (o : CopyOp) : Bool :=
  let p := o.packet
  decide (dw p 0 < 1024) && decide (dw p 0 % 16 = 0) && [1, 2, 3].contains o.dk && decide (dw p 2 < 2 ^ 20) &&
  addressOk o.dk (dw p 3) (dw p 4) && decide (4 ≤ o.bytes) && decide (o.bytes ≤ 2 ^ 20) && decide (o.bytes % 4 = 0) &&
  decide (o.rows ≤ 4096) && decide (dw p 7 % 4 = 0) && decide (dw p 8 % 4 = 0) && decide (dw p 9 < 512) &&
  o.zero [10, 11, 12, 13, 14] && o.timedOk

/-- Does a packet of MPOST keep the limits of R197 and R326? -/
def CopyOp.postOk (o : CopyOp) : Bool :=
  let p := o.packet
  decide (1 ≤ dw p 0) && decide (dw p 0 ≤ 12) && decide (dw p 1 % 64 = 0) && decide (dw p 2 < 2 ^ 20)

/-- Does a packet of TQPUSH keep the layout of R198? -/
def CopyOp.pushOk (o : CopyOp) : Bool := decide (dw o.packet 0 < 256) && o.zero [1, 2, 3, 12, 13, 14]

/-! ## Operations of the package -/

/-- An operation put back. -/
def State.setOp (s : State) (o : CopyOp) : State :=
  { s with ops := replaceFirst (fun k => decide (k.id = o.id)) (fun _ => o) s.ops }

/-- An operation of the package. -/
def State.op (s : State) (id : Nat) : Option CopyOp := s.ops.find? fun o => decide (o.id = id)

/-- An operation tries again in the next cycle. -/
def State.opLater (s : State) (o : CopyOp) : State := s.setOp { o with notBefore := s.cycle + 1 }

/-- An operation writes no more, and completes with a status (R193). -/
def State.opEnd (s : State) (o : CopyOp) (status : Nat) : State :=
  s.setOp { o with stage := .landing, status := status, data := none, todo := [], blocked := [], rowIds := [] }

/-- The time of an operation's next row: free, and for a timed operation early enough for its deadline (R337). -/
def State.opNext (s : State) (o : CopyOp) : State :=
  let t := s.draw
  let at_ := if o.timed then min (s.cycle + 1 + t.1) (max (s.cycle + 1) (o.deadline o.row - 64)) else s.cycle + 1 + t.1
  t.2.setOp { o with notBefore := at_ }

/-! ## Addresses of rows -/

/-- Source address of a row: virtual addresses are 52 bits long, scratchpad addresses 32 (log 40). -/
def CopyOp.source (o : CopyOp) (r : Nat) : Nat :=
  if o.sk = 0 then wrapN ((dw64 o.packet 1 : Int) + r * toSigned (dw o.packet 7) 32) 52
  else wrapN ((dw o.packet 1 : Int) + r * toSigned (dw o.packet 7) 32) 32

/-- Destination address of a row or place. -/
def CopyOp.dest (o : CopyOp) (r : Nat) : Nat :=
  if o.dk = 0 then wrapN ((dw64 o.packet 3 : Int) + r * toSigned (dw o.packet 8) 32) 52
  else wrapN ((dw o.packet 3 : Int) + r * toSigned (dw o.packet 8) 32) 32

/-- The entry of a GATHERP's list for a place (R196), read at scratchpad address LIST + 4j. -/
def CopyOp.listEntry (o : CopyOp) (base j : Nat) : Nat :=
  ofBytes ((List.range 4).map fun k => (lookup o.got (base + 4 * j + k)).getD 0#8)

/-- Virtual address of a GATHERP's page. -/
def CopyOp.page (o : CopyOp) (n : Nat) : Nat := (dw64 o.packet 1 + n * o.bytes) % 2 ^ 52

/-! ## Translation of a row (R329, R330, R335 to R337) -/

/-- What a row's translations give: the leaves of its parts, a miss, a fault, or a refusal. -/
inductive Translated where
  | ok (parts : List (Nat × Nat × Leaf))
  | miss (need : WalkNeed)
  | fault (need : WalkNeed) (level cause : Nat)
  | refuse (status : Nat)
  deriving DecidableEq, Repr

/-- Can what lies behind a leaf be reached (R344, R346, R348): no fenced or retired channel, and for a read no uncorrectable
error; the host link is up; the package is in the pod, and its route is up? -/
def State.reachable (s : State) (die : Nat) (l : Leaf) (va n : Nat) (write : Bool) : Bool :=
  match l.kind with
  | 0 => (l.places die va write).all fun a => !s.fencedRange a n && (write || !s.badRange a n)
  | 1 => !s.hostDown
  | _ => let p := field (l.translate va) 40 6
    Config.inPod p && !((s.die die).routesDown.contains p)

/-- What the leaf of one part gives: permission, class of a timed operation (R337), reach. -/
def State.throughLeaf (s : State) (o : CopyOp) (va n : Nat) (write : Bool) (l : Leaf) : Translated :=
  if !l.permits write then .fault ⟨va, write, o.asid⟩ l.level 1
  else if o.timed && (decide (l.effective o.die = 0) || decide (o.tcls < l.effective o.die)) then .refuse 8
  else if !s.reachable o.die l va n write then .refuse 10
  else .ok [(va, n, l)]

/-- The translation of one part by the engine's TLB (R330); where the table's entry has changed, by it or by the new one. -/
def State.translatePart (s : State) (o : CopyOp) (va n : Nat) (write : Bool) : Translated :=
  let eng := engineOf o.core
  match (s.die o.die).tlbEntry eng o.asid va with
  | none => .miss ⟨va, write, o.asid⟩
  | some e =>
    if Config.keepsOld s.free (va / 65536) then s.throughLeaf o va n write e.leaf
    else match s.walk o.die eng o.asid va with
      | .leaf l _ => s.throughLeaf o va n write l
      | .bad level cause => .fault ⟨va, write, o.asid⟩ level cause

/-- The translations of all parts of a row, in order. -/
def State.translateParts (s : State) (o : CopyOp) (write : Bool) : List (Nat × Nat) → Translated
  | [] => .ok []
  | (va, n) :: l =>
    match s.translatePart o va n write with
    | .ok p => match State.translateParts s o write l with
      | .ok q => .ok (p ++ q)
      | t => t
    | t => t

/-- The translations of a row. -/
def State.translateRow (s : State) (o : CopyOp) (va : Nat) (write : Bool) : Translated :=
  s.translateParts o write (pageParts (o.bytes / 65536 + 2) va o.bytes)

/-- The words of a fault record (R335). -/
def CopyOp.faultRecord (o : CopyOp) (tag : Nat) (need : WalkNeed) (level cause : Nat) : FaultRec :=
  ⟨BitVec.ofNat 32 (need.va / 65536),
   BitVec.ofNat 32 (need.asid * 1024 + level * 256 + 128 * b2n o.timed + 64 * b2n need.write + cause * 16 + field need.va 48 4),
   BitVec.ofNat 32 (tag * 65536 + o.core % 32 / 8 * 16384 + o.tl * 512 + o.core),
   BitVec.ofNat 32 o.num⟩

/-- The lowest free pending tag of a die. -/
def Die.freeTag (d : Die) : Option Nat := (List.range 64).find? fun t => !(d.tags.any fun e => decide (e.1 = t))

/-- An untimed fault takes a tag and a record together once both are free (R335). -/
def State.takeTag (s : State) (o : CopyOp) (need : WalkNeed) (level cause : Nat) : State :=
  let d := s.die o.die
  match d.freeTag with
  | some tag =>
    if d.faults.length < 64 then
      (s.onDie o.die fun d => { d with
        faults := d.faults ++ [o.faultRecord tag need level cause], tags := d.tags ++ [(tag, o.id)] }).setOp
        { o with stage := .faulted (some tag) need level cause }
    else s.setOp { o with stage := .faulted none need level cause }
  | none => s.setOp { o with stage := .faulted none need level cause }

/-- A page fault (R335): an untimed operation stalls; a timed one posts a record if it can and ends with STATUS 8
(R337). -/
def State.pageFault (s : State) (o : CopyOp) (need : WalkNeed) (level cause : Nat) : State :=
  if o.timed then
    let s1 := if (s.die o.die).faults.length < 64 then
        s.onDie o.die fun d => { d with faults := d.faults ++ [o.faultRecord 0 need level cause] }
      else { (s.onDie o.die fun d => { d with tlost := true }) with setNow := s.setNow ++ [8 + o.die] }
    s1.opEnd o 8
  else s.takeTag o need level cause

/-- The walk that an operation of an engine waits for. -/
def CopyOp.walkNeed (o : CopyOp) : Option WalkNeed := match o.stage with
  | .walk need => some need
  | _ => none

/-- Does an operation wait for a walk of an engine of a die, for a unit of an address space? -/
def CopyOp.walksFor (o : CopyOp) (die eng asid unit : Nat) : Bool :=
  decide (o.die = die) && decide (engineOf o.core = eng) && match o.walkNeed with
    | some n => decide (n.asid = asid) && decide (n.va / 65536 = unit)
    | none => false

/-- The 32 page walkers of an engine (R330): walks that nothing waits for any more end, and the misses that wait take the
free walkers in their order; each walk takes a free time. -/
def State.giveWalkers (s : State) (die eng : Nat) : State :=
  let s1 := s.onDie die fun d => { d with
    walkers := d.walkers.filter fun w => decide (w.eng ≠ eng) || s.ops.any fun o => o.walksFor die eng w.asid w.unit
    walkQueue := d.walkQueue.filter fun m => decide (m.1 ≠ eng) || s.ops.any fun o => o.walksFor die eng m.2.1 m.2.2 }
  ((s1.die die).walkQueue.filter fun m => decide (m.1 = eng)).foldl (fun s m =>
    if ((s.die die).walkers.filter fun w => decide (w.eng = eng)).length < 32 then
      let t := s.draw
      t.2.onDie die fun d => { d with
        walkers := d.walkers ++ [⟨eng, m.2.1, m.2.2, s.cycle + 1 + t.1⟩], walkQueue := d.walkQueue.erase m }
    else s) s1

/-- A miss (R330): misses that need the same entry share one walk; a miss takes a free walker, or waits for one. -/
def State.takeWalker (s : State) (o : CopyOp) (need : WalkNeed) : State :=
  let eng := engineOf o.core
  let unit := need.va / 65536
  let s1 := s.setOp { o with stage := .walk need }
  let d := s.die o.die
  let running := d.walkers.any fun w => decide (w.eng = eng) && decide (w.asid = need.asid) && decide (w.unit = unit)
  if running || d.walkQueue.contains (eng, need.asid, unit) then s1
  else (s1.onDie o.die fun d => { d with walkQueue := d.walkQueue ++ [(eng, need.asid, unit)] }).giveWalkers o.die eng

/-- A row that cannot go on with its translation. -/
def State.badTranslation (s : State) (o : CopyOp) : Translated → State
  | .miss need => s.takeWalker o need
  | .fault need level cause => s.pageFault o need level cause
  | .refuse status => s.opEnd o status
  | .ok _ => s

/-- Does the walk that an operation waits for end in this cycle: its time has come, or a timed row waits in its engine (R337),
and the frontiers cover the die's clock (R316.5)? -/
def State.walkDue (s : State) (o : CopyOp) : Bool :=
  match o.walkNeed with
  | some n =>
    let eng := engineOf o.core
    let hurry := s.urgent && s.ops.any fun k =>
      k.timed && k.walkNeed.isSome && decide (k.die = o.die) && decide (engineOf k.core = eng)
    s.covered (s.clockOf o.die) && (s.die o.die).walkers.any fun w =>
      decide (w.eng = eng) && decide (w.asid = n.asid) && decide (w.unit = n.va / 65536) && (hurry || decide (w.due ≤ s.cycle))
  | none => false

/-- What a walk that has ended gives an operation that waited for its entry (R330, R335). A message that waits for its ring
goes on waiting (R304). -/
def State.walkGives (s : State) (need : WalkNeed) (w : Walk) (o : CopyOp) : State :=
  match w with
  | .leaf l level =>
    if l.permits need.write then s.setOp { o with stage := if o.kind = 3 ∧ o.accepted = true then .waiting else .ready }
    else s.pageFault o need level 1
  | .bad level cause => s.pageFault o need level cause

/-- Does an operation wait for an entry that a walk has found: of its own unit, or of the leaf? -/
def CopyOp.shares (o : CopyOp) (die eng : Nat) (n : WalkNeed) (w : Walk) : Bool :=
  decide (o.die = die) && decide (engineOf o.core = eng) && match o.walkNeed with
    | some k => decide (k.asid = n.asid) && match w with
      | .leaf l _ => decide (k.va / 2 ^ l.bits = n.va / 2 ^ l.bits)
      | .bad _ _ => decide (k.va / 65536 = n.va / 65536)
    | none => false

/-- PAGE_WALK (R327 to R330, R335): the tables are read, the leaf is installed, and every operation that needs the entry goes
on or faults. -/
def execPageWalk (op : Nat) (s : State) : Out :=
  match s.op op with
  | none => .next s
  | some o => match o.walkNeed with
    | some need =>
      if !s.walkDue o then .next s
      else
        let eng := engineOf o.core
        let w := s.walk o.die eng need.asid need.va
        let s1 := s.keepWalk o.die eng need.asid need.va
        let s2 := (s1.ops.filter fun k => k.shares o.die eng need w).foldl (fun s k =>
          match k.walkNeed with
          | some n => s.walkGives n w k
          | none => s) s1
        .next (s2.giveWalkers o.die eng)
    | none => .next s

/-! ## Sources (R194 to R196, R252, R315, R316, R343, R344) -/

/-- Bytes read from a row of a scratchpad for an operation: at once, or in a window of a busy bank (R252); what has
been read, and whether a row is still waited for. -/
def Core.copyRead (c : Core) (cycle op p n : Nat) (got : List (Nat × Byte)) : Bool × List (Nat × Byte) × Core :=
  (rowsOf p n).foldl (fun (e : Bool × List (Nat × Byte) × Core) row =>
    let lo := max p (512 * row)
    let hi := min (p + n) (512 * row + 512)
    let q := Queued.copy op row
    let c := e.2.2
    if (lookup e.2.1 lo).isSome then e
    else if c.inPane (rowBank row) || c.pane.accesses.contains q || c.pane.done.contains q then
      let r := c.seek cycle q false
      if r.1 then (e.1, e.2.1 ++ cellsAt lo (r.2.viewBytes lo (hi - lo)), r.2) else (false, e.2.1, r.2)
    else (e.1, e.2.1 ++ cellsAt lo (c.viewBytes lo (hi - lo)), c)) (true, got, c)

/-- The bytes of a range among bytes read. -/
def gotBytes (got : List (Nat × Byte)) (p n : Nat) : List Byte := (List.range n).map fun k => (lookup got (p + k)).getD 0#8

/-- A source row that has been read: the operation holds its bytes. -/
def State.hasData (s : State) (o : CopyOp) (bytes : List Byte) (kv : Store Nat) : State :=
  s.setOp { o with data := some bytes, kv := mergeMax o.kv kv, got := if o.kind = 2 then o.got else [] }

/-- Is the clear of a context's scratchpad, or its preload, still to come or going on (R41)? -/
def Ctx.clearing (x : Ctx) (cycle : Nat) : Bool := match x.phase with
  | .waiting => true
  | .clearing u => decide (cycle < u)
  | _ => false

/-- A source row in a scratchpad (R194): the released view of a context's window; STATUS 2 outside it. It waits until the
scratchpad is that of the task (R41). -/
def State.readPad (s : State) (o : CopyOp) (core : Nat) (cid : Bool) (a n : Nat) : State :=
  let c := s.core core
  let x := c.ctx cid
  if x.clearing s.cycle then s.opLater o
  else if !x.inWindow a n then s.opEnd o 2
  else
    let p := x.poolAddr a
    let r := c.copyRead s.cycle o.id p n o.got
    let s1 := s.setCore core r.2.2
    let kv := if core = o.core then [] else c.kpad
    if r.1 then s1.hasData o (gotBytes r.2.1 p n) kv
    else s1.setOp { o with got := r.2.1, notBefore := s.cycle + 1 }

/-- The parts of a virtual source row read one after another; none while one must wait (R316.5, R321). -/
def State.readParts (s : State) (o : CopyOp) : List (Nat × Nat × Leaf) → Option (List Byte × Store Nat × State)
  | [] => some ([], [], s)
  | (va, n, l) :: rest =>
    let a := l.translate va
    let first := match l.kind with
      | 0 => s.readDevice o.die l a n (!o.blocked.isEmpty)
      | 1 => some (Memory.bytes s.host a n, [], s.noteExt o.trace o.blk)
      | _ => some (Memory.bytes s.pod a n, [], s.noteExt o.trace o.blk)
    match first with
    | none => none
    | some f => match State.readParts f.2.2 o rest with
      | none => none
      | some r => some (f.1 ++ r.1, mergeMax f.2.1 r.2.1, r.2.2)

/-- The ranges of replicated pages at which a read waits: it has reached its copies, and meets a locked block (R321). -/
def State.lockedParts (s : State) (o : CopyOp) (parts : List (Nat × Nat × Leaf)) : List (Nat × Nat) :=
  if !o.blocked.isEmpty then o.blocked
  else if s.covered (s.clockOf o.die) then
    let ranges := (parts.filter fun p => p.2.2.rep).map fun p => (p.2.2.translate p.1, p.2.1)
    if ranges.any fun r => s.lockedRange r.1 r.2 then ranges else []
  else []

/-- A read that a translation takes out of the package's memory sets EXT, refused or not (R357). -/
def State.noteOutside (s : State) (o : CopyOp) (parts : List (Nat × Nat)) : State :=
  if parts.any fun p => match (s.die o.die).tlbEntry (engineOf o.core) o.asid p.1 with
    | some e => decide (e.leaf.kind ≠ 0)
    | none => false
  then s.noteExt o.trace o.blk else s

/-- A virtual source row. -/
def State.readVirtual (s : State) (o : CopyOp) (va : Nat) : State :=
  match s.translateRow o va false with
  | .ok parts => match s.readParts o parts with
    | some r => r.2.2.hasData { o with blocked := [] } r.1 r.2.1
    | none => s.opLater { o with blocked := s.lockedParts o parts }
  | t => (s.noteOutside o (pageParts (o.bytes / 65536 + 2) va o.bytes)).badTranslation o t

/-- The context that an own or peer row lies in (R195). -/
def CopyOp.side (o : CopyOp) (kind : Nat) : Nat × Bool := if kind = 3 then o.peer.getD (o.core, o.cid) else (o.core, o.cid)

/-- A source row in a circular buffer (R35, R195): it waits for a filled slot, which is freed when it has been read. -/
def State.readBuffer (s : State) (o : CopyOp) : State :=
  let n := dw o.packet 1
  let x := (s.core o.core).ctx o.cid
  let k := Store.get CBuf.unset x.regs.cb n
  if k.filled = 0 then s.opLater o
  else
    let s1 := s.readPad o o.core o.cid (k.base + k.rdNext * k.size) o.bytes
    if (s1.op o.id).any fun p => p.data.isSome then
      s1.onCore o.core fun c => c.onCtx o.cid fun x => x.onAllRegs fun r => r.onCb n fun b =>
        { b with filled := b.filled - 1, rdNext := (b.rdNext + 1) % b.count, free := b.free + 1 }
    else s1

/-- The source of the next row or place is read. -/
def State.readSource (s : State) (o : CopyOp) : State :=
  if o.kind = 2 then
    let x := (s.core o.core).ctx o.cid
    s.readVirtual o (o.page (o.listEntry (x.poolAddr (dw o.packet 7)) o.row))
  else match o.sk with
    | 0 => s.readVirtual o (o.source o.row)
    | 4 => s.readBuffer o
    | k =>
      let e := o.side k
      s.readPad o e.1 e.2 (o.source o.row) o.bytes

/-! ## Destinations (R193 to R196, R310, R313, R322, R355, R357) -/

/-- A row or place is done: the next one follows at a free time. A timed row after its deadline gives STATUS 9
(R337). -/
def State.rowDone (s : State) (o : CopyOp) (delivered : Bool) : State :=
  let late := o.timed && delivered && decide (o.deadline o.row < s.cycle)
  let o1 := { o with
    row := o.row + 1, data := none, todo := [], slotFree := 0, status := if late then 9 else o.status }
  if o1.row = o.rows then s.opEnd o1 o1.status else s.opNext o1

/-- The tiles of a row (R351). -/
def tilesOf (va n : Nat) : List Nat :=
  if n = 0 then [] else (List.range ((va + n - 1) / 16384 - va / 16384 + 1)).map fun k => va / 16384 + k

/-- A row to virtual memory (R310, R313): each part is sent to its home. -/
def State.writeVirtual (s : State) (o : CopyOp) (va : Nat) (bytes : List Byte) : State :=
  match s.translateRow o va true with
  | .ok parts =>
    let r := parts.foldl (fun (e : List Nat × List Byte × State) p =>
      let l := p.2.2
      let clock := if 3 ≤ o.scope then some (e.2.2.clockOf o.die) else none
      let w := e.2.2.sendWrite o.die clock true l.kind l.copies (l.translate p.1) (e.2.1.take p.2.1)
      (e.1 ++ [w.1], e.2.1.drop p.2.1, w.2)) ([], bytes, s)
    let s1 := (tilesOf va bytes.length).foldl (fun s t => s.noteWrite o.trace o.blk t) r.2.2
    if o.timed then s1.setOp { o with unseen := o.unseen ++ r.1, rowIds := r.1, data := some [], notBefore := s.cycle + 1 }
    else s1.rowDone { o with unseen := o.unseen ++ r.1 } true
  | t => s.badTranslation o t

/-- Consecutive bytes cut at the 512-byte rows of a bank, at most `fuel` pieces. -/
def rowPieces : Nat → Nat → List Byte → List (Nat × List Byte)
  | 0, _, _ => []
  | fuel + 1, p, l =>
    if l.isEmpty then []
    else
      let n := 512 - p % 512
      (p, l.take n) :: rowPieces fuel (p + n) (l.drop n)

/-- Does another operation deliver to the same circular buffer (log 41)? -/
def State.bufferBusy (s : State) (o : CopyOp) : Bool :=
  s.ops.any fun k => decide (k.id ≠ o.id) && decide (k.core = o.core) && (k.cid == o.cid) && decide (k.kind ≤ 1) &&
    decide (k.dk = 4) && decide (dw k.packet 3 = dw o.packet 3) && !k.todo.isEmpty

/-- A row of an operation at pkg scope or wider to a memory of a core is a stamped write (R316): its identity and number. -/
def State.stampRow (s : State) (o : CopyOp) : CopyOp × State :=
  if o.scope < 3 then (o, s)
  else
    let id := s.nextWrite
    let r := State.numberWrite { s with nextWrite := id + 1 } o.die id true
    ({ o with stamp := some (id, r.1), vstamp := s.clockOf o.die, unseen := o.unseen ++ [id] }, r.2)

/-- A row to a scratchpad is cut into the rows of its banks (R313, R322): STATUS 2 outside the window. It waits until the
preload is written (R41). -/
def State.beginPad (s : State) (o : CopyOp) (core : Nat) (cid : Bool) (a : Nat) (bytes : List Byte) : State :=
  let x := (s.core core).ctx cid
  if x.clearing s.cycle then s.opLater o
  else if !x.inWindow a bytes.length then s.opEnd o 2
  else
    let r := s.stampRow o
    r.2.setOp { r.1 with data := some [], todo := rowPieces (bytes.length / 512 + 2) (x.poolAddr a) bytes }

/-- A row to a circular buffer takes the next slot (R35, R195); while there is none it waits. -/
def State.beginBuffer (s : State) (o : CopyOp) (bytes : List Byte) : State :=
  let n := dw o.packet 3
  let x := (s.core o.core).ctx o.cid
  let k := Store.get CBuf.unset x.regs.cb n
  if k.free = 0 ∨ s.bufferBusy o = true then
    s.setOp { o with notBefore := s.cycle + 1, slotFree := if k.free = 0 then s.cycle + 1 else o.slotFree }
  else
    let s1 := s.onCore o.core fun c => c.onCtx o.cid fun x => x.onAllRegs fun r => r.onCb n fun b =>
      { b with free := b.free - 1, wrNext := (b.wrNext + 1) % b.count }
    s1.beginPad o o.core o.cid (k.base + k.wrNext * k.size) bytes

/-- A row to the B-store slice (R37): STATUS 2 beyond 2^24. -/
def State.writeBstore (s : State) (o : CopyOp) (a : Nat) (bytes : List Byte) : State :=
  if 2 ^ 24 < a + bytes.length then s.opEnd o 2
  else if 3 ≤ o.scope ∧ s.covered (s.clockOf o.die) = false then s.opLater o
  else
    let r := s.stampRow o
    (r.2.onCore o.core fun c => { c with bstore := Memory.writeBytes c.bstore a bytes }).rowDone { r.1 with stamp := none } true

/-- A row that has been read is written. -/
def State.writeDest (s : State) (o : CopyOp) (bytes : List Byte) : State :=
  match o.dk with
  | 0 => s.writeVirtual o (o.dest o.row) bytes
  | 2 => s.writeBstore o (o.dest o.row) bytes
  | 4 => s.beginBuffer o bytes
  | k =>
    let e := o.side k
    s.beginPad o e.1 e.2 (o.dest o.row) bytes

/-- The core a row is delivered to. -/
def CopyOp.target (o : CopyOp) : Nat := if o.dk = 3 then (o.side 3).1 else o.core

/-- The pieces of a row seek their bank rows as copy-engine deliveries (R34, R246). -/
def Core.deliverPieces (c : Core) (cycle op : Nat) : List (Nat × List Byte) → List (Nat × List Byte) × Core
  | [] => ([], c)
  | p :: l =>
    let r := c.seek cycle (.copy op (rowOf p.1)) false
    if r.1 then Core.deliverPieces (r.2.deliver 20 cycle (cellsAt p.1 p.2)) cycle op l
    else
      let t := Core.deliverPieces r.2 cycle op l
      (p :: t.1, t.2)

/-- K of a scratchpad after a stamped row (R316.4): its clock, with the number of the row. -/
def CopyOp.stampK (o : CopyOp) (k : Store Nat) : Store Nat := match o.stamp with
  | some t => mergeMax k (Store.set 0 o.vstamp o.die t.2)
  | none => k

/-- A delivery goes on; a stamped one when the frontiers cover its clock (R316.4). After its last piece a slot of a circular
buffer is filled (R195), and a stamped row has left its clock there. -/
def State.deliverRow (s : State) (o : CopyOp) : State :=
  let core := o.target
  if !s.covered o.vstamp then s.opLater o
  else
    let r := (s.core core).deliverPieces s.cycle o.id o.todo
    let s1 := s.setCore core r.2
    if r.1.isEmpty then
      let s2 := s1.onCore core fun c => { c with kpad := o.stampK c.kpad }
      let s3 := if o.dk = 4 then
          s2.onCore core fun c => c.onCtx o.cid fun x => x.onAllRegs fun r => r.onCb (dw o.packet 3) fun b =>
            { b with filled := b.filled + 1 }
        else s2
      s3.rowDone { o with todo := [], stamp := none, vstamp := [] } true
    else s1.setOp { o with todo := r.1, notBefore := s.cycle + 1 }

/-! ## Acceptance (R193, R195, R196, R337, R357) -/

/-- The peer of an operation: the gang member on core PEER (R195, R338). -/
def State.peerOf (s : State) (o : CopyOp) : Option (Nat × Bool) :=
  match o.gang with
  | none => none
  | some g => match s.gang g with
    | none => none
    | some k => (k.members.find? fun m => decide (m.1 = dw o.packet 9)).map fun m => (m.1, m.2.1)

/-- Does an operation name a peer? -/
def CopyOp.namesPeer (o : CopyOp) : Bool := decide (o.dk = 3) || (decide (o.kind ≤ 1) && decide (o.sk = 3))

/-- The slot size of a circular buffer of the operation's context. -/
def State.slotSize (s : State) (o : CopyOp) (n : Nat) : Nat :=
  (Store.get CBuf.unset ((s.core o.core).ctx o.cid).regs.cb n).size

/-- Is a circular buffer bound to a TIMED stream (R188, R337)? -/
def State.boundTimed (s : State) (o : CopyOp) (n : Nat) : Bool :=
  ((s.core o.core).ctx o.cid).regs.q.any fun e => match e.2 with
    | some b => match b.src with
      | .cbuf c t => t && decide (c = n)
      | _ => false
    | none => false

/-- The limits that circular buffers put on a copy (R195, R337). -/
def State.buffersOk (s : State) (o : CopyOp) : Bool :=
  (decide (o.sk ≠ 4) || decide (s.slotSize o (dw o.packet 1) = o.bytes)) &&
  (decide (o.dk ≠ 4) || (decide (s.slotSize o (dw o.packet 3) = o.bytes) && (o.timed || !s.boundTimed o (dw o.packet 3))))

/-- Do source and destination overlap within the own scratchpad (R193, STATUS 7)? -/
def CopyOp.overlaps (o : CopyOp) : Bool :=
  let mine (kind : Nat) : Bool := decide (kind = 1) || (decide (kind = 3) && decide (o.side 3 = (o.core, o.cid)))
  decide (o.kind ≤ 1) && mine o.sk && mine o.dk &&
    (List.range o.rows).any fun i => (List.range o.rows).any fun j =>
      decide (o.source i < o.dest j + o.bytes) && decide (o.dest j < o.source i + o.bytes)

/-- The status an accepted packet ends with at once, 0 for none: 3, 4 or 7. -/
def State.packetStatus (s : State) (o : CopyOp) : Nat :=
  let ok := if o.kind = 2 then o.gatherOk else o.copyOk && s.buffersOk o
  if !ok then 3 else if o.namesPeer && o.peer.isNone then 4 else if o.overlaps then 7 else 0

/-- Tiles read are recorded (R357). -/
def State.noteTiles (s : State) (o : CopyOp) (va n : Nat) : State :=
  (tilesOf va n).foldl (fun s t => s.noteRead o.trace o.blk t) s

/-- The tiles that a COPY with a virtual source names, row by row (R357). -/
def State.noteRows (s : State) (o : CopyOp) : State :=
  if o.trace = 0 ∨ o.sk ≠ 0 then s
  else (List.range o.rows).foldl (fun s r => s.noteTiles o (o.source r) o.bytes) s

/-- A GATHERP is accepted once its list has been read (R194, R196): its pages are recorded. -/
def State.acceptList (s : State) (o : CopyOp) : State :=
  let c := s.core o.core
  let x := c.ctx o.cid
  let a := dw o.packet 7
  if !x.inWindow a (4 * o.rows) then s.opEnd o 2
  else
    let p := x.poolAddr a
    let r := c.copyRead s.cycle o.id p (4 * o.rows) o.got
    let s1 := s.setCore o.core r.2.2
    let o1 := { o with got := r.2.1 }
    if r.1 then
      let s2 := if o.trace = 0 then s1 else (List.range o.rows).foldl (fun s j =>
        let n := o1.listEntry p j
        if n = 0xFFFFFFFF then s else s.noteTiles o (o1.page n) o.bytes) s1
      s2.setOp { o1 with accepted := true }
    else s1.setOp { o1 with notBefore := s.cycle + 1 }

/-- The engine accepts a packet of COPY, COPYO or GATHERP. -/
def State.accept (s : State) (o : CopyOp) : State :=
  let o1 := { o with peer := if o.namesPeer then s.peerOf o else none }
  match s.packetStatus o1 with
  | 0 => if o.kind = 2 then s.acceptList o1 else (s.noteRows o1).setOp { o1 with accepted := true }
  | status => s.opEnd o1 status

/-- May a COPYO begin (R194, R322): has every lower-numbered operation of its counter completed? -/
def State.mayBegin (s : State) (o : CopyOp) : Bool :=
  decide (o.kind ≠ 1) || decide (o.num ≤ (((s.core o.core).ctx o.cid).timeline o.tl).c + 1)

/-- Has the peer's gang member left before the last row has been moved (R338)? A row whose pieces are being written is
finished first, and the rows written before stay (log 116). -/
def State.peerGone (s : State) (o : CopyOp) : Bool := o.namesPeer && o.todo.isEmpty && decide (s.peerOf o ≠ o.peer)

/-- The next thing a COPY, COPYO or GATHERP does. -/
def State.transferStep (s : State) (o : CopyOp) : State :=
  let x := (s.core o.core).ctx o.cid
  if !o.accepted then s.accept o
  else if !s.mayBegin o then s.opLater o
  else if s.peerGone o then s.opEnd o 4
  else if !o.todo.isEmpty then s.deliverRow o
  else if !o.rowIds.isEmpty then
    if o.rowIds.all fun id => s.visibleAt o.scope o.die id then s.rowDone { o with rowIds := [] } true else s.opLater o
  else if o.kind = 2 ∧ o.listEntry (x.poolAddr (dw o.packet 7)) o.row = 0xFFFFFFFF then s.rowDone o false
  else match o.data with
    | some bytes => s.writeDest o bytes
    | none => s.readSource o

/-! ## MPOST and TQPUSH (R197, R198, R284, R305, R344) -/

/-- Does an earlier operation of the same context and kind come first (R197, R198)? The context is the whole execution
context of the core, whatever the counter (log 51). -/
def State.opBehind (s : State) (o : CopyOp) (same : CopyOp → Bool) : Bool :=
  s.ops.any fun k => decide (k.id < o.id) && decide (k.kind = o.kind) && decide (k.core = o.core) && (k.cid == o.cid) &&
    same k && (match k.stage with
      | .landing => false
      | .done _ => false
      | _ => true)

/-- An MPOST sends its message (R197, R305, R329, R335): to the registration, or by a link to another package (R344), whose
answer is its own. -/
def State.postStep (s : State) (o : CopyOp) : State :=
  let va := dw64 o.packet 1
  if !o.postOk then s.opEnd o 3
  else if s.opBehind o (fun k => decide (dw64 k.packet 1 = va) && (match k.stage with
      | .waiting => false
      | _ => true)) then s.opLater o
  else match s.translatePart o va 64 true with
    | .ok parts =>
      if parts.any fun p => decide (p.2.2.kind = 2) then
        let t := s.draw
        t.2.opEnd o (if t.1 % 2 = 0 then 0 else 5)
      else match s.mailboxAt o.asid fun a => decide (a = va) with
        | some (n, _) =>
          let len := dw o.packet 0
          let words := [BitVec.ofNat 32 len] ++ ((o.packet.drop 3).take len)
          (s.post n 0 o.core o.tl ⟨0, o.core, some o.id, words, o.die, o.clock⟩).setOp
            { o with stage := .waiting, accepted := true, scope := max o.scope 3 }
        | none => s.opEnd o 5
    | t => s.badTranslation o t

/-- The record words of a TQPUSH. -/
def CopyOp.record (o : CopyOp) : List Word := (o.packet.drop 4).take 8

/-- A TQPUSH is checked (R198, R284) and waits for its place. -/
def State.pushStep (s : State) (o : CopyOp) : State :=
  let q := dw o.packet 0
  if !o.pushOk then s.opEnd o 3
  else match o.launch with
    | none => s.opEnd o 6
    | some n =>
      if (s.queue q).launch ≠ some n then s.opEnd o 6
      else if (s.queue q).wired then s.setOp { o with stage := .waiting, notBefore := s.cycle + 1 }
      else match s.launch n with
        | none => s.opEnd o 6
        | some l =>
          if !(l.recordOk (s.dist.queueLevel q) o.record) then s.opEnd o 3
          else s.setOp { o with stage := .waiting, notBefore := s.cycle + 1 }

/-- COPY_ROW (R194 to R198, R335): the next thing a copy engine does for an operation: it accepts the packet, reads a row
or place, writes it, or takes the tag of a fault. -/
def execCopyRow (op : Nat) (s : State) : Out :=
  match s.op op with
  | none => .next s
  | some o =>
    match o.stage with
    | .ready =>
      if s.cycle < o.notBefore then .next s
      else match o.kind with
        | 3 => .next (s.postStep o)
        | 4 => .next (s.pushStep o)
        | k => .next (if k ≤ 2 then (s.transferStep o).keepRecord o.trace o.blk else s)
    | .faulted none need level cause => .next (s.takeTag o need level cause)
    | _ => .next s

/-! ## Completion (R193, R281, R305) -/

/-- Is every write of an operation visible at its scope (R310)? -/
def State.landed (s : State) (o : CopyOp) : Bool := o.unseen.all fun id => s.visibleAt o.scope o.die id

/-- Does a row of a range of a copy's destination cover an address? -/
def CopyOp.covers (o : CopyOp) (va : Nat) : Bool :=
  decide (o.kind ≤ 2) && decide (o.dk = 0) &&
    (List.range o.row).any fun r => decide (o.dest r ≤ va) && decide (va < o.dest r + o.bytes)

/-- A completed copy that covers a mailbox address posts a message of length 0 (R305). -/
def State.copyMessage (s : State) (o : CopyOp) : State :=
  if o.kind ≤ 2 ∧ o.dk = 0 then
    match s.mailboxAt o.asid o.covers with
    | some (n, _) => s.post n 1 o.core o.tl ⟨0, o.core, none, [0#32], o.die, o.clock⟩
    | none => s
  else s

/-- An operation whose last words are written is complete (R193): its number counts from the next cycle, its writes' numbers
count as completed (R316.2), and it is gone. -/
def State.retireOp (s : State) (o : CopyOp) : State :=
  let s1 := s.onCore o.core fun c => c.onCtx o.cid fun x =>
      let x1 := x.complete o.tl o.num s.cycle
      { x1 with clocks := x1.clocks ++ [(o.tl, o.num, o.kv)] }
  let s2 := s1.onDie o.die fun d => { d with open_ := d.open_.filter fun e => !(o.unseen.contains e.2) }
  let late := o.unseen.filter fun id => !s.visible id
  let s3 := match o.launch with
    | some n => if late.isEmpty then s2 else s2.onLaunch n fun l => { l with writes := l.writes ++ late }
    | none => s2
  { s3 with ops := s3.ops.filter fun k => !decide (k.id = o.id) }

/-- The last words of an operation are written to its packet, which lies in one row of a bank, and it is complete; in a busy
bank they wait for a window (R246, R252). -/
def State.closeOp (s : State) (o : CopyOp) (words : List (Nat × Word)) : State :=
  let c := s.core o.core
  let x := c.ctx o.cid
  let r := c.putCells s.cycle 21 (.copy o.id (rowOf (x.poolAddr o.addr)))
    (words.flatMap fun w => wordCells (x.poolAddr (o.addr + w.1)) w.2)
  let s1 := s.setCore o.core r.2
  if r.1 then s1.retireOp o else s1.setOp { o with stage := .done words, notBefore := s.cycle + 1 }

/-- An operation completes (R193): STATUS is written. -/
def State.finishOp (s : State) (o : CopyOp) : State := s.closeOp o [(60, BitVec.ofNat 32 o.status)]

/-- A record enters a wired queue, with the clock of its TQPUSH (R281, R311). -/
def State.enterWired (s : State) (q : Nat) (w : List Word) (clock : Store Nat) : State :=
  let o := (s.queue q).ring.next
  (s.ringEnter q w).onQueue q fun k => { k with ring := { k.ring with clocks := k.ring.clocks ++ [(o, clock)] } }

/-- A TQPUSH's record enters its queue (R198, R281, R284, R285), and it completes. -/
def State.enterPush (s : State) (o : CopyOp) : State :=
  let q := dw o.packet 0
  let w := o.record
  if (s.queue q).launch ≠ o.launch then s.finishOp { o with status := 6 }
  else if (s.queue q).wired then (s.enterWired q w o.clock).finishOp o
  else match o.launch.bind s.launch with
    | none => s.finishOp { o with status := 6 }
    | some l => match s.successors l (field (dw w 2) 16 16) (dw w 3) with
      | none => s.finishOp { o with status := 1 }
      | some succ => (s.enterRecord q (l.record w succ false none o.clock)).finishOp o

/-- Has a TQPUSH its turn among those of its context to its queue (R198)? -/
def State.pushTurn (s : State) (o : CopyOp) : Bool :=
  decide (o.kind = 4) && decide (o.notBefore ≤ s.cycle) && (match o.stage with
    | .waiting => true
    | _ => false) && !s.opBehind o fun k => decide (dw k.packet 0 = dw o.packet 0)

/-- Must the TQPUSH of another context to the same queue enter before this one in a cycle: by ascending core, then counter
(R281)? -/
def State.pushFirst (s : State) (o : CopyOp) : Bool :=
  s.ops.any fun k => decide (dw k.packet 0 = dw o.packet 0) && decide (32 * k.core + k.tl < 32 * o.core + o.tl) &&
    !(decide (k.core = o.core) && (k.cid == o.cid)) && s.pushTurn k

/-- Can an operation complete in this cycle: a TQPUSH has its turn and a place, the others have landed? -/
def State.opReady (s : State) (o : CopyOp) : Bool :=
  match o.stage with
  | .landing => decide (o.kind ≤ 4) && s.landed o
  | .done _ => decide (o.notBefore ≤ s.cycle)
  | .waiting => s.pushTurn o && s.queueOpen (dw o.packet 0) && !s.pushFirst o
  | _ => false

/-- COPY_COMPLETE (R193, R198, R281, R305, R310, R337). -/
def execCopyComplete (op : Nat) (s : State) : Out :=
  match s.op op with
  | none => .next s
  | some o =>
    if s.opReady o then
      match o.stage with
      | .waiting => .next (s.enterPush o)
      | .done words => .next (s.closeOp o words)
      | _ => .next ((s.copyMessage o).finishOp o)
    else .next s

end Sys2Proof.Machine
end

