-- ==== Sys2Proof/Machine/Launch.lean ====
section
/-! DEFINITION. Launches: the checks in their order, acceptance and completion (R31, R74, R116, R124, R125, R144, R284,
R285, R289, R294 to R296, R302, R353, R361, R362, R365, R368). -/

namespace Sys2Proof.Machine

/-! ## The image (R124, R125) -/

/-- Bytes at virtual addresses read by the distributor: none where a translation is refused (R329). -/
def State.readParts0 (s : State) (asid : Nat) : List (Nat × Nat) → Option (List Byte)
  | [] => some []
  | (va, n) :: l => match s.readPage asid va n with
    | some b => (State.readParts0 s asid l).map fun r => b ++ r
    | none => none

/-- `n` bytes at a virtual address below 2^52. -/
def State.readRange (s : State) (asid va n : Nat) : Option (List Byte) :=
  if 2 ^ 52 < va + n then none else s.readParts0 asid (pageParts (n / 65536 + 2) va n)

/-- The header's words obey R124; a field out of its range refuses the launch as a must-be-zero bit does (R125, log 123). -/
def headerOk (h : List Nat) : Bool :=
  let w (k : Nat) : Nat := h.getD k 0
  decide (w 0 = 0x36314B43) && decide (w 1 = 0x00010000) && decide (w 3 < 2 ^ 15) && decide (1 ≤ w 4) &&
  decide (w 4 ≤ 2048) && decide (w 5 % 64 = 0) && decide (w 6 ≤ 2047) && decide (w 7 % 64 = 0) && decide (w 8 % 4 = 0) &&
  decide (w 8 ≤ 65536) && decide (w 9 % 64 = 0) && decide (8 ≤ w 10) && decide (w 10 ≤ 16384) && decide (w 11 ≤ 1) &&
  [12, 13, 14, 15].all fun k => decide (w k = 0)

/-- Code indices of the code section. -/
def codeOf (lines : Nat) (b : List Byte) : Store (BitVec 16) :=
  ((List.range (16 * lines)).map fun k => (k, BitVec.ofNat 16 (ofBytes ((b.drop (2 * k)).take 2)))).filter
    fun e => !decide (e.2 = 0#16)

/-- Dictionary entries 1 to n (R70, R75, R124). -/
def dictOf (n : Nat) (b : List Byte) : Store (Option (BitVec 384)) :=
  (List.range n).map fun k => (k + 1, some (BitVec.ofNat 384 (ofBytes ((b.drop (48 * k)).take 48))))

/-- The first entry that breaks a rule decided by its bits: its number and lowest failing syllable (R74). -/
def badEntry (d : Store (Option (BitVec 384))) : Option (Nat × Nat) :=
  firstSome (fun (e : Nat × Option (BitVec 384)) => match e.2 with
    | some w => match decodeBundle w.toNat with
      | .ok _ => none
      | .error f => some (e.1, f.syllable)
    | none => none) d

/-- Does a section run past the end of an image (R125)? The header gives no length: an end stands where whoever put the image
there knows of one (log 58). -/
def pastEnd (bytes : Option Nat) (off n : Nat) : Bool := match bytes with
  | some e => decide (e < off + n)
  | none => false

/-- The image at a virtual address: an image, or the STATUS that refuses it (R125, R144, R368 checks 2 to 5), with what
the completion record of a dictionary fault names. -/
def State.loadImage (s : State) (asid va : Nat) : Except (Nat × Nat × Nat) Image :=
  match s.readRange asid va 64 with
  | none => .error (6, 0, 0)
  | some hb =>
    let h := (List.range 16).map fun k => wordAt hb (4 * k)
    let w (k : Nat) : Nat := h.getD k 0
    let past (off n : Nat) : Bool := pastEnd (Store.get none s.images (2 ^ 52 * asid + va)) off n
    if !headerOk h || past (w 5) (32 * w 4) || past (w 7) (48 * w 6) || past (w 9) (w 8) then .error (1, 0, 0)
    else match s.readRange asid (va + w 5) (32 * w 4), s.readRange asid (va + w 7) (48 * w 6),
        s.readRange asid (va + w 9) (w 8) with
      | some code, some dict, some pre =>
        if !partitionOk (w 2) then .error (2, 0, 0)
        else
          let d := dictOf (w 6) dict
          match badEntry d with
          | some e => .error (3, e.1, e.2)
          | none => .ok ⟨BitVec.ofNat 32 (w 2), w 3, w 4, codeOf (w 4) code, d, cellsAt 0 pre, decide (w 11 = 1)⟩
      | _, _, _ => .error (6, 0, 0)

/-! ## The descriptor (R144, R294, R368) -/

/-- Check 1: fields given as zero, and the alignments. -/
def descriptorOk (d : List Word) : Bool :=
  decide (dw d 0 % 64 = 0) && decide (dw d 2 % 16384 = 0) && decide (dw d 4 < 65536) &&
  decide (field (dw d 5) 3 13 = 0) && decide (field (dw d 5) 28 4 = 0) && decide (dw d 7 < 65536) &&
  decide (dw d 8 < 65536) && decide (dw d 9 < 1024) && decide (field (dw d 10) 4 4 = 0) && decide (dw d 10 < 65536) &&
  decide (dw d 11 < 65536) && decide (field (dw d 12) 14 2 = 0) && decide (dw d 14 = 0)

/-- Blocks, gang, and the dies allowed. -/
def descBlocks (d : List Word) : Nat := dw d 4 + 1

/-- GANG. -/
def descGang (d : List Word) : Bool := bitOf (dw d 5) 2

/-- DIES: 0 allows every die. -/
def descDies (d : List Word) : Nat := if dw d 8 = 0 then 0xFFFF else dw d 8

/-- Is every block of a launch placed at once (R289, R298)? -/
def descTogether (d : List Word) : Bool := descGang d || bitOf (dw d 10) 2 || bitOf (dw d 10) 3

/-- Check 7: a stack of CHMAP has a retired channel (R296); a fenced one counts as retired (R348). -/
def State.layoutRefused (s : State) (d : List Word) : Bool :=
  dies16.any fun k => bitOf (dw d 7) k &&
    (decide (Store.get 0#32 s.dist.retmap k ≠ 0#32) || s.dist.fenced.any fun e => decide (e.1 = k))

/-- Check 11: placement is impossible (R295, STATUS 9). -/
def placementBad (d : List Word) : Bool :=
  let n := descBlocks d
  let dies := descDies d
  let c := field (dw d 9) 0 9
  let pinned := bitOf (dw d 9) 9
  (descGang d && decide (32 < n)) ||
  (pinned && (decide (512 < c + n) || !((List.range n).all fun b => bitOf dies ((c + b) / 32)) ||
    (descGang d && decide (c / 32 ≠ (c + n - 1) / 32)))) ||
  ((bitOf (dw d 10) 2 || bitOf (dw d 10) 3) && decide (32 * popcount dies 16 < n))

/-- The queues a launch opens. -/
def descQueues (d : List Word) : List Nat := (List.range (field (dw d 11) 8 8)).map fun k => field (dw d 11) 0 8 + k

/-- WIRE, WQ and WPIPE. -/
def descWire (d : List Word) : Option (Nat × Nat) :=
  if bitOf (dw d 12) 13 then some (field (dw d 12) 0 8, field (dw d 12) 8 5) else none

/-- Check 12: queues and wiring (R295, STATUS 10). -/
def State.queuesBad (s : State) (d : List Word) : Bool :=
  let qs := descQueues d
  qs.any (fun q => decide (256 ≤ q) || decide (q < 4) || (s.queue q).launch.isSome) ||
  (match descWire d with
    | some w => !(qs.contains w.1) || !descGang d
    | none => false)

/-- The block table: PRED, NSUCC and SLIST of each block, or none where it breaks R284 or the tile (check 13). -/
def blockTable (d : List Word) (tile : List Byte) : Option (List (Nat × Nat × Nat)) :=
  let n := descBlocks d
  let off := 8 * field (dw d 12) 16 16
  if off = 0 then some (List.replicate n (0, 0, 0))
  else if 16384 < off + 8 * n then none
  else
    let t := (List.range n).map fun b =>
      let e := wordAt tile (off + 8 * b)
      (field e 0 16, field e 16 16, wordAt tile (off + 8 * b + 4))
    if t.all fun e => listOk e.2.1 e.2.2 then some t else none

/-- A successor list in the tile. -/
def listIn (tile : List Byte) (nsucc slist : Nat) : List Nat :=
  (List.range nsucc).map fun k => ofBytes ((tile.drop (slist + 2 * k)).take 2)

/-- Checks 8 to 10: the trace (R144, R353, R363); 0 where they pass. -/
def State.traceStatus (s : State) (d : List Word) (asid : Nat) (re : Bool) : Nat :=
  let h := dw d 6
  if h = 0 ∧ re = false then 0
  else match s.trace h with
    | none => 5
    | some t =>
      if t.asid ≠ asid then 5
      else if re then match t.recorded with
        | none => 8
        | some r => if decide (r.1 = dw64 d 0) && decide (r.2.2.1 = dw d 4) && (r.2.2.2 == descGang d) then 0 else 13
      else 0

/-- What the checks of R368 give: the STATUS that refuses, or the image, the tile and the block table. -/
def State.checkLaunch (s : State) (d : List Word) (asid : Nat) (re : Bool) :
    Except (Nat × Nat × Nat) (Image × List Byte × List (Nat × Nat × Nat)) :=
  let no (status : Nat) : Except (Nat × Nat × Nat) (Image × List Byte × List (Nat × Nat × Nat)) := .error (status, 0, 0)
  if !descriptorOk d then no 7
  else match s.readRange asid (dw64 d 2) 16384, s.loadImage asid (dw64 d 0) with
    | none, _ => no 6
    | _, .error e => .error e
    | some tile, .ok image =>
      if image.lines < field (dw d 5) 16 12 then no 7
      else if s.layoutRefused d then no 4
      else if s.traceStatus d asid re ≠ 0 then no (s.traceStatus d asid re)
      else if placementBad d then no 9
      else if s.queuesBad d then no 10
      else match blockTable d tile with
        | none => no 11
        | some t => .ok (image, tile, t)

/-! ## Acceptance -/

/-- The lowest launch number not in use (R288). -/
def Distributor.freeNumber (d : Distributor) : Option Nat :=
  (List.range 4096).find? fun n => !(d.launches.any fun l => decide (l.num = n))

/-- The record of block b (R284, R294). -/
def blockRecord (d : List Word) (num : Nat) (image : Image) (pred nsucc slist b : Nat) (succ : List Nat) : Record :=
  let w (n : Nat) : Word := BitVec.ofNat 32 n
  let prio := field (dw d 5) 0 2
  { launch := num, blk := b, entry := image.entry, prio := prio, release := dw d 13, succ := succ, ready := false,
    group := descTogether d, mailbox := none,
    words := [w image.entry, image.partition, w (pred + 65536 * nsucc), w slist, w (dw d 13), w prio, 0#32, w b]
    clock := [] }

/-- The records of a launch's blocks in ascending number (R284, R294). -/
def blockRecords (d : List Word) (num : Nat) (image : Image) (tile : List Byte) (table : List (Nat × Nat × Nat)) :
    List Record :=
  (List.range (descBlocks d)).map fun b =>
    let e := table.getD b (0, 0, 0)
    blockRecord d num image e.1 e.2.1 e.2.2 b (listIn tile e.2.1 e.2.2)

/-- Are there places for `n` records in a queue, in its entries or in the lending pool (R281, log 42)? -/
def State.placesFor (s : State) (q n : Nat) : Bool :=
  let r := (s.queue q).ring
  (r.lent.isEmpty && decide (r.entries.length + n ≤ 32)) || decide (n ≤ 32 * (s.die 0).lend)

/-- The distributor writes the tile's address at its offsets 0 to 7 (R116), unfiltered (R355): as a stamped write of die 0
(R316), whose clock and number the launch's blocks start with (R311). -/
def State.writeTile (s : State) (asid va : Nat) : Store Nat × State :=
  match s.translateNow 0 asid va false with
  | some l =>
    let v := s.clockOf 0
    let r := s.sendWrite 0 (some v) false l.kind l.copies (l.translate va) (toBytes va 8)
    (Store.set 0 v 0 (r.2.die 0).sent, r.2.closeWrite 0 r.1)
  | none => ([], s)

/-- Are there forwards of applied writes that have not arrived: writes whose bits have been set and which are not yet
visible at pkg scope (R361, R364)? -/
def State.forwarding (s : State) : Bool := s.dies.any fun e => e.2.incoming.any fun w => !w.home

/-- Watched tiles T of a trace (R352). -/
def Trace.tileCount (t : Trace) : Nat := (t.windows.map fun w => w.2).sum

/-- Bytes of the dirty bitmap (R352). -/
def Trace.bitmapBytes (t : Trace) : Nat := 64 * ceilDiv' (t.tileCount + 1) 512

/-- The pages of the trace's own memory in a range. -/
def tracePages (va n : Nat) : List (Nat × Nat) := pageParts (n / 65536 + 2) va n

/-- Bytes that the trace itself writes at a virtual address, unfiltered (R352): a refused one marks it LOST (R356). -/
def State.writeTrace (s : State) (h asid va : Nat) (bytes : List Byte) : State :=
  ((tracePages va bytes.length).foldl (fun (e : List Byte × State) p =>
    let s1 := (e.2.translateNow 0 asid p.1 true).bind fun l => e.2.writeOwn l p.1 (e.1.take p.2)
    (e.1.drop p.2, s1.getD (e.2.loseTrace h))) (bytes, s)).2

/-- Bytes of the trace's own memory, whose pages need W alone (R351, R364): none where they are refused. -/
def State.readTrace (s : State) (asid va n : Nat) : Option (List Byte) :=
  (tracePages va n).foldl (fun (e : Option (List Byte)) p =>
    e.bind fun b => match s.translateNow 0 asid p.1 true with
      | some l =>
        if l.kind = 0 && !s.fencedRange (l.translate p.1) p.2 then some (b ++ Memory.bytes s.hbm (l.translate p.1) p.2)
        else none
      | none => none) (some [])

/-- The physical tile of a virtual tile address, when a valid mapping to device memory leads there, whatever it permits (R351,
R354). -/
def State.watchTile (s : State) (asid va : Nat) : Option Nat :=
  match s.leafNow 0 noEngine asid va with
  | some l => if l.kind = 0 then some (l.translate va / 16384) else none
  | none => none

/-- Bit T watches the tile of a PARAM (R362). -/
def State.watchParam (s : State) (t : Trace) (va : Nat) : State :=
  let bit := t.tileCount
  let new := match s.watchTile t.asid va with
    | some p => [(p, bit)]
    | none => []
  s.onTrace t.handle fun t => { t with watch := (t.watch.filter fun w => !decide (w.2 = bit)) ++ new }

/-- The step of R361 at the acceptance of a LAUNCH that names a trace. -/
def State.traceBegins (s : State) (h : Nat) (d : List Word) : State :=
  match s.trace h with
  | none => s
  | some t =>
    let s1 := (s.dropRecords h).onTrace h fun t => { t with
      stale := [], lost := false, recorded := some (dw64 d 0, dw64 d 2, dw d 4, descGang d) }
    (s1.writeTrace h t.asid t.bmap (zeroBytes (t.bitmapBytes + 64))).watchParam t (dw64 d 2)

/-- A launch ends at once with a status (R144). DESIGN CHOICE: the completion record of a launch refused at dictionary load
(R74) is an event of kind 3 in die 0's event log, with the operation, the entry and the syllable (log 117). -/
def State.refuseLaunch (s : State) (o : CopyOp) (e : Nat × Nat × Nat) : State :=
  let s1 := if e.1 = 3 ∧ e.2.1 ≠ 0 then
      s.onDie 0 fun d => { d with log := d.log ++ [⟨3, o.id, e.2.1, e.2.2⟩] }
    else s
  (s1.finishOp { o with status := e.1 }).onDist fun d => { d with waiting := d.waiting.filter fun k => !decide (k = o.id) }

/-- An accepted launch: its number, its queues, its blocks (R144, R288, R289, R294, R361). A RELAUNCH's blocks wait for
their choice (R363). -/
def State.acceptLaunch (s : State) (o : CopyOp) (num : Nat) (image : Image) (tile : List Byte)
    (table : List (Nat × Nat × Nat)) : State :=
  let d := o.packet
  let re := decide (o.kind = 6)
  let l : Launch :=
    { num := num, op := o.id, relaunch := re, asid := o.asid, desc := d, image := image, prio := field (dw d 5) 0 2,
      blocks := descBlocks d, gang := descGang d, dies := descDies d
      pin := if bitOf (dw d 9) 9 then some (field (dw d 9) 0 9) else none
      bars := if descGang d then field (dw d 10) 0 4 else 4 * field (dw d 10) 2 2
      ptag := field (dw d 10) 8 8, qbase := field (dw d 11) 0 8, qcnt := field (dw d 11) 8 8, wire := descWire d
      trace := dw d 6, window := if field (dw d 5) 16 12 = 0 then image.lines else field (dw d 5) 16 12
      deps := [], left := if re then [] else List.range (descBlocks d), placed := 0, killed := false, chosen := none,
      oldW := [], writes := [], prepared := if re then blockRecords d num image tile table else [], redone := []
      clock := [] }
  let s1 := s.onDist fun d => { d with launches := d.launches ++ [l], waiting := d.waiting.filter fun k => !decide (k = o.id) }
  let s2 := (descQueues d).foldl (fun s q => s.onQueue q fun k =>
    { k with launch := some num, wired := decide ((descWire d).map (fun w => w.1) = some q), recs := [], ring := Ring.empty }) s1
  let t := s2.writeTile o.asid (dw64 d 2)
  let s3 := t.2.onLaunch num fun l => { l with clock := mergeMax o.clock t.1 }
  if re then s3
  else
    let s4 := if dw d 6 = 0 then s3 else s3.traceBegins (dw d 6) d
    (blockRecords d num image tile table).foldl (fun s r => s.enterRecord l.prio r) s4

/-- Does a live launch name a trace (R353)? -/
def Distributor.traceBusy (d : Distributor) (h : Nat) : Bool := decide (h ≠ 0) && d.launches.any fun l => decide (l.trace = h)

/-- Can a LAUNCH or RELAUNCH be taken up in this cycle (R288, R353, R361)? -/
def State.launchReady (s : State) (o : CopyOp) : Bool :=
  (decide (o.kind = 5) || decide (o.kind = 6)) && decide (o.notBefore ≤ s.cycle) &&
  (match o.stage with
    | .ready => true
    | _ => false) &&
  !s.dist.traceBusy (dw o.packet 6) && (decide (dw o.packet 6 = 0) || !s.forwarding) &&
  s.dist.freeNumber.isSome && s.placesFor (field (dw o.packet 5) 0 2) (field (dw o.packet 4) 0 16 + 1)

/-- LAUNCH_ACCEPT (R144, R347, R368): the checks in their order, then acceptance. Before bring-up is done a launch is refused,
with a STATUS that no rule states (a free value, log 117). -/
def execLaunchAccept (id : Nat) (s : State) : Out :=
  match s.op id with
  | none => .next s
  | some o =>
    if s.launchReady o then
      if (s.die 0).stage ≠ 6 then
        let t := s.draw
        .next (t.2.refuseLaunch o (t.1 % (2 ^ 32 - 1) + 1, 0, 0))
      else match s.checkLaunch o.packet o.asid (decide (o.kind = 6)), s.dist.freeNumber with
      | .error e, _ => .next (s.refuseLaunch o e)
      | .ok r, some num => .next ((s.setOp { o with stage := .landing }).acceptLaunch o num r.1 r.2.1 r.2.2)
      | .ok _, none => .next s
    else .next s

/-! ## Completion (R294, R302, R304) -/

/-- Does a queue of a launch hold a record that a decrement could still make ready, or that waits only for its tick
(R302)? -/
def State.recordsPending (s : State) (l : Launch) : Bool :=
  s.dist.queues.any fun e => decide (e.2.launch = some l.num) && !e.2.wired && e.2.recs.any fun r =>
    r.ready || decide (Store.get 0 l.deps r.blk = 0)

/-- Has a killed block of a launch operations outstanding that still write memory (R144, R303, R367)? -/
def State.stillWrites (s : State) (l : Launch) : Bool :=
  (s.ops.any fun o => decide (o.launch = some l.num) && (decide (o.kind ≤ 2) || (decide (o.kind = 3) && !o.unseen.isEmpty))) ||
  (s.contexts.any fun e => match e.2.task with
    | some t => decide (t.launch = l.num) && decide (e.2.phase = .killed) && !(e.2.timeline 2).out.isEmpty
    | none => false)

/-- The end of a launch has come (R302, R366), and its blocks' writes are visible (R144). -/
def State.launchDone (s : State) (l : Launch) : Bool :=
  l.left.isEmpty && !s.stillWrites l && decide (l.placed = 0) && !s.recordsPending l && (!l.relaunch || l.chosen.isSome) &&
    l.writes.all fun id => s.visible id

/-- The queues of a launch close (R294, R302): their records are discarded, wired pipes break, and the registrations of
their mailboxes are removed (R304). -/
def State.closeQueues (s : State) (l : Launch) : State :=
  let mine (q : Nat) : Bool := decide ((s.queue q).launch = some l.num)
  let gone := s.dist.mailboxes.filterMap fun e => match e.2 with
    | some m => if mine m.queue then some m else none
    | none => none
  let ops := (gone.map fun m => m.waiting.filterMap fun w => w.op).flatten
  let s1 := s.dist.queues.foldl (fun s e => if mine e.1 then
      (s.onQueue e.1 fun k => { k with launch := none, wired := false, recs := [], ring := Ring.empty }).lendBlocks 0 0
        e.2.ring.blocks
    else s) s
  let s2 := s1.onDist fun d => { d with
    mailboxes := d.mailboxes.filter fun e => match e.2 with
      | some m => !mine m.queue
      | none => true
    gangs := d.gangs.map fun e => (e.1, e.2.map fun g => { g with pipes := g.pipes.map fun p =>
      (p.1, match p.2.wire with
        | some q => if mine q then { p.2 with broken := true } else p.2
        | none => p.2) }) }
  { s2 with
    ops := s2.ops.map fun o => if ops.contains o.id then { o with stage := .landing, status := 5 } else o
    dies := s2.dies.map fun e => (e.1, { e.2 with tags := e.2.tags.filter fun t => !ops.contains t.2 }) }

/-- A launch completes on its counter (R302, R303), and its number is free. -/
def State.endLaunch (s : State) (l : Launch) : State :=
  let s1 := s.closeQueues l
  let s2 := match s1.op l.op with
    | some o => s1.finishOp { o with status := if l.killed then 12 else 0, kv := mergeMax o.kv l.clock }
    | none => s1
  s2.onDist fun d => { d with launches := d.launches.filter fun k => !decide (k.num = l.num) }

/-- LAUNCH_COMPLETE (R302). -/
def execLaunchComplete (id : Nat) (s : State) : Out :=
  match s.launch id with
  | none => .next s
  | some l => .next (if !l.relaunch && s.launchDone l then s.endLaunch l else s)

end Sys2Proof.Machine
end

