-- ==== Sys2Proof/Machine/Matrix.lean ====
section
/-! DEFINITION. The matrix engine: MMA, MMAS, split MMA, MZERO, MDRAIN, MBSEL, FMTT and their steps (R58, R59, R63, R64,
R66, R67, R79, R103, R199 to R211). -/

namespace Sys2Proof.Machine

/-! ## The format table (R66, R67) -/

/-- The entry in force: codes of A and B, scale base (R39, R67). -/
def Ctx.fmtEntry (x : Ctx) : Nat × Nat × Nat :=
  let n := match x.regs.loops[x.fmtSel.toNat % 8]? with
    | some l => l.idx % 16
    | none => 0
  let w := (Store.get 0#32 x.fmt n).toNat
  (field w 28 4, field w 24 4, field w 16 8)

/-- The accumulator of an entry (R66): true for FP32, false for INT32, none for an entry that is refused. -/
def entryKind (e : Nat × Nat × Nat) : Option Bool :=
  let a := e.1
  let b := e.2.1
  let fp (c : Nat) : Bool := [4, 5, 6, 8, 9, 10].contains c
  if a ≤ 3 ∧ b ≤ 3 then some false
  else if (fp a && fp b) || (decide (a = 7) && decide (b = 7)) then
    if e.2.2 = 255 then none else some true
  else none

/-- Width of a format code (R66). -/
def codeWidth (c : Nat) : Nat := if c = 7 then 16 else if [2, 3, 5, 9].contains c then 4 else 8

/-- Is a format code block-scaled (R66)? -/
def codeScaled (c : Nat) : Bool := decide (8 ≤ c)

/-- The value of a stored element of a floating-point code (R59, R66). -/
def codeVal (c x : Nat) : Val :=
  if c = 7 then decodeVal 8 x
  else if c = 4 ∨ c = 8 then decodeVal 11 x
  else if c = 5 ∨ c = 9 then decodeVal 12 x
  else decodeVal 13 x

/-- The value of a stored element of an integer code. -/
def codeInt (c x : Nat) : Int := if c = 0 then toSigned x 8 else if c = 2 then toSigned x 4 else (x : Int)

/-- A value times an E8M0 scale, exactly (R50): 0xFF is NaN. -/
def scaleVal (v : Val) (x : Nat) : Val :=
  if x = 255 then .nan false true 0 0
  else match v with
    | .num n m e => .num n m (e + x - 127)
    | v => v

/-! ## One issue (R201 to R205) -/

/-- What an issue consumes: A reads, B lines, K positions, stored elements of A, elements in a rounding group. -/
structure MmaPlan where
  c : Nat
  d : Nat
  kc : Nat
  stored : Nat
  group : Nat
  deriving DecidableEq, Repr

/-- The pairs that a split MMA keeps (R63, R205). -/
def splitPairs (s : Nat) (tri : Bool) : List (Nat × Nat) :=
  ((List.range s).map fun p => ((List.range s).filter fun q => !tri || decide (p + q ≤ s - 1)).map fun q => (p, q)).flatten

/-- The plan of a split MMA (R205). -/
def splitPlan (o : EmOp) : Option MmaPlan :=
  let beats := o.head.beats.toNat + 1
  let n := (splitPairs (6 + o.sl.toNat) o.tri).length
  if beats % n = 0 then
    let k := beats / n
    some ⟨1 + 2 * k, 1 + 2 * k, k, k, 1⟩
  else none

/-- N of an N-of-64 operand, 64 when dense (R203). -/
def sparseN (mode : Nat) : Nat := if mode = 1 then 32 else if mode = 2 then 16 else 64

/-- Stored A elements in one read (R202, R203). -/
def readElems (mode a : Nat) : Nat := if mode = 0 then 32 / codeWidth a else 16 / codeWidth a

/-- The plan of a dense or sparse issue (R202 to R204), none where it raises an illegal-operand fault. -/
def mmaPlan (o : EmOp) (e : Nat × Nat × Nat) : Option MmaPlan :=
  let a := e.1
  let b := e.2.1
  let mode := o.mode.toNat
  let beats := o.head.beats.toNat + 1
  let four := decide (codeWidth a = 4) && decide (codeWidth b = 4)
  let stored := if a = 7 then beats / 2 else if four then 2 * beats else beats
  let kc := stored * (64 / sparseN mode)
  let unit := if mode = 0 && !codeScaled a && !codeScaled b then 32 / min (codeWidth a) (codeWidth b) else 64
  let dense := if four then 2 else 1
  if (a = 7 ∧ beats % 2 = 1) ∨ (a = 7 ∧ mode ≠ 0) ∨ kc % unit ≠ 0 then none
  else
    some ⟨stored / readElems mode a + b2n (codeScaled a) * (kc / 64),
          kc / (32 / codeWidth b) + b2n (codeScaled b) * (kc / 64), kc, stored, dense * (64 / sparseN mode)⟩

/-- A stored element of row i (R202 to R204): its K position, its code, its block scale (127 stands for 1). -/
def aElem (mode a : Nat) (reads : List (List Word)) (i n : Nat) : Nat × Nat × Nat :=
  let per := readElems mode a
  let w := codeWidth a
  let data := sparseN mode / per
  let grp := n / sparseN mode
  let row := data + b2n (codeScaled a)
  let word := (nth0 (reads.getD (grp * row + n % sparseN mode / per) []) i).toNat
  let scale := if codeScaled a then field (nth0 (reads.getD (grp * row + data) []) i).toNat 0 8 else 127
  let u := n % per
  if mode = 0 then (n, field word (w * u) w, scale)
  else
    let f := field word (2 * w * u) (2 * w)
    (4 * (if mode = 1 then n / 2 else n) + field f w 2, field f 0 w, scale)

/-- The element at K position κ of column j (R202, R204), with its block scale. -/
def bElem (b : Nat) (lines : List (List Word)) (j k : Nat) : Nat × Nat :=
  let per := 32 / codeWidth b
  let data := 64 / per
  let row := data + b2n (codeScaled b)
  let word := (nth0 (lines.getD (k / 64 * row + k % 64 / per) []) j).toNat
  let scale := if codeScaled b then field (nth0 (lines.getD (k / 64 * row + data) []) j).toNat 0 8 else 127
  (field word (codeWidth b * (k % per)) (codeWidth b), scale)

/-- The exact sum of two values: ∞ − ∞ is a NaN (R59). -/
def addExact (x y : Val) : Val :=
  match x, y with
  | .inf n, .inf m => if n = m then .inf n else .nan false true 0 0
  | .nan _ _ _ _, _ => .nan false true 0 0
  | _, .nan _ _ _ _ => .nan false true 0 0
  | .inf n, _ => .inf n
  | _, .inf m => .inf m
  | .num n a p, .num m b q =>
    let e := min p q
    let z := intAt n a p e + intAt m b q e
    if z = 0 then .num (n && m && decide (a = 0)) 0 0 else .num (decide (z < 0)) z.natAbs e

/-- The exact product of two elements with their scales: ∞ × 0 and NaN operands give a NaN (R59). -/
def elemProduct (x y : Val) : Val := (productVal x y).getD (.nan false true 0 0)

/-- acc := RoundFP32(acc + P) (R59). -/
def accStep (acc : Word) (p : Val) : Word :=
  let v := decodeVal 9 acc.toNat
  if v.isNan || p.isNan then 0x7FC00000#32 else BitVec.ofNat 32 (sumVals 9 0 v p).1

/-- A list cut into groups of g, at most `fuel` of them. -/
def groupsOf {α : Type} (g : Nat) : Nat → List α → List (List α)
  | 0, _ => []
  | fuel + 1, l => if l.isEmpty then [] else l.take g :: groupsOf g fuel (l.drop g)

/-- FP32 accumulation (R59): one rounding per group. The sum of a group that is exactly zero is -0 only where every product is
-0 (log 122). -/
def accFloat (group : Nat) (acc : Word) (prods : List Val) : Word :=
  (groupsOf group prods.length prods).foldl (fun acc l => accStep acc (l.foldl addExact (.num true 0 0))) acc

/-- The new accumulator element of one output (R59). -/
def mmaElement (p : MmaPlan) (a b : Nat) (fp : Bool) (acc : Word) (row : List (Nat × Nat × Nat))
    (col : List (Nat × Nat)) : Word :=
  if fp then
    accFloat p.group acc (row.map fun e =>
      let y := col.getD e.1 (0, 127)
      elemProduct (scaleVal (codeVal a e.2.1) e.2.2) (scaleVal (codeVal b y.1) y.2))
  else
    acc + BitVec.ofInt 32 ((row.map fun e => codeInt a e.2.1 * codeInt b (col.getD e.1 (0, 127)).1).sum)

/-- The new elements of a dense or sparse issue, row by row (R202, R203). -/
def mmaRows (mode a b : Nat) (fp : Bool) (p : MmaPlan) (old : Nat → Nat → Word) (reads lines : List (List Word)) :
    List (Nat × Word) :=
  let cols := (List.range 64).map fun j => (List.range p.kc).map fun k => bElem b lines j k
  ((List.range 64).map fun i =>
    let row := (List.range p.stored).map fun n => aElem mode a reads i n
    (List.range 64).map fun j => (64 * i + j, mmaElement p a b fp (old i j) row (cols.getD j []))).flatten

/-- Slice number n of position κ, as a signed byte (R205). -/
def splitSlice (rows : List (List Word)) (i k n : Nat) : Int :=
  toSigned (field (nth0 (rows.getD (1 + 2 * k + n / 4) []) i).toNat (8 * (n % 4)) 8) 8

/-- What an issue adds to a split accumulator, over 2^112 (R63, R205). -/
def splitSum (pairs : List (Nat × Nat)) (reads lines : List (List Word)) (kc i j : Nat) : Int :=
  ((List.range kc).map fun k =>
    (pairs.map fun e => splitSlice reads i k e.1 * splitSlice lines j k e.2 * 2 ^ (98 - 7 * (e.1 + e.2))).sum).sum

/-- A split accumulator of five words (R205). -/
def splitAcc (r : Regs) (c i j : Nat) : Int :=
  toSigned (ofWords 32 ((List.range 5).map fun w => (r.readM (c + w) i j).toNat)) 160

/-- The six words of one output after an issue of a split MMA (R205). -/
def splitElement (r : Regs) (c : Nat) (fresh : Bool) (pairs : List (Nat × Nat)) (reads lines : List (List Word))
    (kc i j : Nat) : List (Nat × Word) :=
  let ea := field (nth0 (reads.getD 0 []) i).toNat 0 16
  let eb := field (nth0 (lines.getD 0 []) j).toNat 0 16
  let e := (ea + eb) % 65536
  let special := decide (ea = 0x7FFF) || decide (eb = 0x7FFF)
  let x := r.readM (c + 5) i j
  let ex : Word :=
    if fresh then BitVec.ofNat 32 (e + 65536 * b2n special)
    else if special || decide (x.toNat % 65536 ≠ e) then x ||| 0x10000#32 else x
  let acc := (if fresh then 0 else splitAcc r c i j) + splitSum pairs reads lines kc i j
  let n := wrapN acc 160
  ((List.range 5).map fun w => (mKey (c + w) i j, BitVec.ofNat 32 (n / 2 ^ (32 * w)))) ++ [(mKey (c + 5) i j, ex)]

/-- The new elements of a split issue. -/
def splitRows (o : EmOp) (r : Regs) (fresh : Bool) (kc : Nat) (reads lines : List (List Word)) : List (Nat × Word) :=
  let pairs := splitPairs (6 + o.sl.toNat) o.tri
  ((List.range 64).map fun i => ((List.range 64).map fun j =>
    splitElement r o.acc.toNat fresh pairs reads lines kc i j).flatten).flatten

/-! ## The engine's view of the registers -/

/-- The registers as an engine command finds them (R141, R199): what earlier engine commands and shutter instructions
still put into matrix registers is there. -/
def Ctx.engineRegs (x : Ctx) : Regs :=
  x.pend.foldl (fun r l => match l.eff with
    | .m cells => if l.eng then { r with m := setWords r.m cells } else r
    | _ => r) x.regs

/-- Matrix elements written by an engine command: results still in flight to them are dropped, since the later-issued
stands (R102), and no rollback takes them back (R230). -/
def Ctx.engineWrite (x : Ctx) (cells : List (Nat × Word)) : Ctx :=
  let regs := (cells.map fun c => c.1 / 4096).eraseDups
  let pend := x.pend.map fun l => match l.eff with
    | .m old => { l with eff := .m (old.filter fun c => !(regs.contains (c.1 / 4096))) }
    | _ => l
  { x with pend := pend }.onAllRegs fun r => { r with m := setWords r.m cells }

/-- A B-store line as 64 column words (R37). -/
def Core.bLine (c : Core) (n : Nat) : List Word := (List.range 64).map fun j => Memory.word c.bstore (256 * n + 4 * j)

/-- One issue of an MMA or MMAS (R201 to R206): the streams go on from where the issues before it ended. -/
def Ctx.mmaIssue (x : Ctx) (core : Core) (r : Repeat) (p : MmaPlan) : Ctx :=
  let o := r.op
  let regs := x.engineRegs
  let reads := (List.range p.c).map fun t => regs.readMDir o.areg.toNat o.dir.toNat ((r.x0 + r.count * p.c + t) % 64)
  let lines := (List.range p.d).map fun t => core.bLine ((r.y0 + r.count * p.d + t) % 65536)
  let fresh := o.ovr && decide (r.count = 0)
  let acc := o.acc.toNat
  match r.entry with
    | none => x.engineWrite (splitRows o regs fresh p.kc reads lines)
    | some e =>
      let fp := (entryKind e).getD true
      let rows (old : Nat → Nat → Word) := mmaRows o.mode.toNat e.1 e.2.1 fp p old reads lines
      if acc < 32 then
        x.engineWrite ((rows fun i j => if fresh then 0#32 else regs.readM acc i j).map fun c => (4096 * acc + c.1, c.2))
      else
        let k := (x.shutter (acc - 32)).getD ⟨field (r.x0 + r.count * p.c) 8 5,
          setWords [] ((List.range 4096).map fun t =>
            (t, Store.get 0#32 regs.m (4096 * field (r.x0 + r.count * p.c) 8 5 + t)))⟩
        let cells := rows fun i j => if fresh then 0#32 else Store.get 0#32 k.cells (64 * i + j)
        x.setShutter (acc - 32) (some { k with cells := setWords k.cells cells })

/-- The address registers after an issue: the engine's own count (R201). -/
def Repeat.advance (r : Repeat) (p : MmaPlan) : List (Nat × Word) :=
  let n := r.count + 1
  let x := r.op.ax.toNat
  let y := r.op.ay.toNat
  if x = y then [(x, BitVec.ofNat 32 (r.x0 + n * (p.c + p.d)))]
  else [(x, BitVec.ofNat 32 (r.x0 + n * p.c)), (y, BitVec.ofNat 32 (r.y0 + n * p.d))]

/-! ## The engine slot (R81, R103, R199) -/

/-- Does a repeat run (R79, R103)? -/
def Matrix.repeating (m : Matrix) (cycle : Nat) : Bool := m.rep.isSome && decide (cycle < m.busyTo)

/-- The schedule faults of the E slot (R103): a repeat of an earlier bundle runs, or the matrix engine is held. -/
def State.engineCheck (s : State) (matrix : Bool) : State :=
  let m := s.here.mx
  if m.repeating s.cycle || (matrix && decide (s.cycle < m.busyTo)) then s.raise 6 .e 0 0 else s

/-- The matrix engine changed. -/
def State.onMx (s : State) (f : Matrix → Matrix) : State := s.onHere fun c => { c with mx := f c.mx }

/-- A number taken on an engine's counter at issue (R199). -/
def State.engineNumber (s : State) (tl : Nat) : Nat × State := ((s.act.timeline tl).i + 1, s.onAct fun x => x.number tl)

/-- A matrix command: its checks whatever its guard, the engine held for its beats, and its effect under a true guard
(R81, R199). -/
def matrixCommand (h : EHead) (beats : Nat) (rep : Option Repeat) (checks body : State → State) (s : State) : Out :=
  let s1 := checks (s.engineCheck true)
  .next (s.unlessTrapped s1 fun s =>
    let s2 := s.onMx fun m => { m with busyTo := s.cycle + beats, rep := rep }
    if h.guard.holds s.act.regs then body s2 else s2)

/-- Illegal-operand faults on matrix registers of an E slot (R24). -/
def State.matrixNames (s : State) : List (Nat × Nat) → State
  | [] => s
  | (m, bit) :: l => State.matrixNames (s.checkMatrix .e bit m) l

/-- What the first issue of an MMA uses of the matrix registers (R173, R207): a shutter is number 32 or 33. -/
def emUses (o : EmOp) (last final : Nat) (cid : Bool) : List MxUse :=
  let acc := o.acc.toNat
  [⟨if o.mode = 3#2 then (List.range 6).map fun w => acc + w else [acc], 0, last, final, cid⟩,
   ⟨[o.areg.toNat], 1, last, 0, cid⟩]

/-- What an MDRAIN uses (R173). -/
def drainUses (acc m rows : Nat) (split : Bool) (cycle : Nat) (cid : Bool) : List MxUse :=
  [⟨if split then (List.range 6).map fun w => acc + w else [acc], 2, cycle + 15 + rows, 0, cid⟩,
   ⟨if split then [m, m + 1] else [m], 3, cycle + 15 + rows, 0, cid⟩]

/-- What a bundle's E slot uses from its issue on (R173), its guard true. -/
def State.engineUses (s : State) : Option Instr → List MxUse
  | some (.mma o) => if o.head.guard.holds s.act.regs then emUses o s.cycle 0 s.act.cid else []
  | some (.mmaSplit o) => if o.head.guard.holds s.act.regs then emUses o s.cycle 0 s.act.cid else []
  | some (.mmas o) => if o.head.guard.holds s.act.regs then emUses o s.cycle 0 s.act.cid else []
  | some (.mzero h acc) => if h.guard.holds s.act.regs then [⟨[acc.toNat], 0, s.cycle, 0, s.act.cid⟩] else []
  | some (.mdrain h acc m t rows) =>
    if h.guard.holds s.act.regs then
      drainUses acc.toNat m.toNat (rows.toNat + 1) (decide (t = 10#4)) s.cycle s.act.cid else []
  | _ => []

/-! ## MMA and MMAS (R201 to R207) -/

/-- The fill (R207, R210): 4 c after a matching MBSEL, else 12 c. -/
def Matrix.fill (m : Matrix) (cycle line : Nat) : Nat :=
  match m.sel with
  | some (l, c) => if l = line ∧ c < cycle ∧ cycle ≤ c + 64 then 4 else 12
  | none => 12

/-- The first issue with a true guard: its number, its operands' streams, its use of the registers. -/
def State.mmaFirst (s : State) (o : EmOp) (entry : Option (Nat × Nat × Nat)) (p : MmaPlan) : State :=
  let x := s.act
  let beats := o.head.beats.toNat + 1
  let total := (s.here.iss.rpt + 1) * beats
  let x0 := (x.regs.readA o.ax.toNat).toNat
  let y0 := (x.regs.readA o.ay.toNat).toNat
  let f := s.here.mx.fill s.cycle (y0 % 65536)
  let rep : Repeat := ⟨o, entry, s.here.iss.rpt, s.cycle + beats, 0, x0, y0,
    (List.range 3).filter fun k => s.here.iss.ports[k]? = some Slot.e.code, x.seq, s.here.iss.pc, x.cid⟩
  let r := s.engineNumber 0
  let s1 := r.2.onAct fun x => x.mmaIssue s.here rep p
  let s2 := s1.onMx fun m => { m with
    busyTo := s.cycle + total, sel := none, rep := if s.here.iss.rpt = 0 then none else some { rep with count := 1 },
    uses := m.uses ++ emUses o (s.cycle + total - 1) (s.cycle + total + f) x.cid,
    pending := m.pending ++ [⟨r.1, x.cid, s.cycle + total + f - 1, false⟩] }
  ((rep.advance p).foldl (fun s e => s.land .e (s.cycle + 1) (.a e.1 e.2)) s2).noteLocal x

/-- The target a shutter would open with (R206): beyond the partition it raises an illegal-operand fault. -/
def State.checkTarget (s : State) (o : EmOp) : State :=
  let acc := o.acc.toNat
  if 32 ≤ acc ∧ (s.act.shutter (acc - 32)).isNone then
    s.checkMatrix .e 27 (field (s.act.regs.readA o.ax.toNat).toNat 8 5)
  else s

/-- An MMA or MMAS at its first issue: the engine is held for all its issues (R79, R199). -/
def mmaCommand (o : EmOp) (entry : Option (Nat × Nat × Nat)) (plan : Option MmaPlan) (s : State) : Out :=
  let acc := o.acc.toNat
  let n := s.here.iss.rpt
  let beats := (n + 1) * (o.head.beats.toNat + 1)
  let names := (if o.mode = 3#2 then [(acc, 38), (acc + 5, 38)] else if acc < 32 then [(acc, 38)] else []) ++ [(o.areg.toNat, 31)]
  let idle : Option Repeat := if n = 0 then none else some ⟨o, entry, 0, 0, 0, 0, 0,
    (List.range 3).filter fun k => s.here.iss.ports[k]? = some Slot.e.code, s.act.seq, s.here.iss.pc, s.act.cid⟩
  let refused := match entry with
    | some e => (entryKind e).isNone
    | none => false
  matrixCommand o.head beats idle
    (fun s => if refused then (s.matrixNames names).illegal .e 0 57 else s.matrixNames names)
    (fun s =>
      let s1 := s.checkTarget o
      s.unlessTrapped s1 fun s => match plan with
        | some p => s.mmaFirst o entry p
        | none => s.illegal .e 0 44) s

/-- MMA, dense (R202). -/
def execMma (o : EmOp) (s : State) : Out := mmaCommand o (some s.act.fmtEntry) (mmaPlan o s.act.fmtEntry) s

/-- MMA, split (R205): it does not consult the format table. -/
def execMmaSplit (o : EmOp) (s : State) : Out := mmaCommand o none (splitPlan o) s

/-- MMAS (R203). -/
def execMmas (o : EmOp) (s : State) : Out := mmaCommand o (some s.act.fmtEntry) (mmaPlan o s.act.fmtEntry) s

/-- A repeat's issue, with its advances, which no rollback takes back (R230). -/
def Ctx.repeatIssue (x : Ctx) (core : Core) (cycle : Nat) (r : Repeat) (p : MmaPlan) : Ctx :=
  (r.advance p).foldl (fun x e => x.landEngine r.seq r.pc (cycle + 1) (.a e.1 e.2)) (x.mmaIssue core r p)

/-- MMA_REPEAT (R79, R201): the operation reissues when the previous issue's beats have ended. -/
def execMmaRepeat (core : Nat) (s : State) : Out := ofCore core <|
  let c := s.core core
  match c.mx.rep with
  | none => .next s
  | some r =>
    let plan := match r.entry with
      | some e => mmaPlan r.op e
      | none => splitPlan r.op
    match plan with
    | none => .next s
    | some p =>
      if 0 < r.left ∧ r.at_ ≤ s.cycle then
        .next (s.onCore core fun c =>
          let c1 := c.onCtx r.cid fun x => x.repeatIssue c s.cycle r p
          { c1 with mx := { c1.mx with rep := some { r with
              left := r.left - 1, count := r.count + 1, at_ := r.at_ + r.op.head.beats.toNat + 1 } } })
      else .next s

/-- A matrix command whose completion is due: an MDRAIN or not. -/
def Matrix.due (m : Matrix) (cycle : Nat) (drain : Bool) : Option MxPending :=
  m.pending.find? fun p => decide (p.done ≤ cycle) && (p.drain == drain)

/-- The completion of a matrix command on tl0. -/
def Core.matrixComplete (c : Core) (cycle : Nat) (drain : Bool) : Core :=
  match c.mx.due cycle drain with
  | none => c
  | some p => { c.onCtx p.cid fun x => x.complete 0 p.num cycle with
      mx := { c.mx with pending := c.mx.pending.filter fun q => !decide (q = p) } }

/-- MMA_COMPLETE (R207). -/
def execMmaComplete (core : Nat) (s : State) : Out :=
  ofCore core <| .next (s.onCore core fun c => c.matrixComplete s.cycle false)

/-! ## MZERO, MDRAIN, MBSEL, FMTT (R208 to R211) -/

/-- A one-beat matrix command completes in its cycle; any but MBSEL ends a selection (R210). -/
def State.matrixDone (s : State) : State :=
  let r := s.engineNumber 0
  (r.2.onAct fun x => x.complete 0 r.1 s.cycle).onMx fun m => { m with sel := none }

/-- The 4,096 keys of a matrix register. -/
def matrixKeys (m : Nat) : List Nat := (List.range 4096).map fun t => 4096 * m + t

/-- A use without one of its registers; none when no register is left. -/
def MxUse.without (u : MxUse) (m : Nat) : Option MxUse :=
  let left := u.regs.filter fun k => decide (k ≠ m)
  if left.isEmpty then none else some { u with regs := left }

/-- MZERO (R208): zero in every element, or the shutter empty; a slot access to that register waits for no fill (log 31). -/
def execMzero (h : EHead) (acc : BitVec 6) (s : State) : Out :=
  matrixCommand h 1 none (fun s => s.matrixNames (if acc.toNat < 32 then [(acc.toNat, 38)] else []))
    (fun s =>
      let s1 := if acc.toNat < 32 then s.onAct fun x => x.engineWrite ((matrixKeys acc.toNat).map fun k => (k, 0#32))
        else s.onAct fun x => x.setShutter (acc.toNat - 32) none
      (s1.onMx fun m => { m with uses := m.uses.filterMap fun u => u.without acc.toNat }).matrixDone) s

/-- The element MDRAIN writes for an INT32 accumulator (R209); none for a type it does not accept. -/
def drainInt (t : Nat) (x : Word) : Option Word :=
  match t with
  | 4 => some x
  | 5 => some x
  | 0 => some (BitVec.ofInt 32 (satN x.toInt 8))
  | 2 => some (BitVec.ofInt 32 (satN x.toInt 16))
  | 1 => some (BitVec.ofInt 32 (satUN x.toInt 8))
  | 3 => some (BitVec.ofInt 32 (satUN x.toInt 16))
  | 9 => some (BitVec.ofNat 32 (roundInt 9 0 x.toInt 0 false).1)
  | _ => none

/-- The element MDRAIN writes for an FP32 accumulator (R66, R209). -/
def drainFloat (t sb : Nat) (x : Word) : Option Word :=
  if [8, 9, 11, 12, 13].contains t then
    some (BitVec.ofNat 32 (roundVal t 0 (scaleVal (decodeVal 9 x.toNat) sb)).1)
  else none

/-- The double MDRAIN returns for a split accumulator (R64, R209), and whether it is NaN. -/
def drainSplit (r : Regs) (c i j : Nat) : Nat × Bool :=
  let x := r.readM (c + 5) i j
  if x.getLsbD 16 then (defaultNan 10, true)
  else
    let a := splitAcc r c i j
    ((roundInt 10 0 a (toSigned x.toNat 16 - 112) false).1, false)

/-- A row of an MDRAIN (R209): elements of D, of D + 1 for a split drain, and whether one of them is NaN. -/
def drainRow (r : Regs) (acc t sb : Nat) (fp : Bool) (i : Nat) : List Word × List Word × Bool :=
  if t = 10 then
    let ys := (List.range 64).map fun j => drainSplit r acc i j
    (ys.map fun y => BitVec.ofNat 32 y.1, ys.map fun y => BitVec.ofNat 32 (y.1 / 2 ^ 32), ys.any fun y => y.2)
  else
    let xs := (List.range 64).map fun j => r.readM acc i j
    (xs.map fun x => ((if fp then drainFloat t sb x else drainInt t x).getD 0#32), [],
      fp && xs.any fun x => (decodeVal 9 x.toNat).isNan)

/-- The landings of a row: elements of D and D + 1, and bx6 of every cluster (R209). -/
def State.landRow (s : State) (m i : Nat) (row : List Word × List Word × Bool) : State :=
  let cells (m : Nat) (l : List Word) := (List.range l.length).map fun j => (mKey m i j, nth0 l j)
  let due := s.cycle + 16 + i
  let s1 := s.landKept .e due (.m (cells m row.1 ++ cells (m + 1) row.2.1))
  clusters8.foldl (fun s cl => s.landKept .e due (.bx 6 cl (lanes16.map fun l => nth0 row.1 (16 * (cl % 4) + l)))) s1

/-- PEND set in a cycle (R27). -/
def Ctx.drainStarts (x : Ctx) (cycle m : Nat) : Ctx :=
  { x with dlog := ⟨cycle, m, x.dnan.getLsbD m, x.dpend.getLsbD m⟩ :: x.dlog,
           dpend := x.dpend ||| BitVec.ofNat 32 (2 ^ m) }

/-- An MDRAIN with a true guard (R209). A .f64 drain also writes D + 1, and the drain status entry of D alone takes PEND
and NAN (log 112). -/
def State.drain (s : State) (acc m t rows sb : Nat) (fp : Bool) : State :=
  let x := s.act
  let regs := x.engineRegs
  let rs := (List.range rows).map fun i => (i, drainRow regs acc t sb fp i)
  let nan := rs.any fun e => e.2.2.2
  let r := s.engineNumber 0
  let s0 := rs.foldl (fun s e => s.landRow m e.1 e.2) r.2
  let s1 := (s0.landKept .e (s.cycle + 16 + rows) (.drained m nan)).onAct fun x => x.drainStarts s.cycle m
  s1.onMx fun mx => { mx with
    sel := none, uses := mx.uses ++ drainUses acc m rows (decide (t = 10)) s.cycle x.cid,
    pending := mx.pending ++ [⟨r.1, x.cid, s.cycle + 15 + rows, true⟩] }

/-- Is a destination type accepted for the accumulator (R209)? -/
def drainType (t : Nat) (fp : Bool) : Bool :=
  if fp then (drainFloat t 127 0#32).isSome else (drainInt t 0#32).isSome

/-- MDRAIN (R64, R66, R209). -/
def execMdrain (h : EHead) (acc : BitVec 6) (m : BitVec 5) (type : BitVec 4) (rows : BitVec 6) (s : State) : Out :=
  let t := type.toNat
  let e := s.act.fmtEntry
  let n := rows.toNat + 1
  matrixCommand h (16 + n) none
    (fun s =>
      let s1 := s.matrixNames ([(acc.toNat, 38), (m.toNat, 33)] ++ if t = 10 then [(acc.toNat + 5, 38), (m.toNat + 1, 33)] else [])
      if t ≠ 10 ∧ (entryKind e).isNone = true then s1.illegal .e 0 57 else s1)
    (fun s =>
      let fp := (entryKind e).getD true
      if t = 10 then s.drain acc.toNat m.toNat t n 127 true
      else if drainType t fp then s.drain acc.toNat m.toNat t n e.2.2 fp
      else s.illegal .e 0 29) s

/-- MDRAIN_COMPLETE (R209). -/
def execMdrainComplete (core : Nat) (s : State) : Out :=
  ofCore core <| .next (s.onCore core fun c => c.matrixComplete s.cycle true)

/-- MBSEL (R210): the B-store read path opened at a line. -/
def execMbsel (h : EHead) (a : BitVec 4) (s : State) : Out :=
  matrixCommand h 1 none id (fun s =>
    s.matrixDone.onMx fun m => { m with sel := some ((s.act.regs.readA a.toNat).toNat % 65536, s.cycle) }) s

/-- FMTT (R211): seen by an MMA or MDRAIN that issues in a later cycle. -/
def execFmtt (h : EHead) (e : BitVec 4) (n : BitVec 6) (s : State) : Out :=
  matrixCommand h 1 none id (fun s => (s.land .e (s.cycle + 1) (.fmt e.toNat (s.act.regs.readS n.toNat))).matrixDone) s

end Sys2Proof.Machine
end

