-- ==== Sys2Proof/Machine/StreamBind.lean ====
section
/-! DEFINITION. BIND, UNBIND and CBSET (R187 to R192, R280, R299). -/

namespace Sys2Proof.Machine

/-- The binding of a descriptor, or nothing where it breaks the table of R188. -/
def affineOf (d : List Word) : Option Source :=
  let pairs := (List.range 4).map fun k => (dw d (2 + 2 * k), dw d (3 + 2 * k))
  let used := pairs.takeWhile fun p => decide (p.2 ≠ 0)
  let rest := pairs.drop used.length
  let ok := decide (dw d 1 % 4 = 0) && !used.isEmpty && used.all (fun p => decide (p.1 % 4 = 0) && decide (p.2 < 65536)) &&
    rest.all (fun p => decide (p.2 = 0)) && (List.range 6).all fun k => decide (dw d (10 + k) = 0)
  if ok then some (.affine (dw d 1) used (bitOf (dw d 0) 10)) else none

/-- The source a descriptor names, by kind (R188, R190, R299). -/
def Ctx.sourceOf (x : Ctx) (d : List Word) (ew : Nat) (dir : Bool) : Option Source :=
  let w0 := dw d 0
  let tail := (List.range 14).all fun k => decide (dw d (2 + k) = 0)
  match field w0 0 2 with
  | 0 => if field w0 5 5 = 0 then affineOf d else none
  | 1 =>
    let k := Store.get CBuf.unset x.regs.cb (dw d 1)
    if tail && decide (dw d 1 < 16) && decide (field w0 6 5 = 0) && decide (k.size % ewBytes ew = 0) then
      some (.cbuf (dw d 1) (bitOf w0 5))
    else none
  | 2 =>
    let nb := bitOf w0 6
    let nbp := field w0 7 3
    let num := field (dw d 1) 0 8
    if tail && decide (dw d 1 < 512) && decide (num ≤ 31) && !(bitOf w0 5) && !(bitOf w0 10) &&
        !(nb && decide (nbp = 0)) && (dir == bitOf (dw d 1) 8) && x.gang.isSome then
      some (.pipe num nb nbp)
    else none
  | _ => if tail && decide (dw d 1 < 65536) && decide (field w0 5 6 = 0) && !dir then some (.ssu (dw d 1)) else none

/-- Does a binding hold an end of a pipe? -/
def Binding.holds (b : Binding) (num : Nat) (producer : Bool) : Bool :=
  match b.src with
  | .pipe n _ _ => decide (n = num) && (b.push == producer)
  | _ => false

/-- Does a context hold an end of a pipe, by a binding in force or about to be (R299)? -/
def Ctx.holdsEnd (x : Ctx) (num : Nat) (producer : Bool) : Bool :=
  (x.regs.q.any fun e => match e.2 with
    | some b => b.holds num producer
    | none => false) ||
  x.pend.any fun l => match l.eff with
    | .bindQ _ (some b) => b.holds num producer
    | _ => false

/-- The contexts of a gang's tasks. -/
def State.gangContexts (s : State) (g : Nat) : List (Nat × Ctx) := s.contexts.filter fun e => decide (e.2.gang = some g)

/-- May the active task bind an end of a pipe (R280, R299)? -/
def State.pipeBindable (s : State) (g num ew : Nat) (producer : Bool) : Bool :=
  let p := s.pipe g num
  let others := (s.gangContexts g).filter fun e => !(decide (e.1 = s.cur) && (e.2.cid == s.act.cid))
  match p.wire with
  | some _ => !producer && decide (ew = 1)
  | none => (match p.ew with
      | some w => decide (w = ew)
      | none => true) && !(others.any fun e => e.2.holdsEnd num producer)

/-- A BIND of a pipe fixes its EW and marks the end as once bound (R299, R301). -/
def State.markPipe (s : State) (g num ew : Nat) (producer : Bool) : State :=
  s.onPipe g num fun p => { p with ew := some ew, boundP := p.boundP || producer, boundC := p.boundC || !producer }

/-- A binding takes its identity and stands from the next cycle (R187, R191). -/
def State.putBinding (s : State) (q ew : Nat) (dir : Bool) (src : Source) : State :=
  let id := s.act.binds
  let isSsu := match src with
    | .ssu _ => true
    | _ => false
  let s1 := s.onAct fun x => { x with binds := id + 1, ssu := if isSsu then x.ssu ++ [⟨id, []⟩] else x.ssu }
  s1.land .m (s.cycle + 1) (.bindQ q (some ⟨src, ew, dir, 0, id⟩))

/-- BIND (R187): the new binding stands from cycle i + 1; a descriptor that breaks R188 raises an illegal-operand fault
and the earlier binding stands. -/
def execBind (o : MbOp) (s : State) : Out :=
  memorySlot o.head [] (fun s =>
    let a := (s.act.regs.readA o.addr.toNat).toNat
    if s.badPacket a then s.rangeFault .m a
    else
      let d := s.descriptor a
      let w0 := dw d 0
      let ew := field w0 2 2
      let dir := bitOf w0 4
      let s1 := s.access (rowsOf (s.act.poolAddr a) 64) false 0
      let bad := s1.illegal .m 0 32
      if decide (field w0 0 2 ≠ o.kind.toNat) || decide (2048 ≤ w0) then bad
      else match s.act.sourceOf d ew dir with
        | none => bad
        | some (.pipe num nb nbp) =>
          let g := s.act.gang.getD 0
          if s.pipeBindable g num ew dir then (s1.markPipe g num ew dir).putBinding o.q.toNat ew dir (.pipe num nb nbp)
          else bad
        | some src => s1.putBinding o.q.toNat ew dir src) s

/-- UNBIND (R192): from cycle i + 1. -/
def execUnbind (o : MbOp) (s : State) : Out :=
  memorySlot o.head [] (fun s => s.land .m (s.cycle + 1) (.bindQ o.q.toNat none)) s

/-- Is a circular buffer named by a bound stream, or by a binding about to stand? -/
def Ctx.bufferBound (x : Ctx) (n : Nat) : Bool :=
  let names (b : Option Binding) : Bool := match b with
    | some k => match k.src with
      | .cbuf c _ => decide (c = n)
      | _ => false
    | none => false
  x.regs.q.any (fun e => names e.2) || x.pend.any fun l => match l.eff with
    | .bindQ _ b => names b
    | _ => false

/-- Does a copy-class operation name circular buffer n of its own context (R195)? -/
def CopyOp.namesBuffer (c : CopyOp) (n : Nat) : Bool :=
  decide (c.kind ≤ 1) && ((decide (field (dw c.packet 0) 0 4 = 4) && decide (dw c.packet 1 % 16 = n)) ||
    (decide (field (dw c.packet 0) 4 4 = 4) && decide (dw c.packet 3 % 16 = n)))

/-- CBSET (R35, R192): free is set to the slot count and filled to zero; it stalls while a copy names the buffer. -/
def execCbset (o : MbOp) (s : State) : Out :=
  memorySlot o.head [] (fun s =>
    let a := (s.act.regs.readA o.addr.toNat).toNat
    let n := o.q.toNat
    if s.badPacket a then s.rangeFault .m a
    else
      let d := s.descriptor a
      let base := dw d 0
      let size := dw d 1
      let count := dw d 2
      let s1 := s.access (rowsOf (s.act.poolAddr a) 64) false 0
      if base % 4 ≠ 0 ∨ size % 4 ≠ 0 ∨ size = 0 ∨ count = 0 ∨ 4096 < count ∨ s.act.bufferBound n = true then s1.illegal .m 0 32
      else if !(s.act.inWindow base (size * count)) then s1.rangeFault .m base
      else if s.ops.any fun c => decide (c.core = s.cur) && (c.cid == s.act.cid) && c.namesBuffer n then s1.hold
      else s1.onAct fun x => { x with regs := { x.regs with
        cb := Store.set CBuf.unset x.regs.cb n ⟨base, size, count, count, 0, 0, 0, 0, 0, 0, 0⟩ } }) s

end Sys2Proof.Machine
end

