-- ==== Sys2Proof/Machine/Tasks.lean ====
section
/-! DEFINITION. The start, the retirement and the killing of a task (R41, R125, R135, R140, R222, R237, R240, R257, R301 to
R303, R360, R361). -/

namespace Sys2Proof.Machine

/-! ## Task start (R41, R125, R240) -/

/-- The partition word of the task a context holds, or of the context itself (R284). -/
def State.partitionOf (s : State) (x : Ctx) : Word :=
  match x.task with
  | some t => match s.launch t.launch with
    | some l => l.image.partition
    | none => x.partition
  | none => x.partition

/-- Does a copy-class operation write into the scratchpad of a core, whichever context's (R41, R338, log 62), other than a peer
copy to a context from the gang that its task was placed with? -/
def CopyOp.writesInto (o : CopyOp) (core : Nat) (x : Ctx) : Bool :=
  let own := match x.task with
    | some t => t.gang.isSome && decide (o.gang = t.gang) && decide (t.placed ≤ o.issued) && decide (o.dk = 3) &&
        decide (o.side 3 = (core, x.cid))
    | none => false
  decide (o.kind ≤ 2) && (decide (o.dk = 1) || decide (o.dk = 3) || decide (o.dk = 4)) &&
    decide ((o.side o.dk).1 = core) && !own

/-- Has the pane sequencer nothing of a context left (R41, R255)? -/
def Core.paneIdle (c : Core) (cid : Bool) : Bool :=
  !(c.pane.queue.any fun e => e.cid == cid) &&
  (match c.pane.load with
    | some l => !(l.entry.cid == cid)
    | none => true) &&
  (match c.pane.run with
    | some r => !(r.entry.cid == cid)
    | none => true) && !c.restoring

/-- May the clear of a placed task begin (R41)? -/
def State.clearReady (s : State) (core : Nat) (x : Ctx) : Bool :=
  decide (x.phase = .waiting) && !(s.ops.any fun o => o.writesInto core x) && (s.core core).paneIdle x.cid

/-- The registers and the code of a task at its start (R41, R125, R222, R228): its task-start mark is committed. DESIGN CHOICE:
the window begins at line 0, where the image's code lies in the context's code memory (log 58). -/
def Ctx.begin_ (x : Ctx) (t : Task) (l : Launch) (cycle : Nat) : Ctx :=
  let first := cycle + 64 + ceilDiv' l.image.preload.length 256
  let regs : Regs := { Regs.reset with pc := t.entry }
  let old : Ctx := Ctx.reset x.cid
  { old with
    regs := regs, marks := [⟨0, cycle, true, regs⟩], nextAt := first, code := l.image.code, dict := l.image.dict,
    partition := l.image.partition, codeWin := BitVec.ofNat 32 (65536 * l.window), taskBlk := BitVec.ofNat 32 t.blk,
    bankBase := t.base, heldSince := first, asked := x.asked, phase := .clearing first, task := some t }

/-- The pool addresses of a context's partition (R32). -/
def Ctx.owns (x : Ctx) (a : Nat) : Bool := decide (32768 * x.bankBase ≤ a) && decide (a < 32768 * (64 - x.xb))

/-- The banks of a partition cleared, with the preload written; nothing meant for the task before lands any more (R41,
R125). -/
def Core.clearBanks (c : Core) (x : Ctx) (preload : List (Nat × Byte)) : Core :=
  let pool := c.pool.filter fun e => !x.owns e.1
  let cells := (preload.filter fun e => x.inWindow e.1 1).map fun e => (x.poolAddr e.1, e.2)
  let late := c.late.map fun u => { u with cells := u.cells.filter fun e => !x.owns e.1 }
  { c with pool := Memory.writeCells pool cells, late := late }

/-- The trap record cleared (R237). -/
def Core.clearTrap (c : Core) : Core :=
  { c with trap0 := 0#32, trap1 := 0#32, trapPost := false, trapCount := 0, mpc := 0 }

/-- The groups all of whose banks a context owns (R257). -/
def Ctx.ownGroups (x : Ctx) : List Nat :=
  (List.range 8).filter fun g => decide (x.bankBase ≤ 8 * g) && decide (8 * g + 8 ≤ 64 - x.xb)

/-- The clear has ended and the preload is written: the task runs, and the parity of the cleared groups is valid (R257). -/
def Core.beginRun (c : Core) (x : Ctx) : Core :=
  let c1 := c.onCtx x.cid fun y => { y with phase := .running }
  { c1 with parity := x.ownGroups.foldl (fun p g => Store.set Parity.valid p g .valid) c1.parity }

/-- The first context of a core that meets a test, the active one first. -/
def Core.firstCtx (c : Core) (p : Ctx → Bool) : Option Ctx :=
  if p c.act then some c.act else if p c.shadow then some c.shadow else none

/-- Is the clear of a context over (R41)? -/
def Ctx.cleared (x : Ctx) (cycle : Nat) : Bool := match x.phase with
  | .clearing u => decide (u ≤ cycle)
  | _ => false

/-- The context whose start has something to do in this cycle. -/
def State.startCtx (s : State) (core : Nat) : Option Ctx :=
  (s.core core).firstCtx fun x => x.cleared s.cycle || s.clearReady core x

/-- TASK_START (R41, R125): the clear begins; in the cycle after the preload the task runs. -/
def execTaskStart (core : Nat) (s : State) : Out :=
  if 512 ≤ core then .fault (.absent core)
  else match s.startCtx core with
    | none => .next s
    | some x =>
      if x.cleared s.cycle then .next (s.onCore core fun c => c.beginRun x)
      else match x.task with
        | none => .next s
        | some t => match s.launch t.launch with
          | none => .next s
          | some l =>
            let y := x.begin_ t l s.cycle
            .next (s.onCore core fun c =>
              ((c.clearBanks y l.image.preload).clearTrap).onCtx x.cid fun _ => y)

/-! ## Leaving (R140, R301 to R303) -/

/-- Every counter of a context has C = I (R30, R135). -/
def Ctx.countersIdle (x : Ctx) : Bool := x.tl.all fun e => e.2.out.isEmpty

/-- Is a task's launch record late in the frame that TICK is held at (R287)? -/
def Distributor.lateRelease (d : Distributor) (release : Nat) : Bool :=
  decide (release ≠ 0) && decide (d.framelen ≠ 0) &&
    decide (wrapN ((release : Int) - (d.tick / d.framelen * d.framelen : Nat)) 32 < d.framelen)

/-- A task's record leaves the distributor's list of released records (R287): with the last late one TICK may go on in the
cycle after. -/
def Distributor.recordLeaves (d : Distributor) (t : Task) (cycle : Nat) : Distributor :=
  let mine (r : Record) : Bool := decide (r.launch = t.launch) && decide (r.blk = t.blk) && decide (r.release = t.release)
  match d.running.find? mine with
  | none => d
  | some r =>
    let d1 := { d with running := d.running.erase r }
    if d.tickHeld ∧ d.lateRelease t.release = true then { d1 with nextTick := cycle + 1 } else d1

/-- Does a member of a gang, one of those asked for, hold an end of a pipe (R299, R301)? -/
def State.endHeld (s : State) (gid num : Nat) (producer : Bool) (who : Nat × Bool → Bool) : Bool :=
  (s.gangContexts gid).any fun e => who (e.1, e.2.cid) && e.2.holdsEnd num producer

/-- Does an unwired pipe break when a member leaves (R301): the member holds an end, or one end, once bound, is held by no
task? -/
def State.breaks (s : State) (gid num : Nat) (p : Pipe) (who : Nat × Bool) : Bool :=
  let held (producer : Bool) : Bool := s.endHeld gid num producer fun k => decide (k = who)
  let others (producer : Bool) : Bool := s.endHeld gid num producer fun k => decide (k ≠ who)
  p.wire.isNone && (held true || held false || (p.boundP && !others true) || (p.boundC && !others false))

/-- The pipes that break are reported to firmware with gang, pipe and cause (R301). -/
def State.reportBreaks (s : State) (gid cause : Nat) (old new : Gang) : State :=
  let broke := (new.pipes.filter fun p => p.2.broken && !(Store.get Pipe.reset old.pipes p.1).broken).map fun p => p.1
  s.onDie new.die fun d => { d with log := d.log ++ broke.map fun n => ⟨4, gid, n, cause⟩ }

/-- The lending-pool blocks of a gang's pipes (R300). -/
def Gang.lentBlocks (g : Gang) : Nat := (g.pipes.map fun p => p.2.ring.blocks).sum

/-- A member leaves its gang (R297, R301): its pipes lose it, and with the last member the gang's slot is released. -/
def State.leaveGang (s : State) (gid : Nat) (who : Nat × Bool) (cause : Nat) : State :=
  match s.gang gid with
  | none => s
  | some g =>
    let members := g.members.filter fun m => !decide ((m.1, m.2.1) = who)
    let new : Gang := { g with members := members, pipes := g.pipes.map fun p =>
      (p.1, { p.2 with broken := p.2.broken || s.breaks gid p.1 p.2 who }) }
    let s1 := s.reportBreaks gid cause g new
    if members.isEmpty then
      (s1.onDist fun d => { d with gangs := Store.set none d.gangs gid none }).lendBlocks g.die 0 new.lentBlocks
    else s1.onDist fun d => { d with gangs := Store.insert d.gangs gid (some new) }

/-- The launch counts a block that has retired or been killed (R302, R303). -/
def Launch.blockGone (l : Launch) (t : Task) (killed : Bool) : Launch :=
  let l1 := match t.fromQueue with
    | some _ => { l with placed := l.placed - 1 }
    | none => { l with left := l.left.filter fun b => !decide (b = t.blk) }
  { l1 with killed := l1.killed || killed }

/-- The ring slot of a handler's message is free (R304). -/
def State.freeMailSlot (s : State) (t : Task) : State :=
  match t.mailbox with
  | some e => s.onMailbox e.1 fun m => { m with busy := m.busy.filter fun k => !decide (k = e.2) }
  | none => s

/-- The record of a traced block becomes VALID (R359 to R361). -/
def State.validate (s : State) (t : Task) (killed : Bool) : State :=
  if t.trace = 0 then s
  else (s.onRecord t.trace t.blk fun r => { r with valid := true, kill := r.kill || killed }).storeRecords t.trace [t.blk]

/-- A request whose incoming context cannot run any more is withdrawn (R242): the bundle after the mark issues no earlier
than the next cycle. -/
def Core.withdraw (c : Core) (cycle : Nat) : Core :=
  { c with swapWanted := none, act := { c.act with yield := false, nextAt := max c.act.nextAt (cycle + 1) } }

/-- Can a context issue once it is active: it holds a task that has not ended? -/
def Ctx.canRun (x : Ctx) : Bool := x.task.isSome && match x.phase with
  | .waiting => true
  | .clearing _ => true
  | .running => true
  | _ => false

/-- Is a context parked (R306)? -/
def State.isParked (s : State) (core : Nat) (x : Ctx) : Bool :=
  (s.die (dieOf core)).parked.any fun p => decide (p.core = core) && (p.cid == x.cid)

/-- Is there a context in the shadow bank that can run? -/
def State.shadowRuns (s : State) (core : Nat) : Bool :=
  (s.core core).shadow.canRun && !s.isParked core (s.core core).shadow

/-- An entry of the wait table is freed (R306). -/
def State.unpark (s : State) (core : Nat) (cid : Bool) : State :=
  s.onDie (dieOf core) fun d => { d with parked := d.parked.filter fun p => !(decide (p.core = core) && (p.cid == cid)) }

/-- A pending request is withdrawn when nothing is left to come in (R242). -/
def State.settleSwap (s : State) (core : Nat) : State :=
  if (s.core core).swapWanted.isSome ∧ s.shadowRuns core = false then
    (s.onCore core fun c => c.withdraw s.cycle).unpark core (s.core core).act.cid
  else s

/-- What retirement and killing have in common (R285, R301 to R304, R311): the clock of its die, the decrements, the gang and its
pipes, the counts of the launch, the mailbox slot, the record. -/
def State.taskLeaves (s : State) (core : Nat) (x : Ctx) (t : Task) (killed : Bool) : State :=
  let s0 := s.onLaunch t.launch fun l => { l with clock := mergeMax l.clock (s.clockOf (dieOf core)) }
  let s1 := (s0.decrement t.launch t.succ).onLaunch t.launch fun l => l.blockGone t killed
  let s2 := match t.gang with
    | some g => s1.leaveGang g (core, x.cid) (b2n killed)
    | none => s1
  let s3 := ((s2.freeMailSlot t).validate t killed).onDist fun d => d.recordLeaves t s.cycle
  s3.unpark core x.cid

/-- Has a halted task met R135's conditions? A trap of its last bundle comes first (R232, R236). -/
def Core.retires (c : Core) (x : Ctx) (cycle : Nat) : Bool :=
  decide (x.phase = .halted) && !x.held && x.trap.isNone && x.fp.isEmpty && !(x.flagPendingBefore (x.seq + 1)) &&
    x.countersIdle && x.gate.isEmpty && match c.mx.rep with
    | some r => !(r.cid == x.cid && c.mx.repeating cycle)
    | none => true

/-- A context holds no task any more. -/
def Core.vacate (c : Core) (cid : Bool) : Core :=
  c.onCtx cid fun x => { x with task := none, phase := .none, yield := false, held := false }

/-- The context of a core that retires, or whose killed task is idle, in this cycle. -/
def State.leavingCtx (s : State) (core : Nat) : Option Ctx :=
  let c := s.core core
  c.firstCtx fun x => c.retires x s.cycle || (decide (x.phase = .killed) && x.countersIdle)

/-- TASK_RETIRE (R135, R302): the task retires and its core is freed; the core of a killed task is freed (R303). -/
def execTaskRetire (core : Nat) (s : State) : Out :=
  if 512 ≤ core then .fault (.absent core)
  else match s.leavingCtx core with
    | none => .next s
    | some x =>
      let s1 := match x.task, x.phase with
        | some t, .halted => s.taskLeaves core x t false
        | _, _ => s
      .next (((s1.onCore core fun c => c.vacate x.cid).checkBarriers).settleSwap core)

/-- A killed task's reserved records go back to the front of their rings (R303). -/
def State.giveBackAll (s : State) (gid : Nat) (core : Nat) (cid : Bool) : State :=
  match s.gang gid with
  | none => s
  | some g => g.pipes.foldl (fun s p => s.onRing gid p.1 fun r => r.giveBack core cid) s

/-- TASK_KILL (R239, R303): a write of 2 to CCMD kills the held task. -/
def execTaskKill (core : Nat) (s : State) : Out :=
  if 512 ≤ core then .fault (.absent core)
  else
    let c := s.core core
    let x := c.act
    match x.task with
    | none => .next s
    | some t =>
      if !x.held then .next s
      else
        let s1 := match t.gang with
          | some g => s.giveBackAll g core x.cid
          | none => s
        let s2 := s1.taskLeaves core x t true
        let t1 : Task := { t with gang := none, bars := 0, mailbox := none }
        let s3 := s2.onCore core fun c => { c with
          resumeAt := none, act := { c.act with task := some t1, phase := .killed, held := false, waits := [] } }
        .next (s3.checkBarriers.settleSwap core)

end Sys2Proof.Machine
end

