-- ==== Sys2Proof/Machine/Distributor.lean ====
section
/-! DEFINITION. The distributor: the search for a candidate, where a record fits, placement, reports, ticks, busy periods and
the moves of lent slots (R283, R284, R286 to R293, R297, R298, R300, R365). -/

namespace Sys2Proof.Machine

/-! ## Heads (R289, R290) -/

/-- A head: its queue, the queue's level, and the records it stands for. -/
structure Head where
  queue : Nat
  level : Nat
  recs : List Record
  deriving DecidableEq, Repr

/-- The records that the head of a queue stands for (R289): it must be in an on-chip entry. -/
def Queue.headRecords (k : Queue) : List Record :=
  match k.wired, k.recs with
  | false, r :: l =>
    if k.ring.entries.any fun e => decide (e.1 = k.ring.deliver) then
      if r.group then r :: l.takeWhile fun e => e.group && decide (e.launch = r.launch) else [r]
    else []
  | _, _ => []

/-- The ready heads of the unwired queues (R290). -/
def State.heads (s : State) : List Head :=
  s.dist.queues.filterMap fun e =>
    let recs := e.2.headRecords
    if !recs.isEmpty && recs.all fun r => r.ready then some ⟨e.1, s.dist.queueLevel e.1, recs⟩ else none

/-- The order of the search within a level: from the queue after the last-served one, wrapping at 255 (R290). -/
def Distributor.searchKey (d : Distributor) (h : Head) : Nat :=
  256 * h.level + (h.queue + 511 - (255 - Store.get 0 d.last h.level)) % 256

/-- The ready heads in the order of the search. -/
def State.search (s : State) : List Head := sortBy (fun h => s.dist.searchKey h) s.heads

/-- Is a head the one that stays chosen at its level (R290)? -/
def Distributor.isChosen (d : Distributor) (h : Head) : Bool := decide (Store.get 0 d.chosen h.level = h.queue + 1)

/-- The candidate of a cycle (R290, R293): a promoted head; else, at the lowest level with a ready head, the head that
stays chosen, or the first of the search. -/
def State.candidate (s : State) : Option Head :=
  let hs := s.search
  let promoted := hs.find? fun h => decide (s.dist.promoted.map (fun p => p.1) = some h.queue)
  match promoted, hs with
  | some h, _ => some h
  | none, [] => none
  | none, f :: _ => some ((hs.find? fun h => decide (h.level = f.level) && s.dist.isChosen h).getD f)

/-! ## Where a record fits (R291, R294, R297, R298) -/

/-- The cores that are not free, with one more than the XB a new partition can take there. -/
def State.busyCores (s : State) : List (Nat × Nat) := (s.dies.map fun e => e.2.reported).flatten

/-- Does a partition fit a core (R291): as a free core, or as a second context (`true`)? -/
def fitsCore (busy : List (Nat × Nat)) (part core : Nat) : Option Bool :=
  match lookup busy core with
  | none => some false
  | some v =>
    if 0 < v ∧ field part 16 7 = 0 ∧ field part 28 4 + field part 23 5 ≤ v - 1 then some true else none

/-- What a core counts after a placement. -/
def busyAfter (busy : List (Nat × Nat)) (part core : Nat) : List (Nat × Nat) :=
  let v := match lookup busy core with
    | none => field part 16 7 + 1
    | some _ => 0
  (busy.filter fun e => !decide (e.1 = core)) ++ [(core, v)]

/-- The cores of a die. -/
def coresOf (die : Nat) : List Nat := (List.range 32).map fun k => 32 * die + k

/-- The cores a record may use, in the order they are tried (R291, R294): PIN places the launch's own blocks, DIES all its
records. -/
def Launch.coresFor (l : Launch) (own : Bool) (r : Record) : List Nat :=
  match l.pin, own with
  | some c, true => if c + r.blk < 512 then [c + r.blk] else []
  | _, _ => (dies16.filter fun d => bitOf l.dies d).flatMap coresOf

/-- The core a record takes (R291): a free one is preferred. -/
def pickCore (busy : List (Nat × Nat)) (part : Nat) (cores : List Nat) : Option Nat :=
  match cores.find? fun c => decide (fitsCore busy part c = some false) with
  | some c => some c
  | none => cores.find? fun c => decide (fitsCore busy part c = some true)

/-- Cores for records that are placed at once. -/
def pickAll (l : Launch) (own : Bool) (allow : Nat → Bool) : List Record → List (Nat × Nat) → Option (List (Record × Nat))
  | [], _ => some []
  | r :: rs, busy =>
    let part := l.image.partition.toNat
    match pickCore busy part ((l.coresFor own r).filter allow) with
    | some c => (pickAll l own allow rs (busyAfter busy part c)).map fun t => (r, c) :: t
    | none => none

/-- The placement of a head on cores that are allowed, if it fits now (R291, R297, R298). -/
def State.placementOf (s : State) (h : Head) (allow : Nat → Bool) : Option (Launch × List (Record × Nat)) :=
  match h.recs.head?.bind fun r => s.launch r.launch with
  | none => none
  | some l =>
    let own := decide (h.queue < 4)
    let busy := s.busyCores
    let p := if l.gang && own then
        firstSome (fun d => if 0 < (s.die d).gangFree then
          pickAll l own (fun c => allow c && decide (dieOf c = d)) h.recs busy else none) dies16
      else pickAll l own allow h.recs busy
    p.map fun t => (l, t)

/-- Could a head use a core, whatever runs there (R290)? -/
def State.couldUse (s : State) (h : Head) (core : Nat) : Bool :=
  match h.recs.head?.bind fun r => s.launch r.launch with
  | none => false
  | some l => h.recs.any fun r => (l.coresFor (decide (h.queue < 4)) r).contains core

/-! ## Placement (R284, R289, R291, R297, R298) -/

/-- The first `n` records leave a ring, on-chip entries and lent slots alike; the blocks returned with it (R289). -/
def Ring.takeHead (r : Ring) (n : Nat) : Ring × Nat :=
  let low := r.deliver + n
  let keep (e : Nat × List Word) : Bool := decide (low ≤ e.1)
  let lent := r.lent.filter keep
  let r1 := { r with entries := r.entries.filter keep, lent := lent, deliver := low, low := low }
  if lent.length = r.lent.length then (r1, 0)
  else if lent.isEmpty then ({ r1 with lentUsed := 0, blocks := 0, moving := [] }, r.blocks)
  else
    let gone := (r.lentUsed - lent.length) / 32
    ({ r1 with lentUsed := r.lentUsed - 32 * gone, blocks := r.blocks - gone
               moving := r.moving.filter fun m => decide (low ≤ m.1) }, gone)

/-- The task of a record that is placed (R284, R294, R298, R326). A pushed record has no barrier membership. -/
def Launch.taskOf (l : Launch) (q : Nat) (r : Record) (gang : Option Nat) (base : Nat) : Task :=
  { launch := l.num, blk := r.blk, asid := match r.mailbox with
      | some m => m.2.2
      | none => l.asid
    prio := r.prio, entry := r.entry, succ := r.succ, chk := l.image.chk, gang := gang
    bars := if q < 4 then l.bars else 0, fromQueue := if q < 4 then none else some q
    mailbox := r.mailbox.map fun m => (m.1, m.2.1)
    release := r.release, preload := l.image.preload, trace := l.trace, base := base, placed := 0 }

/-- The first bank of a task placed beside another: the reserved banks of that one (R240). -/
def State.baseBeside (s : State) (other : Ctx) : Nat :=
  if other.task.isNone then 0 else 64 - field (s.partitionOf other).toNat 16 7

/-- A block of a queue that a relaunch runs for the first time is recorded from its start (R361, R365). -/
def State.recordAfresh (s : State) (l : Launch) (blk : Nat) : State :=
  if l.relaunch && decide (l.trace ≠ 0) && !l.redone.contains blk then
    ((s.onRecord l.trace blk fun _ => TraceRec.empty blk).storeRecords l.trace [blk]).onLaunch l.num fun k =>
      { k with redone := k.redone ++ [blk] }
  else s

/-- A task is placed on a core (R291, R292): in the active context when that one holds no task, else in the shadow bank. Its
die's clock takes in those of its launch and its record (R311). -/
def State.placeOn (s : State) (l : Launch) (q : Nat) (gang : Option Nat) (r : Record) (core : Nat) : State :=
  let c := s.core core
  let free := c.act.task.isNone
  let base := s.baseBeside (if free then c.shadow else c.act)
  let put (x : Ctx) : Ctx :=
    { x with task := some { l.taskOf q r gang base with placed := s.cycle }, phase := .waiting, barriers := [],
             asked := false, held := false, trap := none, fp := [], waits := [], yield := false, gate := [], marks := [], pend := [], heldPop := none }
  let s1 := s.onCore core fun c => if free then { c with act := put c.act } else { c with shadow := put c.shadow }
  let d := dieOf core
  let busy := busyAfter (s1.die d).reported (l.image.partition.toNat) core
  let clock := mergeMax (((s.launch l.num).map fun k => k.clock).getD []) r.clock
  let s2 := ((s1.onDie d fun k => { k with reported := busy }).joinClock d clock).recordAfresh l r.blk
  s2.onDist fun d => if r.release = 0 then d else { d with running := d.running ++ [r] }

/-- The pipes of a new gang: one wired where the launch wires it (R280, R294). -/
def Launch.gangPipes (l : Launch) : Store Pipe :=
  match l.wire with
  | some w => [(w.2, { Pipe.reset with wire := some w.1 })]
  | none => []

/-- A gang takes the lowest free slot of its die (R297). -/
def State.startGang (s : State) (l : Launch) (cores : List (Record × Nat)) : Option Nat × State :=
  let d := dieOf ((cores.map fun e => e.2).headD 0)
  match (List.range 8).find? fun k => (Store.get none s.dist.gangs (8 * d + k)).isNone with
  | none => (none, s)
  | some k =>
    let members := cores.map fun e =>
      (e.2, (if (s.core e.2).act.task.isNone then (s.core e.2).act.cid else (s.core e.2).shadow.cid), e.1.blk)
    let g : Gang := ⟨l.num, d, members, l.gangPipes⟩
    (some (8 * d + k), (s.onDist fun t => { t with gangs := Store.insert t.gangs (8 * d + k) (some g) }).onDie d fun t =>
      { t with gangFree := t.gangFree - 1 })

/-- A head is placed: all its records at once, and they leave the queue together (R289, R290). -/
def State.place (s : State) (h : Head) (l : Launch) (cores : List (Record × Nat)) : State :=
  let own := decide (h.queue < 4)
  let g := if l.gang && own then s.startGang l cores else (none, s)
  let s1 := cores.foldl (fun s e => s.placeOn l h.queue g.1 e.1 e.2) g.2
  let s2 := if own then s1 else s1.onLaunch l.num fun l => { l with placed := l.placed + cores.length }
  let t := (s2.queue h.queue).ring.takeHead cores.length
  let s3 := (s2.onQueue h.queue fun k => { k with recs := k.recs.drop cores.length, ring := t.1 }).lendBlocks 0 0 t.2
  s3.onDist fun d => { d with
    last := Store.set 0 d.last h.level (255 - h.queue)
    chosen := if d.isChosen h then Store.set 0 d.chosen h.level 0 else d.chosen
    promoted := if d.promoted.map (fun p => p.1) = some h.queue then none else d.promoted }

/-- The level a waiting head is ahead of: a promoted one goes ahead of the level it was promoted over (R293). -/
def Distributor.waitLevel (d : Distributor) (h : Head) : Nat :=
  match d.promoted with
  | some p => if p.1 = h.queue then p.2 else h.level
  | none => h.level

/-- The heads that wait. -/
def State.waitingHeads (s : State) : List Head :=
  s.heads.filter fun h => s.dist.isChosen h || decide (s.dist.promoted.map (fun p => p.1) = some h.queue)

/-- The cores a head may take while others wait (R290): not those a waiting head ahead of it could use. -/
def State.allowedFor (s : State) (waiting : List Head) (h : Head) (core : Nat) : Bool :=
  waiting.all fun w => decide (w.queue = h.queue) || decide (h.level < s.dist.waitLevel w) || !s.couldUse w core

/-- The first other head of the search that can be placed (R290); those that wait at other levels are tried among them. -/
def State.placeOther (s : State) (tried : Nat) (waiting : List Head) : List Head → State
  | [] => s
  | h :: l =>
    if h.queue = tried then State.placeOther s tried waiting l
    else match s.placementOf h (s.allowedFor waiting h) with
      | some p => s.place h p.1 p.2
      | none => State.placeOther s tried waiting l

/-- The heads that wait ahead of a head: at levels below the one that it is ahead of itself (R290, R293). -/
def State.waitingAhead (s : State) (h : Head) : List Head :=
  s.waitingHeads.filter fun w => decide (s.dist.waitLevel w < s.dist.waitLevel h)

/-- The search of one cycle (R290, R291). -/
def State.searchAndPlace (s : State) : State :=
  match s.candidate with
  | none => s
  | some h =>
    match s.placementOf h (s.allowedFor (s.waitingAhead h) h) with
    | some p => s.place h p.1 p.2
    | none =>
      let s1 := s.onDist fun d => { d with chosen := Store.set 0 d.chosen h.level (h.queue + 1) }
      s1.placeOther h.queue s1.waitingHeads s1.search

/-! ## Busy periods (R293) -/

/-- Is a level busy in this cycle? -/
def State.levelBusy (s : State) (p : Nat) : Bool :=
  (s.dist.queues.any fun e => !e.2.wired && decide (s.dist.queueLevel e.1 = p) && e.2.recs.any fun r => r.ready) ||
  (s.cores.any fun e =>
    let runs (x : Ctx) : Bool := match x.task with
      | some t => decide (t.prio = p)
      | none => false
    runs e.2.act || runs e.2.shadow)

/-- The beginnings of the busy periods as they stand in this cycle. -/
def State.busyPeriods (s : State) : Store Nat :=
  [0, 1, 2].foldl (fun t p =>
    let old := Store.get 0 s.dist.busySince p
    Store.set 0 t p (if s.levelBusy p then (if old = 0 then s.cycle + 1 else old) else 0)) []

/-- Has a busy period passed RUNMAX while a head of a higher level number waits? That head (R293). -/
def State.breach (s : State) (p : Nat) : Option Head :=
  let since := Store.get 0 s.dist.busySince p
  let bound := 2 ^ 32 - 1 - Store.get 0 s.dist.runmax p
  if 2 < p ∨ since = 0 ∨ s.cycle + 2 - since ≤ bound ∨ s.dist.promoted.isSome = true then none
  else s.search.find? fun h => decide (p < h.level)

/-- RUNMAX_BREACH (R293): the breach is recorded and the waiting head promoted. -/
def execRunmaxBreach (level : Nat) (s : State) : Out :=
  match s.breach level with
  | none => .next s
  | some h => .next ((s.onDie 0 fun d => { d with log := d.log ++ [⟨2, level, h.queue, 0⟩] }).onDist fun d =>
      { d with promoted := some (h.queue, level) })

/-- The chosen heads that are still ready heads of their level. -/
def State.stillChosen (s : State) : Store Nat :=
  s.dist.chosen.filter fun e => s.heads.any fun h => decide (h.level = e.1) && decide (h.queue + 1 = e.2)

/-- Has the distributor anything to do that it has not done in this cycle? -/
def State.searchDue (s : State) : Bool :=
  decide (s.dist.searched ≤ s.cycle) &&
    (s.anyNewReady || !s.heads.isEmpty || decide (s.busyPeriods ≠ s.dist.busySince))

/-- DISTRIBUTOR_PLACE (R286, R289 to R293, R297, R298). -/
def execDistributorPlace (s : State) : Out :=
  if s.searchDue then
    let s1 := (s.markReady.onDist fun d => { d with searched := s.cycle + 1 })
    let s2 := s1.onDist fun d => { d with busySince := s1.busyPeriods, chosen := s1.stillChosen }
    .next s2.searchAndPlace
  else .next s

/-! ## Reports (R291) -/

/-- What a die reports of a core that is not free. -/
def State.coreReport (s : State) (core : Nat) : List (Nat × Nat) :=
  let c := s.core core
  match c.act.task.isSome, c.shadow.task.isSome with
  | false, false => []
  | true, true => [(core, 0)]
  | true, false => [(core, field (s.partitionOf c.act).toNat 16 7 + 1)]
  | false, true => [(core, field (s.partitionOf c.shadow).toNat 16 7 + 1)]

/-- The report of a die. -/
def State.report (s : State) (die : Nat) : State :=
  let busy := ((s.cores.filter fun e => decide (dieOf e.1 = die)).map fun e => s.coreReport e.1).flatten
  let used := (s.dist.gangs.filter fun g => g.2.isSome && decide (g.1 / 8 = die)).length
  if busy = (s.die die).reported ∧ (s.die die).gangFree = 8 - used then s
  else s.onDie die fun d => { d with reported := busy, gangFree := 8 - used }

/-- DIE_REPORT (R291): every die, in the cycles that 64 divides. -/
def execDieReport (s : State) : Out :=
  if s.dist.reportAt ≤ s.cycle then
    .next ((dies16.foldl (fun s d => s.report d) s).onDist fun d => { d with reportAt := (s.cycle / 64 + 1) * 64 })
  else .next s

/-! ## Ticks (R287, R288) -/

/-- The late records of the current frame: launch and block. -/
def State.lateRecords (s : State) : List (Nat × Nat) :=
  let d := s.dist
  let queued := (d.queues.filter fun e => !e.2.wired).flatMap fun e => e.2.recs
  ((queued ++ d.running).filter fun r => d.lateRelease r.release).map fun r => (r.launch, r.blk)

/-- Would the next tick begin a frame? -/
def Distributor.frameEnds (d : Distributor) : Bool := decide (d.framelen ≠ 0) && decide ((d.tick + 1) % d.framelen = 0)

/-- A slip event: logged, or lost with OVF set when the log holds 16 (R288). -/
def Distributor.slip (d : Distributor) (late : List (Nat × Nat)) : Distributor :=
  let low := late.foldl (fun m e => min m (e.1 * 65536 + e.2)) (4096 * 65536)
  let e : Slip := ⟨d.tick / d.framelen % 2 ^ 32, min late.length 0xFFFF, low / 65536, low % 65536⟩
  if d.slips.length < 16 then { d with slips := d.slips ++ [e] } else { d with slipOvf := true }

/-- TICK takes its next value, and its count starts afresh. -/
def Distributor.advance (d : Distributor) (cycle : Nat) : Distributor :=
  { d with tick := (d.tick + 1) % 2 ^ 64, tickHeld := false, nextTick := cycle + d.ticklen }

/-- Does TICK act in this cycle: it advances, or is held now? -/
def State.tickDue (s : State) : Bool :=
  decide (s.dist.nextTick ≤ s.cycle) && (!s.dist.tickHeld || s.lateRecords.isEmpty)

/-- TICK_ADVANCE (R287). -/
def execTickAdvance (s : State) : Out :=
  if s.tickDue then
    let late := s.lateRecords
    if s.dist.frameEnds ∧ !late.isEmpty then
      let s1 := s.onDist fun d => { (d.slip late) with tickHeld := true }
      .next (if 16 ≤ s.dist.slips.length then { s1 with setNow := s1.setNow ++ [4] } else s1)
    else .next (s.onDist fun d => d.advance s.cycle)
  else .next s

/-! ## Lent slots (R283, R300) -/

/-- A ring by number: queue n, or 256 + 32·gang + pipe. -/
def State.anyRing (s : State) (n : Nat) : Ring :=
  if n < 256 then (s.queue n).ring else (s.pipe ((n - 256) / 32) (n % 32)).ring

/-- That ring changed. -/
def State.onAnyRing (s : State) (n : Nat) (f : Ring → Ring) : State :=
  if n < 256 then s.onQueue n fun k => { k with ring := f k.ring }
  else s.onPipe ((n - 256) / 32) (n % 32) fun p => { p with ring := f p.ring }

/-- Entries of a ring (R281, R300). -/
def ringSize (n : Nat) : Nat := if n < 256 then 32 else 16

/-- The die that lends to a ring. -/
def State.ringDie (s : State) (n : Nat) : Nat := if n < 256 then 0 else s.gangDie ((n - 256) / 32)

/-- Can a released element that waits for a block enter now (R300)? -/
def State.admitDue (s : State) (n : Nat) : Bool :=
  let r := s.anyRing n
  !r.waiting.isEmpty && r.canEnter (ringSize n) (s.die (s.ringDie n)).lend

/-- Is a move to begin or to end in this cycle, or a waiting element to enter? -/
def State.moveDue (s : State) (n : Nat) : Bool :=
  let r := s.anyRing n
  (r.startable (ringSize n)).isSome || r.moveEnds s.cycle || s.admitDue n

/-- LENT_SLOT_MOVE (R283, R300): a move begins in the cycle in which its entry is freed, and ends at a free time, its record
poppable from the next cycle on at the earliest; moves end in ordinal order. A block that returns lets elements enter. -/
def execLentSlotMove (queue : Nat) (s : State) : Out :=
  let r := s.anyRing queue
  match r.startable (ringSize queue) with
  | some o =>
    let t := s.draw
    .next (t.2.onAnyRing queue fun r => { r with moving := r.moving ++ [(o, s.cycle + t.1)] })
  | none =>
    if r.moveEnds s.cycle then
      let t := r.move (ringSize queue)
      .next ((s.onAnyRing queue fun _ => t.1).lendBlocks (s.ringDie queue) 0 t.2)
    else if s.admitDue queue then
      let t := r.takeIn (ringSize queue) (s.die (s.ringDie queue)).lend r.waiting.length
      let s1 := (s.onAnyRing queue fun _ => t.1).lendBlocks (s.ringDie queue) t.2 0
      .next (s1.writeLent queue (s.ringDie queue) (ringSize queue) r t.1)
    else .next s

end Sys2Proof.Machine
end

