-- ==== Sys2Proof/Machine/Swap.lean ====
section
/-! DEFINITION. Fetch (R18, R70 to R73), release points, context swaps and the wait table (R177, R190, R231, R240, R242,
R282, R292, R300, R306). -/

namespace Sys2Proof.Machine

/-! ## Fetch (R18, R70 to R73, R104, R128) -/

/-- The bits of the literal bundle of the escape at a PC (R71). -/
def Ctx.literal (x : Ctx) (pc : Nat) : Nat := ofWords 16 ((List.range 24).map fun k => x.index (pc + 1 + k))

/-- A trap raised at fetch: slot code 7. -/
def fetchTrap (cause pc detail : Nat) : TrapCause := ⟨cause, 7, 0, pc, detail⟩

/-- A decoded bundle, or the illegal-bundle fault at its PC (R71). -/
def orIllegal (pc : Nat) (r : Except BundleFault Bundle) : Except TrapCause Bundle :=
  match r with
  | .ok b => .ok b
  | .error f => .error (fetchTrap 3 pc f.syllable)

/-- The bundle at the PC, or the trap that its fetch raises. A target beyond the window is recorded at the transferring
bundle (R128). -/
def Ctx.fetch (x : Ctx) : Except TrapCause Bundle :=
  let pc := x.regs.pc
  if x.windowEnd ≤ pc then .error (fetchTrap 2 (x.transferred.getD pc) 0)
  else
    let k := x.index pc
    if k = 0 then .ok Bundle.empty
    else if k = 0xFFFF then
      if x.windowEnd ≤ pc + 24 then .error (fetchTrap 2 pc 0) else orIllegal pc (decodeBundle (x.literal pc))
    else match if k < 0x800 then Store.get none x.dict k else none with
      | some d => orIllegal pc (decodeBundle d.toNat)
      | none => .error (fetchTrap 1 pc k)

/-! ## Release points (R177, R231, R282, R300) -/

/-- The elements that wait at a pipe enter while a block can be lent for them (R300). -/
def State.admitPipe (s : State) (g num : Nat) : State :=
  let old := s.ringOf g num
  let r := old.takeIn 16 (s.die (s.gangDie g)).lend old.waiting.length
  ((s.onRing g num fun _ => r.1).lendBlocks (s.gangDie g) r.2 0).writeLent (256 + 32 * g + num) (s.gangDie g) 16 old r.1

/-- Released elements enter their pipes, in order (R300). -/
def State.enterPushes (s : State) : List (Nat × List Word) → State
  | [] => s
  | e :: l =>
    let g := e.1 / 32
    let s1 := s.onRing g (e.1 % 32) fun r => { r with waiting := r.waiting ++ [e.2] }
    State.enterPushes (s1.admitPipe g (e.1 % 32)) l

/-- The records that a context popped in bundles before `seq` are released (R282). -/
def State.releasePops (s : State) (core : Nat) (x : Ctx) (seq : Nat) : State :=
  match x.gang with
  | none => s
  | some g => match s.gang g with
    | none => s
    | some k => k.pipes.foldl (fun s p => s.onRing g p.1 fun r => r.releasePops core x.cid seq) s

/-- A mark of the active context commits (R231): its stores are released, pushed elements enter their pipes, popped
records and emptied slots are freed. `all`: a HALT or a swap. -/
def State.commit (s : State) (core : Nat) (k : Mark) (all : Bool) : State :=
  let x := (s.core core).act
  let pushes := x.releasedPushes k.cycle k.seq all
  let s1 := s.onCore core fun c => { c with act := c.act.commitMark k all }
  (s1.enterPushes pushes).releasePops core x k.seq

/-- Every mark of the active context that can commit in this cycle commits (R231), at most `fuel` of them. -/
def State.commitReady (s : State) (core : Nat) : Nat → State
  | 0 => s
  | fuel + 1 =>
    match (s.core core).act.nextCommit with
    | none => s
    | some k => State.commitReady (s.commit core k false) core fuel

/-- A restart mark falls, and marks commit that can (R228, R231). -/
def State.mark (s : State) (core : Nat) : State :=
  (s.onCore core fun c => { c with act := c.act.takeMark s.cycle }).commitReady core ((s.core core).act.marks.length + 1)

/-! ## Swap requests (R137, R242, R292) -/

/-- Does the header of the next bundle put a restart mark before it (R228)? -/
def Ctx.markAhead (x : Ctx) : Bool :=
  decide (x.phase = .running) && match x.fetch with
    | .ok b => b.head.mark
    | .error _ => false

/-- Does the next bundle of a context lie directly after a restart mark (R242 condition 2): one that has fallen, or that
of its own header, whatever holds the bundle? -/
def Ctx.atMark (x : Ctx) : Bool := decide ((lastMark x.marks).map (fun k => k.seq) = some x.seq) || x.markAhead

/-- The level of a context's task. -/
def Ctx.level (x : Ctx) : Nat := match x.task with
  | some t => t.prio
  | none => 4

/-- May a swap other than a park take the active context out (R297)? -/
def Ctx.yields (x : Ctx) : Bool := x.gang.isNone

/-- The request that the distributor, or an active context that has ended, raises (R242, R292). -/
def State.requestDue (s : State) (core : Nat) : Bool :=
  let c := s.core core
  c.swapWanted.isNone && s.shadowRuns core &&
    (!c.act.canRun || (!c.shadow.asked && decide (c.shadow.level < c.act.level) && c.act.yields))

/-- A request is raised for the context in the shadow bank. -/
def Core.request (c : Core) (reason : Nat) : Core :=
  { c with swapWanted := some reason, shadow := { c.shadow with asked := true } }

/-- SWAP_REQUEST (R242, R292). -/
def execSwapRequest (core : Nat) (s : State) : Out :=
  if 512 ≤ core then .fault (.absent core)
  else .next (if s.requestDue core then s.onCore core fun c => c.request 0 else s)

/-- QUANTUM_EXPIRY (R242): the die controller raises a request at the end of a quantum. -/
def execQuantumExpiry (core : Nat) (s : State) : Out :=
  if 512 ≤ core then .fault (.absent core)
  else
    let c := s.core core
    .next (if c.swapWanted.isNone && s.shadowRuns core && c.act.yields then s.onCore core fun c => c.request 1 else s)

/-- Is a context of equal or higher priority ready for a YIELD (R137)? -/
def State.yieldTo (s : State) (core : Nat) : Bool :=
  let c := s.core core
  s.shadowRuns core && decide (c.shadow.level ≤ c.act.level) && c.act.yields

/-- The sequencer has come to a restart mark (R137, R242): a YIELD is offered there, and is over. -/
def State.reachMark (s : State) (core : Nat) : State :=
  let c := s.core core
  if !c.act.yield then s
  else
    let s1 := s.onCore core fun c => { c with act := { c.act with yield := false } }
    if c.swapWanted.isNone && s.yieldTo core then s1.onCore core fun c => c.request 2
    else s1.onCore core fun c => { c with act := { c.act with nextAt := max c.act.nextAt (s.cycle + 1) } }

/-! ## The swap (R242) -/

/-- Is a gate entry a pushed element that has not landed (R154)? -/
def Gated.landing (g : Gated) (cycle : Nat) : Bool := (g.stream.isSome || g.pipe.isSome) && decide (cycle < g.wcycle)

/-- Has the active context settled (R242 conditions 2 to 4)? A store has no result to land (log 68). -/
def Core.settled (c : Core) (cycle : Nat) : Bool :=
  let x := c.act
  !x.held && x.trap.isNone && x.fp.isEmpty && (x.pend.all fun l => l.eng) && (x.gate.all fun g => !g.landing cycle) &&
    (x.timeline 0).out.isEmpty && !c.mx.repeating cycle && (!x.canRun || x.atMark)

/-- Does the swap begin in this cycle? -/
def State.swapDue (s : State) (core : Nat) : Bool :=
  let c := s.core core
  c.swapWanted.isSome && s.shadowRuns core && decide (c.swapEnd ≤ s.cycle) && c.settled s.cycle

/-- The exchange of the two contexts: the incoming one may issue after 48 c, and its held conditions are tested afresh. -/
def Core.exchange (c : Core) (cycle : Nat) : Core :=
  let out : Ctx := { c.act with svc := Service.none, asked := true, yield := false }
  let in_ : Ctx := { c.shadow with nextAt := max c.shadow.nextAt (cycle + 48), heldSince := cycle + 48 }
  let keep (q : Queued) : Bool := match q with
    | .slot _ _ _ => false
    | _ => true
  { c with act := in_, shadow := out, swapWanted := none, swapEnd := cycle + 48
           pane := { c.pane with accesses := c.pane.accesses.filter keep } }

/-- CONTEXT_SWAP (R242): the outgoing context's gate buffer is released, and the contexts are exchanged. -/
def execContextSwap (core : Nat) (s : State) : Out :=
  if 512 ≤ core then .fault (.absent core)
  else if s.swapDue core then
    let s1 := if (s.core core).act.canRun then s.mark core else s
    let x := (s1.core core).act
    let k : Mark := ⟨x.seq, s.cycle, false, x.regs⟩
    .next ((s1.commit core k true).onCore core fun c => c.exchange s.cycle)
  else .next s

/-! ## The wait table (R306) -/

/-- Does a wait hold no longer (R138, R139)? The release of a barrier instance takes its wait away. -/
def Ctx.waitOver (x : Ctx) : Wait → Bool
  | .count tl n _ => decide (n ≤ (x.timeline tl).c)
  | .outstanding tl n => decide ((x.timeline tl).out.length ≤ n)
  | .barrier _ => false
  | .stores seq => x.gate.all fun g => g.written || decide (seq ≤ g.seq)

/-- Is a context held at a WAIT or WAITO? -/
def Ctx.atWait (x : Ctx) : Bool := x.waits.any fun w => match w with
  | .count _ _ _ => true
  | .outstanding _ _ => true
  | _ => false

/-- Can the pop that holds a context go on? -/
def State.popOver (s : State) (core : Nat) (x : Ctx) (q : Nat) : Bool :=
  match x.regs.q.find? fun e => decide (e.1 = q) with
  | some (_, some b) => match b.src, x.gang with
    | .pipe n _ _, some g =>
      let r := s.ringOf g n
      (r.candidate core x.cid).isSome || ((s.pipe g n).broken && r.lent.isEmpty && r.waiting.isEmpty)
    | _, _ => true
  | _ => true

/-- Does the condition of a parked context hold? -/
def State.conditionHolds (s : State) (core : Nat) (x : Ctx) : Bool :=
  (x.waits.all fun w => match w with
    | .count _ _ _ => x.waitOver w
    | .outstanding _ _ => x.waitOver w
    | _ => true) &&
  match x.heldPop with
  | some q => s.popOver core x q
  | none => true

/-- Has the active context been held for 512 c directly after a mark, at a WAIT, a WAITO or a pipe pop (R306)? -/
def State.parkable (s : State) (core : Nat) : Bool :=
  let c := s.core core
  let x := c.act
  decide (x.phase = .running) && !x.held && x.trap.isNone && (x.atWait || x.heldPop.isSome) &&
    decide (x.heldSince + 512 ≤ s.cycle) && c.swapWanted.isNone && x.atMark

/-- The ready record that the distributor places on a core as its second context, for a park (R306). -/
def State.parkHead (s : State) (core : Nat) : Option (Head × Launch × List (Record × Nat)) :=
  firstSome (fun h => if h.recs.length = 1 then
    (s.placementOf h fun c => decide (c = core) && s.allowedFor s.waitingHeads h c).map fun p => (h, p) else none) s.search

/-- Does a context park, or is it refused, in this cycle? -/
def State.parkDue (s : State) (core : Nat) : Bool :=
  s.parkable core && (s.shadowRuns core || ((s.core core).shadow.task.isNone && (s.parkHead core).isSome))

/-- PARK (R306): with the table full, WTFULL counts the refusal. -/
def execPark (core : Nat) (s : State) : Out :=
  if 512 ≤ core then .fault (.absent core)
  else if s.parkDue core then
    let d := dieOf core
    if 1024 ≤ (s.die d).parked.length then
      .next ((s.onDie d fun k => { k with wtfull := min (k.wtfull + 1) 0xFFFFFFFF }).onCore core fun c =>
        { c with act := { c.act with heldSince := s.cycle } })
    else
      let s1 := if s.shadowRuns core then s
        else match s.parkHead core with
          | some p => s.place p.1 p.2.1 p.2.2
          | none => s
      .next ((s1.onDie d fun k => { k with parked := k.parked ++ [⟨core, (s.core core).act.cid⟩] }).onCore core fun c =>
        c.request 3)
  else .next s

/-- Does the condition of the context parked in a core's shadow bank hold? -/
def State.wakeDue (s : State) (core : Nat) : Bool :=
  let x := (s.core core).shadow
  s.isParked core x && s.conditionHolds core x

/-- WAIT_TABLE_WAKE (R306): the entry frees, and a swap request is raised for the context. -/
def execWaitTableWake (core : Nat) (s : State) : Out :=
  if 512 ≤ core then .fault (.absent core)
  else if s.wakeDue core then
    let s1 := s.unpark core (s.core core).shadow.cid
    .next (if (s.core core).swapWanted.isNone && (s.core core).act.yields then s1.onCore core fun c => c.request 3 else s1)
  else .next s

/-! ## Saved contexts (R244) -/

/-- May firmware save a context that is out: every counter has C = I, and its stores are in its banks? A parked one stays
(log 121). -/
def State.savable (s : State) (core : Nat) (x : Ctx) : Bool :=
  decide (x.phase = .running) && x.gang.isNone && x.countersIdle && x.gate.isEmpty && !s.isParked core x

/-- The banks and the shadow bank image of the context that is out are saved, and the core holds one context. -/
def State.saveContext (s : State) (core : Nat) (key : Word) : State :=
  let x := (s.core core).shadow
  if s.savable core x then
    (s.onCore core fun c => { c with
      shadow := { x with task := none, phase := .none }
      saved := c.saved ++ [⟨key, x, c.pool.filter fun e => x.owns e.1⟩] }).settleSwap core
  else s

/-- Have two contexts no bank in common (R240)? -/
def Ctx.besides (x y : Ctx) : Bool := decide (64 - x.xb ≤ y.bankBase) || decide (64 - y.xb ≤ x.bankBase)

/-- A saved context is back in the shadow bank, with its banks. -/
def Core.restoreContext (c : Core) (v : Saved) : Core :=
  { c with
    shadow := { v.ctx with cid := c.shadow.cid }
    pool := Memory.writeCells (c.pool.filter fun e => !v.ctx.owns e.1) v.pool
    saved := c.saved.erase v }

/-- Are the shadow bank of a core and the banks of a saved context free? -/
def Core.roomFor (c : Core) (v : Saved) : Bool :=
  c.shadow.task.isNone && decide (c.act.phase ≠ .waiting) && (c.act.task.isNone || c.act.besides v.ctx)

/-- Firmware restores a saved context: the core then counts as one with two contexts (R291). -/
def State.restoreContext (s : State) (core : Nat) (key : Word) : State :=
  match (s.core core).saved.find? fun v => decide (v.key = key) with
  | some v =>
    if (s.core core).roomFor v then
      (s.onCore core fun c => c.restoreContext v).onDie (dieOf core) fun d => { d with
        reported := (d.reported.filter fun e => !decide (e.1 = core)) ++ [(core, 0)] }
    else s
  | none => s

end Sys2Proof.Machine
end

