-- ==== Sys2Proof/Machine/Mailbox.lean ====
section
/-! DEFINITION. Mailboxes: registration, acceptance of messages, and host messages (R304, R305, R326, R341, R343). -/

namespace Sys2Proof.Machine

/-- Is the ring of a mailbox in host memory (R341)? -/
def State.inHost (s : State) (asid ring : Nat) : Bool := match s.translateNow 0 asid ring true with
  | some l => decide (l.kind = 1)
  | none => false

/-- Does a registration obey R304? -/
def State.registerOk (s : State) (slot va queue n ring : Nat) (handler : List Word) : Bool :=
  decide (va % 64 = 0) && decide (va < 2 ^ 52) && decide (n ≤ 12) && decide (ring < 2 ^ 52) && decide (handler.length = 8) &&
  (Store.get none s.dist.mailboxes slot).isNone && !(s.queue queue).wired &&
  match (s.queue queue).launch.bind s.launch with
  | some l => l.recordOk (s.dist.queueLevel queue) handler
  | none => false

/-- MAILBOX_REGISTER (R304): firmware's registration, checked when it is made. -/
def execMailboxRegister (slot va queue n ring asid : Nat) (handler : List Word) (s : State) : Out :=
  if 1024 ≤ slot then .fault (.absent slot)
  else if 256 ≤ queue then .fault (.absent queue)
  else if s.registerOk slot va queue n ring handler then
    let m : Mailbox := ⟨va, queue, n, ring, asid % 4096, handler, s.inHost (asid % 4096) ring, 0, [], []⟩
    .next (s.onDist fun d => { d with mailboxes := Store.insert d.mailboxes slot (some m) })
  else .next s

/-- The 64 bytes of a message in its ring slot (R304). -/
def messageBytes (sender : Nat) (words : List Word) : List Byte :=
  let len := (nth0 words 0).toNat % 16
  let payload := (List.range 12).map fun k => if k < len then (nth0 words (k + 1)).toNat else 0
  ((len + 65536 * sender) :: payload ++ [0, 0, 0]).flatMap fun w => toBytes w 4

/-- The ring slot of a mailbox's next ordinal (R304). -/
def Mailbox.slot (m : Mailbox) : Nat := m.next % 2 ^ m.n

/-- The virtual address of the ring slot of a mailbox's next ordinal. -/
def Mailbox.slotVa (m : Mailbox) : Nat := m.ring + 64 * m.slot

/-- The die and the translator of a message's ring write: of the copy engine of its sender's core, of the host's translator, or
of a receiving die's controller (R305, R330, R342, R355). -/
def Message.translator (w : Message) : Nat × Nat :=
  if w.sender < 512 then (w.die, engineOf w.sender) else (w.die, if w.die = 0 then hostEngine else noEngine)

/-- The leaf of the ring slot of a message that no operation of this package waits for: none where the write is refused, and
the message waits until it is not (log 116). -/
def State.ringLeaf (s : State) (m : Mailbox) (w : Message) : Option Leaf :=
  (s.leafNow w.translator.1 w.translator.2 m.asid m.slotVa).filter fun l =>
    l.permits true && s.reachable w.die l m.slotVa 64 true

/-- Can the oldest waiting message of a mailbox be accepted: its slot is free, its handler has a place, and its operation does
not wait for a translation of the ring? -/
def State.acceptDue (s : State) (slot : Nat) : Bool :=
  match Store.get none s.dist.mailboxes slot with
  | some m => !(m.busy.contains m.slot) && (m.host || s.queueOpen m.queue) && (match m.waiting with
    | [] => false
    | w :: _ => match w.op with
      | some o => match s.op o with
        | some k => decide (k.stage = .waiting)
        | none => true
      | none => (s.ringLeaf m w).isSome)
  | none => false

/-- The handler's record of a message (R304): the registered words with BLK the ordinal. -/
def Mailbox.record (m : Mailbox) : List Word := m.handler.take 7 ++ [BitVec.ofNat 32 (m.next % 65536)]

/-- The handler of an accepted message is pushed to its queue (R285, R304, R326), with the clock of the message (R311). -/
def State.pushHandler (s : State) (slot : Nat) (m : Mailbox) (clock : Store Nat) : State :=
  match (s.queue m.queue).launch.bind s.launch with
  | none => s
  | some l =>
    let w := m.record
    let succ := (s.successors l (field (dw w 2) 16 16) (dw w 3)).getD []
    s.enterRecord m.queue (l.record w succ false (some (slot, m.slot, m.asid)) clock)

/-- The oldest message of a mailbox is accepted: its ring slot is written at pkg scope, or sys for a host mailbox, past the
watch filters (R304, R322, R355); the handler is pushed, or the interrupt waits for the write (R341); and its MPOST completes
once the write is visible (R310). -/
def State.acceptMessage (s : State) (slot : Nat) (m : Mailbox) (w : Message) (l : Leaf) : State :=
  let v := mergeMax (s.clockOf w.die) w.clock
  let r := s.sendWrite w.die (some v) true l.kind l.copies (l.translate m.slotVa) (messageBytes w.sender w.words)
  let s1 := r.2.onMailbox slot fun k => { k with waiting := k.waiting.drop 1, busy := k.busy ++ [m.slot], next := k.next + 1 }
  let s2 := if m.host then { s1 with ringing := s1.ringing ++ [(slot, r.1)] }
    else s1.pushHandler slot m (Store.set 0 v w.die (s1.die w.die).sent)
  match w.op.bind s2.op with
  | some o => s2.setOp { o with stage := .landing, status := 0, unseen := [r.1] }
  | none => s2.closeWrite w.die r.1

/-- A message that is not accepted is gone. -/
def State.dropMessage (s : State) (slot : Nat) : State := s.onMailbox slot fun k => { k with waiting := k.waiting.drop 1 }

/-- An MPOST whose message is the oldest: its engine translates the ring slot under the mailbox's address space (R304, R329,
R335); a miss and a fault are the operation's, and it waits for them. -/
def State.acceptPost (s : State) (slot : Nat) (m : Mailbox) (w : Message) (o : CopyOp) : State :=
  match s.translatePart { o with asid := m.asid } m.slotVa 64 true with
  | .ok parts => match parts with
    | p :: _ => s.acceptMessage slot m w p.2.2
    | [] => s
  | .refuse status => (s.dropMessage slot).opEnd o status
  | t => s.badTranslation o t

/-- Is the ring write of a host mailbox visible at sys scope, and its vector still to be raised (R341)? -/
def State.ringDue (s : State) : Option (Nat × Nat) := s.ringing.find? fun e => s.visible e.2

/-- MAILBOX_ACCEPT (R197, R304, R305, R322, R341): an MSI-X vector is raised, or the oldest message of a mailbox is accepted. -/
def execMailboxAccept (slot : Nat) (s : State) : Out :=
  if 1024 ≤ slot then .fault (.absent slot)
  else match s.ringing.find? fun e => decide (e.1 = slot) && s.visible e.2 with
    | some e => .next { s with ringing := s.ringing.erase e, msix := s.msix ++ [slot % 64] }
    | none =>
      if !s.acceptDue slot then .next s
      else match Store.get none s.dist.mailboxes slot with
        | none => .next s
        | some m => match m.waiting with
          | [] => .next s
          | w :: _ => match w.op.bind s.op, s.ringLeaf m w with
            | some o, _ => .next (s.acceptPost slot m w o)
            | none, some l => .next (if w.op.isSome then s.dropMessage slot else s.acceptMessage slot m w l)
            | none, none => .next (s.dropMessage slot)

/-! ## Host accesses (R341 to R343, R347) -/

/-- HSTAT with a bit set (R342); it is remembered for this cycle (R11). -/
def State.hostBit (s : State) (bit : Nat) : State :=
  { s with hstat := s.hstat ||| BitVec.ofNat 32 (2 ^ bit), setNow := s.setNow ++ [bit] }

/-- Does the function serve the host: bring-up is done and the link is up (R346, R347)? -/
def State.hostOpen (s : State) : Bool := decide ((s.die 0).stage = 6) && !s.hostDown

/-- A host access takes its turn (R343): those that wait are served in the order of their arrival. -/
def State.hostTurn (s : State) (i : Instr) (ready : Bool) (body : State → State) : State :=
  match s.hostWait with
  | [] => if ready then body s else { s with hostWait := [i] }
  | h :: l => if h = i ∧ ready = true then body { s with hostWait := l } else { s with hostWait := s.hostWait ++ [i] }

/-- Host messages that await acceptance (R341). -/
def State.hostMessages (s : State) : Nat :=
  (s.dist.mailboxes.map fun e => match e.2 with
    | some m => (m.waiting.filter fun w => decide (w.sender = 0xFFFF)).length
    | none => 0).sum

/-- Can a posted write of the host be taken: earlier ones are visible, and die 0 holds fewer than 64 messages, so that credits
are given (R341, R343)? -/
def State.postedReady (s : State) : Bool := s.hostSettled && decide (s.hostMessages < 64)

/-- A host message is taken, or discarded with MB set (R341). -/
def State.takeMessage (s : State) (slot : Nat) (words : List Word) : State :=
  let len := (nth0 words 0).toNat % 16
  if words.length = 16 ∧ 1 ≤ len ∧ len ≤ 12 ∧ (Store.get none s.dist.mailboxes slot).isSome then
    s.post slot 2 0 0 ⟨0, 0xFFFF, none, words.take 13, 0, []⟩
  else s.hostBit 2

/-- HOST_MESSAGE (R341, R343, R347): words other than sixteen stand for a write of another extent. -/
def execHostMessage (slot : Nat) (words : List Word) (s : State) : Out :=
  if 1024 ≤ slot then .fault (.absent slot)
  else if !s.hostOpen then .next s
  else .next (s.hostTurn (.hostMessage slot words) s.postedReady fun s => s.takeMessage slot words)

end Sys2Proof.Machine
end

