-- ==== Sys2Proof/Machine/Attachment.lean ====
section
/-! DEFINITION. The host's memory window, the links, power, bring-up and reset (R41, R325, R340, R342 to R349). -/

namespace Sys2Proof.Machine

/-! ## The memory window (R342, R343) -/

/-- What the translator keeps of an access: the walks of what its TLB does not hold (R330, R342). -/
def State.keepPages (s : State) (pages : List (Nat × Nat)) : State :=
  pages.foldl (fun s p =>
    if ((s.die 0).tlbEntry hostEngine s.hostAsid p.1).isSome then s else s.keepWalk 0 hostEngine s.hostAsid p.1) s

/-- The pages of an access with their leaves: none where one is refused (R342). -/
def State.hostLeaves (s : State) (write : Bool) : List (Nat × Nat) → Option (List (Nat × Nat × Leaf))
  | [] => some []
  | p :: l => match s.hostLeaf p.1 write with
    | some leaf => (State.hostLeaves s write l).map fun r => (p.1, p.2, leaf) :: r
    | none => none

/-- A stamped write that belongs to no operation of a core (R325): it counts as completed when it is sent. -/
def State.sendForeign (s : State) (die space : Nat) (copies : List Nat) (a : Nat) (bytes : List Byte) : Nat × State :=
  let r := s.sendWrite die (some (s.clockOf die)) true space copies a bytes
  (r.1, r.2.closeWrite die r.1)

/-- Part of a host write within one page. -/
def State.hostPart (s : State) (va : Nat) (l : Leaf) (bytes : List Byte) : State :=
  let r := s.sendForeign 0 l.kind l.copies (l.translate va) bytes
  { r.2 with hostSent := r.2.hostSent ++ [r.1] }

/-- The slots of a host mailbox whose word 0 a host write sets to 0 (R341). -/
def Mailbox.freedBy (m : Mailbox) (asid va : Nat) (bytes : List Byte) : List Nat :=
  if m.host && decide (m.asid = asid) then
    m.busy.filter fun k =>
      let a := m.ring + 64 * k
      decide (va ≤ a) && decide (a + 4 ≤ va + bytes.length) && ((bytes.drop (a - va)).take 4).all fun b => decide (b = 0#8)
  else []

/-- Does a host write set the first word of a busy slot of a host mailbox to 0? -/
def State.freesSlots (s : State) (va : Nat) (bytes : List Byte) : Bool :=
  s.dist.mailboxes.any fun e => match e.2 with
    | some m => !(m.freedBy s.hostAsid va bytes).isEmpty
    | none => false

/-- Those slots are free. -/
def State.freeHostSlots (s : State) (va : Nat) (bytes : List Byte) : State :=
  s.onDist fun d => { d with mailboxes := d.mailboxes.map fun e => (e.1, e.2.map fun m =>
    { m with busy := m.busy.filter fun k => !(m.freedBy s.hostAsid va bytes).contains k }) }

/-- A host write of the ring of a host mailbox (R341): the leaf leads to the host's own memory, which R342 refuses otherwise. -/
def State.ringWrite (s : State) (va : Nat) (bytes : List Byte) : Option State :=
  if s.windowMoves || !s.freesSlots va bytes then none
  else ((s.leafNow 0 hostEngine s.hostAsid va).filter fun l => l.permits true && decide (l.kind = 1)).map fun l =>
    let s1 := s.freeHostSlots va bytes
    { s1 with host := Memory.writeBytes s1.host (l.translate va) bytes }

/-- A host write is applied, or refused with WF set (R342). -/
def State.hostWrite (s : State) (off : Nat) (bytes : List Byte) : State :=
  let parts := s.hostPages off bytes.length
  let s0 := { s with hostSent := s.hostSent.filter fun id => !s.visible id }
  if 2 ^ 36 < off + bytes.length then s0.hostBit 1
  else match s0.ringWrite (s.windowVa off) bytes with
    | some t => t
    | none =>
      match s0.hostLeaves true parts with
      | none => s0.hostBit 1
      | some l => (l.foldl (fun (e : List Byte × State) p =>
          (e.1.drop p.2.1, e.2.hostPart p.1 p.2.2 (e.1.take p.2.1))) (bytes, s0)).2.keepPages parts

/-- A write of the mailbox space (R341): a message when it covers one aligned slot, else discarded with MB set. -/
def State.spaceWrite (s : State) (off : Nat) (bytes : List Byte) : State :=
  if off % 64 = 0 ∧ bytes.length = 64 ∧ off < 65536 then
    s.takeMessage (off / 64) ((List.range 16).map fun k => BitVec.ofNat 32 (ofBytes ((bytes.drop (4 * k)).take 4)))
  else s.hostBit 2

/-- The bytes of a host read: none while a part must wait (R316.5, R321). -/
def State.hostRead (s : State) : List (Nat × Nat × Leaf) → Option (List Byte × State)
  | [] => some ([], s)
  | (va, n, leaf) :: l =>
    let a := leaf.translate va
    let part := if leaf.kind = 0 then s.readDevice 0 leaf a n false
      else some (Memory.bytes s.pod a n, ([] : Store Nat), s)
    match part with
    | none => none
    | some r => match State.hostRead r.2.2 l with
      | some t => some (r.1 ++ t.1, t.2)
      | none => none

/-- The leaves of a host read's pages: none where it is refused (R342). -/
def State.readLeaves (s : State) (off n : Nat) : Option (List (Nat × Nat × Leaf)) :=
  if 2 ^ 36 < off + n then none else s.hostLeaves false (s.hostPages off n)

/-- Can a host read be answered now (R343)? -/
def State.readReady (s : State) (off n : Nat) : Bool :=
  s.hostSettled && match s.readLeaves off n with
    | some l => (s.hostRead l).isSome
    | none => true

/-- A host read is answered: with its bytes, or with Completer Abort and WF set (R342). -/
def State.answerRead (s : State) (off n : Nat) : State :=
  match s.readLeaves off n with
  | none => { (s.hostBit 1) with answer := some ⟨false, []⟩ }
  | some l => match s.hostRead l with
    | some r => { (r.2.keepPages (s.hostPages off n)) with answer := some ⟨true, r.1⟩ }
    | none => s

/-- HOST_LINK_DOWN (R346): what needs host memory completes with STATUS 10 from now on. -/
def execHostLinkDown (s : State) : Out := .next { s with hostDown := true }

/-! ## Links (R325, R344, R345) -/

/-- The registration whose mailbox address leads to a physical address, by die 0's own walk. -/
def State.mailboxBehind (s : State) (addr : Nat) : Option Nat :=
  (s.dist.mailboxes.find? fun e => match e.2 with
    | some m => match s.leafNow 0 noEngine m.asid m.va with
      | some l => decide (l.kind = 0) && decide (l.translate m.va = addr)
      | none => false
    | none => false).map fun e => e.1

/-- An MPOST from another package arrives (R304, R344): word 0 has LEN and the sender's core, words 1 to 12 the payload. Where
no registration stands the answer to its sender is STATUS 5 there. -/
def State.linkMessage (s : State) (die addr : Nat) (bytes : List Byte) : State :=
  let words := (List.range 13).map fun k => BitVec.ofNat 32 (ofBytes ((bytes.drop (4 * k)).take 4))
  let w0 := (nth0 words 0).toNat
  match s.mailboxBehind addr with
  | some n =>
    let words := BitVec.ofNat 32 (w0 % 16) :: words.drop 1
    s.post n 0 (field w0 16 9) 0 ⟨0, field w0 16 9, none, words, die, s.clockOf die⟩
  | none => s

/-- The address that an arrival over a link names. -/
def linkAddr : LinkPlace → Nat
  | .memory a => a
  | .mailbox a => a

/-- LINK_INGRESS_WRITE (R325, R344): a stamped write at pod scope enters at the receiving die, or a message to a mailbox
registered here. -/
def execLinkIngressWrite (die : Nat) (place : LinkPlace) (bytes : List Byte) (s : State) : Out :=
  let addr := linkAddr place
  if 16 ≤ die then .fault (.absent die)
  else if 2 ^ 40 < addr + bytes.length then .fault (.absent addr)
  else match place with
    | .mailbox _ => .next (s.linkMessage die addr bytes)
    | .memory _ => .next (s.sendForeign die 0 [] addr bytes).2

/-- LINK_REPLAY (R344): the replays of a flit are invisible until one succeeds; when eight fail in a row (a free choice)
the link is down, its die reports it, and so are the routes over it, which only firmware's table names (free). -/
def execLinkReplay (link : Nat) (s : State) : Out :=
  if 32 ≤ link then .fault (.absent link)
  else
    let die := link / 2
    let n := s.draw
    if n.1 < 8 then .next n.2
    else
      let r := n.2.draw
      let lost := (List.range 64).filter fun p => bitOf r.1 p && !((s.die die).routesDown.contains p)
      .next (r.2.onDie die fun d => { d with
        linkDown := (d.linkDown.filter fun k => !decide (k = link % 2)) ++ [link % 2]
        routesDown := d.routesDown ++ lost, log := d.log ++ [⟨5, link, 0, 0⟩] })

/-- ROUTE_RETURN (R345). -/
def execRouteReturn (die pkg : Nat) (s : State) : Out :=
  if 16 ≤ die then .fault (.absent die)
  else .next (s.onDie die fun d => { d with routesDown := d.routesDown.filter fun p => !decide (p = pkg) })

/-! ## Bring-up (R347, R348) -/

/-- The work of stage 1: a die verifies the image (the outcome is free). -/
def State.verifyImage (s : State) (die : Nat) : State :=
  let r := s.draw
  r.2.onDie die fun d => if r.1 % 2 = 0 then { d with verified := true } else { d with fail := true }

/-- The work of stage 3: the channels of the die's stack that fail training are retired (free). -/
def State.trainStack (s : State) (die : Nat) : State :=
  let r := s.draw
  r.2.onDist fun k => { k with
    retmap := Store.set 0#32 k.retmap die (Store.get 0#32 k.retmap die ||| BitVec.ofNat 32 r.1) }

/-- The work of stage 4: firmware lays out the stack, the lending pool among it (at a free place). -/
def State.layOut (s : State) (die : Nat) : State :=
  let r := s.draw
  r.2.onDie die fun d => { d with pool := some (2 ^ 36 * die + r.1 % 2 ^ 26 * 1024) }

/-- The work of a die's stage. -/
def State.stageWork (s : State) (die : Nat) : State :=
  match (s.die die).stage with
  | 1 => if (s.die die).verified then s else s.verifyImage die
  | 3 => s.trainStack die
  | 4 => s.layOut die
  | _ => s

/-- Is the work of a die's stage done (R347)? From stage 1 no die goes on before every die has verified the image. -/
def State.stageDone (s : State) (die : Nat) : Bool :=
  !(s.die die).fail && (decide ((s.die die).stage ≠ 1) || dies16.all fun k => (s.die k).verified)

/-- BOOT_STAGE_ADVANCE (R347, R348): a die does the work of its stage, and goes to the next one when it is done. -/
def execBootStageAdvance (die : Nat) (s : State) : Out :=
  if 16 ≤ die then .fault (.absent die)
  else if (s.die die).fail = true ∨ 6 ≤ (s.die die).stage then .next s
  else
    let s1 := s.stageWork die
    .next (if s1.stageDone die then s1.onDie die fun d => { d with stage := d.stage + 1 } else s1)

/-- RECOVERY_IMAGE (R347): the host's image for a failed die, verified as in stage 1; the die then waits for the others. -/
def execRecoveryImage (die : Nat) (verified : Bool) (s : State) : Out :=
  if 16 ≤ die then .fault (.absent die)
  else
    let d := s.die die
    if d.fail = true ∧ d.stage = 1 ∧ verified = true then
      .next (s.onDie die fun d => { d with fail := false, verified := true })
    else .next s

/-- Fenced channels are retired at the next reset (R348). -/
def State.retireFenced (s : State) : Store Word :=
  s.dist.fenced.foldl (fun m e => Store.set 0#32 m e.1 (Store.get 0#32 m e.1 ||| BitVec.ofNat 32 (2 ^ e.2))) s.dist.retmap

/-- The times of the inputs counted from a new reset. -/
def State.laterInputs (s : State) : List (Nat × Instr) := s.inputs.map fun e => (e.1 - s.cycle, e.2)

/-- DEVICE_RESET (R41, R348): every register and every core at its reset value, with fenced channels retired. The host's
and the other packages' memory, HBM with what is known of the images in it, and firmware's address-space roots stand. -/
def execDeviceReset (s : State) : Out :=
  .next { State.reset with
    free := s.free, hbm := s.hbm, host := s.host, pod := s.pod, roots := s.roots, images := s.images, inputs := s.laterInputs
    dist := { Distributor.reset with retmap := s.retireFenced, errors := s.dist.errors } }

/-- POWER_ON (R347): every die at stage 0. -/
def execPowerOn (s : State) : Out :=
  .next { State.reset with free := s.free, host := s.host, pod := s.pod, inputs := s.laterInputs }

/-! ## Channels and errors (R348) -/

/-- CHANNEL_FENCE (R348): a channel fails and is fenced; or the 256-byte unit that holds an address gets an
uncorrectable error, or is rid of it (log 118). -/
def execChannelFence (stack : BitVec 4) (failed : Failed) (s : State) : Out :=
  match failed with
  | .unit a => .next (s.onDist fun d =>
      { d with errors := if d.errors.contains (a / 256) then d.errors.erase (a / 256) else d.errors ++ [a / 256] })
  | .channel n =>
    let e := (stack.toNat, n.toNat)
    .next (s.onDist fun d => if d.fenced.contains e then d else { d with fenced := d.fenced ++ [e] })

/-- SOFT_ERROR_CORRECT (R348, R349): ECCC counts, saturating. -/
def execSoftErrorCorrect (die : Nat) (s : State) : Out :=
  if 16 ≤ die then .fault (.absent die)
  else .next (s.onDie die fun d => { d with eccc := min (d.eccc + 1) 0xFFFFFFFF })

/-! ## Power (R349) -/

/-- POWER_THROTTLE (R349): blocks of 16 periods stop on every die; no stopped period is a cycle (R7). -/
def execPowerThrottle (blocks : Nat) (s : State) : Out :=
  .next (dies16.foldl (fun s d => s.onDie d fun k => { k with stops := min (k.stops + blocks) 0xFFFFFFFF }) s)

/-- THERMAL_TRIP (R349): every die stops, TT is set, and firmware is told. -/
def execThermalTrip (die : Nat) (s : State) : Out :=
  if 16 ≤ die then .fault (.absent die)
  else .next { (((s.onDie die fun d => { d with log := d.log ++ [⟨6, die, 0, 0⟩] })).hostBit 3) with stopped := true }

/-- PACKAGE_RESTART (R349): below 100 degrees the package goes on. -/
def execPackageRestart (temp : Nat) (s : State) : Out :=
  .next (if temp < 100 then { s with stopped := false } else s)

end Sys2Proof.Machine
end

