-- ==== Sys2Proof/Machine/Control.lean ====
section
/-! DEFINITION. The control slot (R126 to R145). What a control instruction asks of the sequencer it leaves in the issue
context; the sequencer's step (R132) acts on it. -/

namespace Sys2Proof.Machine

/-- The fall-through PC of the bundle at p (R126). -/
def Ctx.fallThrough (x : Ctx) (p : Nat) : Nat := if x.index p = 0xFFFF then p + 25 else p + 1

/-- A control instruction with a true guard. -/
def whenTrue (g : SGuard) (s : State) (f : State → State) : Out := .next (if g.holds s.act.regs then f s else s)

/-- The next bundle issues no earlier than a cycle. -/
def State.notBefore (s : State) (c : Nat) : State := s.onIss fun i => { i with bound := max i.bound c }

/-- A transfer to a PC (R127). -/
def State.transfer (s : State) (t : Nat) : State :=
  (s.onIss fun i => { i with target := some t }).notBefore (s.cycle + 3 + s.here.iss.stall)

/-- An illegal-operand fault of the control slot. -/
def State.badControl (s : State) : State := s.raise 4 .c 0 1

/-- A loop-stack fault (R130, R133). -/
def State.loopFault (s : State) : State := s.raise 7 .c 0 0

/-! ## Transfers -/

/-- NOP (R134). -/
def execNop (g : SGuard) (s : State) : Out := whenTrue g s id

/-- BR (R129). -/
def execBr (g : SGuard) (t : BitVec 15) (s : State) : Out := whenTrue g s fun s => s.transfer t.toNat

/-- BRX: s[N][14:0] (R129). -/
def execBrx (g : SGuard) (n : BitVec 6) (s : State) : Out :=
  whenTrue g s fun s => s.transfer (field (s.act.regs.readS n.toNat).toNat 0 15)

/-- CALL: the link goes to s63 in the C slot (R129). -/
def execCall (g : SGuard) (t : BitVec 15) (s : State) : Out :=
  whenTrue g s fun s => (s.landS .c 1 63 (BitVec.ofNat 32 (s.act.fallThrough s.here.iss.pc))).transfer t.toNat

/-- RET: s63[14:0] (R129). -/
def execRet (g : SGuard) (s : State) : Out :=
  whenTrue g s fun s => s.transfer (field (s.act.regs.readS 63).toNat 0 15)

/-! ## Hardware loops -/

/-- A level is pushed (R130): loop-stack fault with six levels active, illegal-operand fault when END lies beyond the
END of the innermost level. R235 does not order the two: the full stack comes first (log 124). -/
def State.pushLoop (s : State) (c e : Nat) : State :=
  let beg := s.act.fallThrough s.here.iss.pc
  let ls := s.act.regs.loops
  if 6 ≤ ls.length then s.loopFault
  else if (match ls.getLast? with
      | some l => decide (l.fin < beg + e)
      | none => false) then s.badControl
  else s.onIss fun i => { i with push := some ⟨0, c, beg, beg + e⟩ }

/-- A LOOPS whose count is zero (R130): nothing is pushed, and control goes to the fall-through PC of END. -/
def State.skipLoop (s : State) (e : Nat) : State :=
  s.transfer (s.act.fallThrough (s.act.fallThrough s.here.iss.pc + e))

/-- LOOP (R130): the field holds count − 1. -/
def execLoop (g : SGuard) (c : BitVec 10) (e : BitVec 12) (s : State) : Out :=
  whenTrue g s fun s => s.pushLoop (c.toNat + 1) e.toNat

/-- The loop of LOOPS with a count (R130). -/
def State.loopsBy (s : State) (c e : Nat) : State :=
  if c = 0 then s.skipLoop e else if 65535 < c then s.badControl else s.pushLoop c e

/-- LOOPS (R130). -/
def execLoops (g : SGuard) (n : BitVec 6) (e : BitVec 12) (s : State) : Out :=
  whenTrue g s fun s => s.loopsBy (s.act.regs.readS n.toNat).toNat e.toNat

/-- Does a window descriptor with EN = 1 break a rule of R131? -/
def windowBad (d : Nat) (bound : Nat) : Bool :=
  decide (field d 18 13 ≠ 0) || decide (bound < field d 0 10 + field d 10 8 + 1)

/-- The window that a descriptor declares, bound to a level or to none; none for EN = 0 (R131). -/
def windowOf (d : Nat) (level : Option Nat) : Option Rotation :=
  if bitOf d 31 then some ⟨field d 0 10, field d 10 8 + 1, 0, level⟩ else none

/-- LOOPS.W (R131): also declares or removes the rotation window; with a count of zero the window is bound to no
level. -/
def execLoopsW (g : SGuard) (n : BitVec 6) (e : BitVec 12) (s : State) : Out :=
  whenTrue g s fun s =>
    let c := (s.act.regs.readS n.toNat).toNat
    let d := (s.act.regs.readS (n.toNat + 1)).toNat
    let level := if c = 0 then none else some s.act.regs.loops.length
    if bitOf d 31 && windowBad d s.act.vBound then s.badControl
    else (s.loopsBy c e.toNat).onIss fun i => { i with rotate := some (windowOf d level) }

/-- BREAK (R133). -/
def execBrk (g : SGuard) (s : State) : Out :=
  whenTrue g s fun s =>
    match s.act.regs.loops.getLast? with
    | none => s.loopFault
    | some l => (s.transfer (s.act.fallThrough l.fin)).onIss fun i => { i with pop := true }

/-! ## HALT, TRAP, YIELD -/

/-- HALT (R135). -/
def execHalt (g : SGuard) (s : State) : Out := whenTrue g s fun s => s.onIss fun i => { i with halt := true }

/-- TRAP: a software trap with its code (R136). -/
def execTrap (g : SGuard) (k : BitVec 16) (s : State) : Out := whenTrue g s fun s => s.raise 0xA .c 0 k.toNat

/-- YIELD: the core's yield request (R137). -/
def execYield (g : SGuard) (s : State) : Out := whenTrue g s fun s => s.onAct fun x => { x with yield := true }

/-! ## Waits (R138) -/

/-- An issue condition that holds the next bundle. -/
def State.waitFor (s : State) (w : Wait) : State := s.onIss fun i => { i with waits := i.waits ++ [w] }

/-- WAIT, K = 0: the pair s(N + 1), sN. -/
def execWait (g : SGuard) (t : BitVec 5) (n : BitVec 6) (s : State) : Out :=
  whenTrue g s fun s =>
    let k := (s.act.regs.readS (n.toNat + 1)).toNat * 2 ^ 32 + (s.act.regs.readS n.toNat).toNat
    s.waitFor (.count t.toNat k s.here.iss.scope)

/-- WAIT.REL: max(I − e, 0), with I read at issue. -/
def execWaitRel (g : SGuard) (t : BitVec 5) (i : BitVec 10) (s : State) : Out :=
  whenTrue g s fun s => s.waitFor (.count t.toNat ((s.act.timeline t.toNat).i - i.toNat) s.here.iss.scope)

/-- WAITO, K = 0: the bound is sN. -/
def execWaito (g : SGuard) (t : BitVec 5) (n : BitVec 6) (s : State) : Out :=
  whenTrue g s fun s => s.waitFor (.outstanding t.toNat (s.act.regs.readS n.toNat).toNat)

/-- WAITO, K = 1: the bound is the immediate. -/
def execWaitoImm (g : SGuard) (t : BitVec 5) (i : BitVec 10) (s : State) : Out :=
  whenTrue g s fun s => s.waitFor (.outstanding t.toNat i.toNat)

/-! ## BAR (R139, R140) -/

/-- BAR: an arrival, or an illegal-operand fault without membership. -/
def execBar (g : SGuard) (c : BitVec 3) (s : State) : Out :=
  whenTrue g s fun s =>
    match s.group s.cur s.act c.toNat with
    | some key => s.arrive key
    | none => s.badControl

/-! ## SHUTC and SHUTD (R141) -/

/-- The settle cycle e. -/
def State.settle (s : State) (h : Nat) : Nat :=
  s.here.mx.uses.foldl (fun m u => if u.kind = 0 ∧ u.regs.contains (32 + h) ∧ u.cid = s.act.cid then max m u.final else m)
    s.cycle

/-- Does a repeat still run into the shutter? -/
def State.repeatInto (s : State) (h : Nat) : Bool :=
  match s.here.mx.rep with
  | some r => decide (r.op.acc.toNat = 32 + h) && decide (r.cid = s.act.cid) && decide (0 < r.count) &&
    decide (s.cycle < s.here.mx.busyTo)
  | none => false

/-- A shutter is committed or discarded in cycle e; the target is readable by slots from e + 1. While a repeat runs
into it the effect waits for the last repeat; otherwise its contents are final now, and an E slot of this bundle
opens it afresh. -/
def State.shutterOp (s : State) (h : Nat) (commit : Bool) : State :=
  let e := s.settle h
  let x := s.act
  let s1 :=
    if s.repeatInto h then s.landKept .c (e + 1) (.shut h commit (((x.shutter h).map fun k => k.target).getD 0) [])
    else
      let s0 := match x.shutter h, commit with
        | some k, true => s.landKept .c (e + 1) (.m k.cellsFor)
        | _, _ => s
      s0.onAct fun x => x.setShutter h none
  s1.notBefore (max (e + 1) (s.cycle + 1 + s.here.iss.stall))

/-- SHUTC (R141). -/
def execShutc (g : SGuard) (h : BitVec 1) (s : State) : Out := whenTrue g s fun s => s.shutterOp h.toNat true

/-- SHUTD (R141). -/
def execShutd (g : SGuard) (h : BitVec 1) (s : State) : Out := whenTrue g s fun s => s.shutterOp h.toNat false

/-! ## SYSRD and SYSWR (R39, R40, R142) -/

/-- Is a number one of the system registers of R39? -/
def systemNumber (r : Nat) : Bool :=
  decide (r ≤ 8) || (decide (0x10 ≤ r) && decide (r ≤ 0x17)) || (decide (0x20 ≤ r) && decide (r ≤ 0x2F))

/-- An entry of the drain status file as it stood at the end of cycle `u` (R27): NAN, PEND. -/
def Ctx.drainAt (x : Ctx) (u : Int) (m : Nat) : Bool × Bool :=
  x.dlog.foldl (fun b d => if d.m = m ∧ u < d.cycle then (d.nan, d.pend) else b) (x.dnan.getLsbD m, x.dpend.getLsbD m)

/-- A word of one bit for each matrix register. -/
def bits32 (f : Nat → Bool) : Word := BitVec.ofNat 32 ((List.range 32).foldl (fun w m => w + b2n (f m) * 2 ^ m) 0)

/-- CORE_ID (R40). -/
def coreId (core : Nat) : Word := BitVec.ofNat 32 (Config.pkgNumber.toNat * 2 ^ 26 + core * 2 ^ 17)

/-- The value of a system register (R39). -/
def Ctx.readSystem (x : Ctx) (core cycle r : Nat) : Word :=
  if r = 0 then coreId core
  else if r = 1 then x.taskBlk
  else if r = 2 then x.partition
  else if r = 3 then x.codeWin
  else if r = 4 then x.cstat
  else if r = 5 then x.bcnt
  else if r = 6 then x.fmtSel
  else if r = 7 then bits32 fun m => (x.drainAt ((cycle : Int) - 9) m).1
  else if r = 8 then bits32 fun m => (x.drainAt ((cycle : Int) - 9) m).2
  else if r < 0x20 then x.fstatOf (r - 0x10)
  else Store.get 0#32 x.fmt (r - 0x20)

/-- SYSRD: latency 2; an unknown number faults whatever the guard (R81, R142). -/
def execSysrd (g : SGuard) (n : BitVec 6) (r : BitVec 12) (s : State) : Out :=
  if systemNumber r.toNat then
    whenTrue g s fun s => s.landS .c 2 n.toNat (s.act.readSystem s.cur s.cycle r.toNat)
  else .next s.badControl

/-- SYSWR: seen by every operation that issues in a later cycle (R142). A format-table entry is a register that an FMTT
of the same bundle can also write (R102). -/
def execSyswr (g : SGuard) (n : BitVec 6) (r : BitVec 12) (s : State) : Out :=
  if systemNumber r.toNat then
    whenTrue g s fun s =>
      let w := s.act.regs.readS n.toNat
      if 0x20 ≤ r.toNat then s.land .c (s.cycle + 1) (.fmt (r.toNat - 0x20) w)
      else s.land .c (s.cycle + 1) (.sysw r.toNat w)
  else .next s.badControl

/-! ## LAUNCH, RELAUNCH and TRACE (R143) -/

/-- LAUNCH. -/
def execLaunch (g : SGuard) (n : BitVec 6) (t : BitVec 5) (s : State) : Out := .next (s.startLaunch g 5 t.toNat n.toNat)

/-- RELAUNCH. -/
def execRelaunch (g : SGuard) (n : BitVec 6) (t : BitVec 5) (s : State) : Out :=
  .next (s.startLaunch g 6 t.toNat n.toNat)

/-- TRACE. -/
def execTrace (g : SGuard) (n : BitVec 6) (t : BitVec 5) (s : State) : Out := .next (s.startLaunch g 7 t.toNat n.toNat)

end Sys2Proof.Machine
end

