-- ==== Sys2Proof/Machine/FacetArray.lean ====
section
/-! DEFINITION. The facet array, the selection rule and the spill regions (R38, R259 to R265, R268 to R270). -/

namespace Sys2Proof.Machine

/-! ## Descriptors (R215) -/

/-- W of a command (R215). -/
def FacetCmd.width (k : FacetCmd) : Nat := 16 * 2 ^ field (dw k.desc 0) 0 2

/-- FIRST. -/
def FacetCmd.first (k : FacetCmd) : Nat := dw k.desc 1

/-- NROWS. -/
def FacetCmd.nrows (k : FacetCmd) : Nat := dw k.desc 2

/-- SEQ. -/
def FacetCmd.seqId (k : FacetCmd) : Nat := dw k.desc 3

/-- L. -/
def FacetCmd.pages (k : FacetCmd) : Nat := dw k.desc 4

/-- K. -/
def FacetCmd.k (k : FacetCmd) : Nat := dw k.desc 7

/-- PAGE. -/
def FacetCmd.page (k : FacetCmd) : Nat := dw k.desc 8

/-- SIGADDR. -/
def FacetCmd.sigAddr (k : FacetCmd) : Nat := dw k.desc 9

/-- SPILL. -/
def FacetCmd.spill (k : FacetCmd) : Nat := dw k.desc 10 + 2 ^ 32 * dw k.desc 11

/-- COUNT. -/
def FacetCmd.count (k : FacetCmd) : Nat := dw k.desc 12

/-- The bits of each word that a command uses (R215); word 15 is STATUS. -/
def usedBits (op : Nat) : List Nat :=
  let sel := op = 0x20 ∨ op = 0x21 ∨ op = 0x30
  let w (p : Prop) [Decidable p] (n : Nat) : Nat := if p then n else 0
  [3 + w (op = 0x21) 0x70, w (op ≠ 0x30) 0x1FFF, w (op ≠ 0x30) 0x3FFF, w (op ≠ 0x27) 0xFFFF,
   w sel 0xFFFFFFFF, w sel 0xFFFFFFFF, w sel 0xFFFFFFFF, w sel 0x1FF,
   w (op = 0x22 ∨ op = 0x23 ∨ op = 0x24) 0xFFFFFFFF, w (op = 0x22 ∨ op = 0x23) 0xFFFFFFFF,
   w (op ≠ 0x22 ∧ op ≠ 0x27) 0xFFFFFFFF, w (op ≠ 0x22 ∧ op ≠ 0x27) 0xFFFFFFFF,
   w (op = 0x25 ∨ op = 0x26) 0x7FFF, 0, 0, 0xFFFFFFFF]

/-- Does a descriptor keep the limits of R215 and R263? -/
def FacetCmd.legal (k : FacetCmd) : Bool :=
  let sel := decide (k.op = 0x20) || decide (k.op = 0x21) || decide (k.op = 0x30)
  ((List.range 16).all fun i => dw k.desc i &&& (usedBits k.op).getD i 0 = dw k.desc i) &&
  (decide (k.op = 0x30) || (decide (1 ≤ k.nrows) && decide (k.first + k.nrows ≤ 8192))) &&
  (!sel || (decide (dw k.desc 5 ≤ 256) && decide (dw k.desc 6 ≤ 256) && decide (k.k ≤ 256))) &&
  decide (k.sigAddr % (k.width / 8) = 0) && decide (k.spill % 64 = 0) &&
  (!(decide (k.op = 0x25) || decide (k.op = 0x26)) || (decide (1 ≤ k.count) && decide (k.count ≤ 16384)))

/-! ## The array (R38, R260) -/

/-- The width of a physical row. -/
def Core.rowWidth (c : Core) (phys : Nat) : Nat := 16 * 2 ^ (3 - Store.get 0 c.widths phys)

/-- A logical row by its key 8·physical + position. -/
def Core.facetRow (c : Core) (key : Nat) : FacetRow := Store.get FacetRow.reset c.facets key

/-- A logical row changed. -/
def Core.onRow (c : Core) (key : Nat) (f : FacetRow → FacetRow) : Core :=
  { c with facets := Store.set FacetRow.reset c.facets key (f (c.facetRow key)) }

/-- Is a key a logical row of the rows a command acts on (R215)? -/
def FacetCmd.inRegion (k : FacetCmd) (c : Core) (key : Nat) : Bool :=
  decide (k.first ≤ key / 8) && decide (key / 8 < k.first + k.nrows) && decide (c.rowWidth (key / 8) = k.width) &&
  decide (key % 8 < 128 / k.width)

/-- The valid rows of SEQ among them, in ascending logical row number. -/
def FacetCmd.rows (k : FacetCmd) (c : Core) : List (Nat × FacetRow) :=
  c.facets.filter fun e => k.inRegion c e.1 && e.2.valid && decide (e.2.seq = k.seqId)

/-- The invalid rows among them, lowest first, `n` at most. -/
def FacetCmd.freeRows (k : FacetCmd) (c : Core) (n : Nat) : List Nat :=
  (((List.range (8 * k.nrows)).map fun i => 8 * k.first + i).filter fun key =>
    k.inRegion c key && !(c.facetRow key).valid).take n

/-- Is a row in transit under an FSPILL (R271)? -/
def FacetRow.spilling (r : FacetRow) : Bool := decide (0 < r.transit) && decide (r.transit % 2 = 0)

/-- Is a row in transit for a command that needs a free row (R279): under an FSPILL, or under another FFILL? `own` is the
first token of the command itself. -/
def FacetRow.moving (r : FacetRow) (own : Nat) : Bool := decide (0 < r.transit) && (r.spilling || decide (r.transit / 2 < own))

/-- Is some row of the command's rows so in transit (R279)? -/
def FacetCmd.movingRow (k : FacetCmd) (c : Core) (own : Nat) : Bool :=
  c.facets.any fun e => k.inRegion c e.1 && e.2.moving own

/-! ## Scores, windows, ranks (R261, R263, R264) -/

/-- The score of a signature against the queries (R261). -/
def score (w : Nat) (queries : List (BitVec 128)) (sig : BitVec 128) : Nat :=
  (queries.map fun q => w - popcount (q ^^^ sig).toNat w).sum

/-- Is a page in a window (R263)? -/
def FacetCmd.inWindow (k : FacetCmd) (p : Nat) : Bool :=
  decide (p < min (dw k.desc 5) k.pages) || (decide (k.pages - dw k.desc 6 ≤ p) && decide (p < k.pages))

/-- Key(p) (R264). -/
def rankKey (sc p : Nat) : Nat := sc * 2 ^ 32 + (2 ^ 32 - 1 - p)

/-- The score in a key. -/
def keyScore (key : Nat) : Nat := key / 2 ^ 32

/-- The k best of a list of (key, page), by key descending. -/
def bestK (k : Nat) (l : List (Nat × Nat)) : List (Nat × Nat) :=
  ((sortBy (fun (e : Nat × Nat) => e.1) l).reverse).take k

/-- The candidates of a list of (page, signature): pages below L outside the windows (R263). -/
def FacetCmd.candidates (k : FacetCmd) (l : List (Nat × BitVec 128)) : List (Nat × Nat) :=
  (l.filter fun e => decide (e.1 < k.pages) && !k.inWindow e.1).map fun e =>
    (rankKey (score k.width k.queries e.2) e.1, e.1)

/-- The window pages, ascending (R263). -/
def FacetCmd.windowPages (k : FacetCmd) : List Nat :=
  let a := min (dw k.desc 5) k.pages
  let b := max (k.pages - dw k.desc 6) a
  List.range a ++ (List.range (k.pages - b)).map fun i => b + i

/-- One page of each group of equal pages (R275). -/
def onePerPage (l : List (Nat × Nat)) : List (Nat × Nat) :=
  l.foldl (fun m e => if m.any fun o => decide (o.2 = e.2) then m else m ++ [e]) []

/-! ## Records (R265) -/

/-- The words of a record. -/
def record (page cls score rank seq last3 num : Nat) : List Word :=
  [BitVec.ofNat 32 page, BitVec.ofNat 32 (cls * 2 ^ 30 + score), BitVec.ofNat 32 (rank * 65536 + seq),
   BitVec.ofNat 32 (last3 * 65536 + num % 65536)]

/-- A terminator record. -/
def terminator (seq last3 num : Nat) : List Word := record 0xFFFFFFFF 3 0 0xFFFF seq last3 num

/-- The flag LAST put on the last record. -/
def markLast : List (List Word) → List (List Word)
  | [] => []
  | [r] => [r.take 3 ++ [nth0 r 3 ||| 0x80000000#32]]
  | r :: l => r :: markLast l

/-- The records of a select with its ranked pages in rank order (R263, R265). -/
def FacetCmd.records (k : FacetCmd) (ranked : List (Nat × Nat)) : List (List Word) :=
  let seq := k.seqId
  let sinks := min (dw k.desc 5) k.pages
  let wins := k.windowPages.map fun p => (p, record p (if p < sinks then 0 else 1) 0 0xFFFF seq 0 k.num)
  let ranks := (List.range ranked.length).map fun i =>
    let e := ranked.getD i (0, 0)
    (e.2, record e.2 2 (keyScore e.1) i seq 0 k.num)
  let all := (sortBy (fun (e : Nat × List Word) => e.1) (wins ++ ranks)).map fun e => e.2
  markLast (if all.isEmpty then [terminator seq 0 k.num] else all)

/-- The pages that records return: a terminator returns none (R218, R265). -/
def returned (recs : List (List Word)) : List Nat :=
  recs.filterMap fun r => if (nth0 r 1).toNat / 2 ^ 30 = 3 then none else some (nth0 r 0).toNat

/-- The records of one unit of an SSQ (R265, R276): ascending page index, RANK the local order. -/
def FacetCmd.unitRecords (k : FacetCmd) (unit : Nat) (best : List (Nat × Nat)) : List (List Word) :=
  let recs := (List.range best.length).map fun i =>
    let e := best.getD i (0, 0)
    (e.2, record e.2 2 (keyScore e.1) i k.seqId unit k.num)
  let all := (sortBy (fun (e : Nat × List Word) => e.1) recs).map fun e => e.2
  let l := if all.isEmpty then [terminator k.seqId unit k.num] else all
  let n := l.length - 1
  l.take n ++ ((l.drop n).map fun r => r.take 3 ++ [nth0 r 3 ||| 0x40000000#32])

/-! ## Records and their streams (R191, R258) -/

/-- Does a live binding carry an identity? Its position. -/
def Regs.bindingPos (r : Regs) (id : Nat) : Option Nat :=
  firstSome (fun (e : Nat × Option Binding) => match e.2 with
    | some b => if b.id = id then some b.pos else none
    | none => none) r.q

/-- A record arrives for a binding: none while its stream holds 32 records; dropped where the binding is no more
(R191). -/
def Ctx.offer (x : Ctx) (id : Nat) (words : List Word) : Option Ctx :=
  let put (f : SsuFifo) : SsuFifo := if f.bind = id then { f with recs := f.recs ++ [words] } else f
  let held := ((x.ssu.filter fun f => decide (f.bind = id)).map fun f => f.recs.length).sum
  match x.regs.bindingPos id with
  | some pos => if 32 ≤ held - pos then none else some { x with ssu := x.ssu.map put }
  | none =>
    if x.marks.any fun k => (k.regs.bindingPos id).isSome then some { x with ssu := x.ssu.map put } else some x

/-! ## Spill regions (R269, R270) -/

/-- What the header of a region says. -/
inductive Region where
  | refused
  | unusable
  | open_ (cap owner stack : Nat)
  deriving DecidableEq, Repr

/-- The leaf of a page of a region, as the copy engines of the core's die translate it (R330), its permissions not yet
asked; none where an access is refused whatever it is (R269, R332). -/
def State.spillPage (s : State) (core : Nat) (k : FacetCmd) (va : Nat) : Option Leaf :=
  if 2 ^ 52 ≤ va then none else s.leafNow (dieOf core) (engineOf core) k.asid va

/-- Does a leaf serve a spill access that reads, writes, or both (R329, R332)? -/
def Leaf.serves (l : Leaf) (r w : Bool) : Bool := decide (l.kind = 0) && (!r || l.r) && (!w || l.w)

/-- The same leaf where the access is allowed. -/
def State.spillLeaf (s : State) (core : Nat) (k : FacetCmd) (va : Nat) (r w : Bool) : Option Leaf :=
  (s.spillPage core k va).filter fun l => l.serves r w

/-- What the record of a traced block takes from a read of a region (R357): a slot's tile when the access is made, EXT where
the translation leaves the package's memory. -/
def State.noteSpill (s : State) (core : Nat) (k : FacetCmd) (slot : Bool) (va : Nat) : State :=
  match s.spillPage core k va with
  | some l =>
    let s1 := s.keepWalk (dieOf core) (engineOf core) k.asid va
    if l.kind ≠ 0 then s1.noteExt k.trace k.blk
    else if slot && l.r then s1.noteRead k.trace k.blk (tileOf va) else s1
  | none => s

/-- The header of the region a command names (R269); refused where the spill index has another region for SEQ (R270). No
region stands at SPILL zero (R215): it is unusable (log 113). -/
def State.region (s : State) (core : Nat) (k : FacetCmd) : Region :=
  if k.spill = 0 then .unusable
  else if (s.core core).spill.any fun e => decide (e.seq = k.seqId) && decide (e.region ≠ k.spill) then .refused
  else match s.spillLeaf core k k.spill true false with
    | none => .refused
    | some l =>
      let a := l.translate k.spill
      let b := s.dieBytes (dieOf core) a 64
      let w := (List.range 16).map fun i => BitVec.ofNat 32 (ofBytes ((b.drop (4 * i)).take 4))
      let w0 := dw w 0
      let cap := dw w 1
      if decide (field w0 16 16 = k.seqId) && decide (field w0 0 2 = field (dw k.desc 0) 0 2) && decide (field w0 2 14 = 0) &&
          decide (0 < cap) && decide (cap ≤ 2 ^ 20) && decide (dw w 2 < 512) &&
          (List.range 13).all fun i => decide (dw w (3 + i) = 0) then
        .open_ cap (dw w 2) (homeDie a)
      else .unusable

/-- The virtual address of slot n (R269). -/
def FacetCmd.slotVa (k : FacetCmd) (n : Nat) : Nat := k.spill + 64 + 32 * n

/-- The physical address of a slot in the region's stack, with the stacks of its page; none where it is refused. -/
def State.slotAddr (s : State) (core : Nat) (k : FacetCmd) (stack n : Nat) (r w : Bool) : Option (Nat × List Nat) :=
  match s.spillLeaf core k (k.slotVa n) r w with
  | some l =>
    let a := l.translate (k.slotVa n)
    if homeDie a = stack then some (a, l.copies) else none
  | none => none

/-- The slots that a command reads are recorded (R357). -/
def State.noteSlots (s : State) (core : Nat) (k : FacetCmd) (slots : List Nat) : State :=
  (slots.map fun n => tileOf (k.slotVa n)).eraseDups.foldl (fun s t => s.noteSpill core k true (16384 * t)) s

/-- The bytes of a slot in facet-engine order: the newest request that is not yet visible, or memory (R273). -/
def State.slotView (s : State) (core a : Nat) : List Byte :=
  match ((s.core core).facet.requests.filter fun r => decide (r.addr = a)).getLast? with
  | some r => r.bytes
  | none => s.dieBytes (dieOf core) a 32

/-- PAGE, VALID and SIG of a slot (R269). -/
def slotFields (w : Nat) (b : List Byte) : Nat × Bool × BitVec 128 :=
  (ofBytes (b.take 4), bitOf (ofBytes ((b.drop 4).take 4)) 0, BitVec.ofNat 128 (ofBytes (b.drop 16) % 2 ^ w))

/-- The bytes of a slot that holds a spilled row (R269). -/
def slotBytesOf (page : Nat) (sig : BitVec 128) : List Byte :=
  toBytes page 4 ++ toBytes 1 4 ++ toBytes 0 8 ++ toBytes sig.toNat 16

/-- A slot made free: VALID cleared. -/
def unusedSlot (b : List Byte) : List Byte := b.take 4 ++ toBytes 0 4 ++ b.drop 8

/-! ## Scans (R274, R276, R277, R332) -/

/-- The 64 KB pages of a region of CAP slots. -/
def FacetCmd.pagesOf (k : FacetCmd) (cap : Nat) : List Nat :=
  let first := k.spill / 65536
  (List.range ((k.spill + 64 + 32 * cap - 1) / 65536 - first + 1)).map fun i => 65536 * (first + i)

/-- A scan begins (R332): the header is read, and every page of the region translated. -/
def State.openScan (s : State) (core : Nat) (k : FacetCmd) : Scan × Nat :=
  match s.region core k with
  | .open_ cap owner stack =>
    let page (va : Nat) : Option (Nat × Leaf) := (s.spillPage core k va).map fun l => (va, l)
    (⟨stack, cap, owner, (k.pagesOf cap).filterMap page⟩, 0)
  | .refused => (⟨0, 0, core, []⟩, 1)
  | .unusable => (⟨0, 0, core, []⟩, 0)

/-- The bound of R332: a scan ends within so many cycles of its start. -/
def Scan.bound (z : Scan) : Nat := 600 + 2 * ceilDiv' z.cap 8

/-- The physical address of a slot by the scan's own translations; none where it is refused. -/
def Scan.slotAddr (z : Scan) (k : FacetCmd) (n : Nat) : Option Nat :=
  let va := k.slotVa n
  match lookup z.pages (va / 65536 * 65536) with
  | some l => if l.serves true false && decide (homeDie (l.translate va) = z.stack) then some (l.translate va) else none
  | none => none

/-- Has a request been applied at its slot's home, in every copy (R273, R321)? -/
def State.applied (s : State) (r : SsuRequest) : Bool := match r.wid with
  | some id => !(s.reps.any fun w => decide (w.id = id))
  | none => false

/-- A slot as a scan finds it. A scan outside the region's stream sees each write still on its way or not, slot by slot
(R276, R277): how many of them is a free value. -/
def State.scanSlot (s : State) (core : Nat) (z : Scan) (own : Bool) (a : Nat) : List Byte × State :=
  let b := Memory.bytes s.hbm a 32
  let l := if own && decide (z.owner = core) then []
    else (s.core z.owner).facet.requests.filter fun r => decide (r.addr = a) && !s.applied r
  if l.isEmpty then (b, s)
  else
    let t := s.draw
    match (l.take (t.1 % (l.length + 1))).getLast? with
    | some r => (r.bytes, t.2)
    | none => (b, t.2)

/-- Slots one after another. -/
def State.scanSlots (s : State) (core : Nat) (z : Scan) (own : Bool) (w : Nat) :
    List Nat → List (Nat × BitVec 128) × State
  | [] => ([], s)
  | a :: l =>
    let b := s.scanSlot core z own a
    let r := State.scanSlots b.2 core z own w l
    let f := slotFields w b.1
    (if f.2.1 then (f.1, f.2.2) :: r.1 else r.1, r.2)

/-- One unit's part of a scan (R274): page and signature of its valid slots, and whether an access was refused (R332). `own`:
the scan carries a token of the region's stream (R273). -/
def State.scanUnit (s : State) (core : Nat) (k : FacetCmd) (z : Scan) (own : Bool) (unit : Nat) :
    List (Nat × BitVec 128) × Bool × State :=
  let slots := (List.range z.cap).filter fun n => decide (n % 8 = unit)
  let ok := slots.filterMap fun n => (z.slotAddr k n).map fun a => (n, a)
  let ext := z.pages.any fun p => decide (p.2.kind ≠ 0)
  let s1 := if ext then s.noteExt k.trace k.blk else s
  let s2 := (ok.map fun e => tileOf (k.slotVa e.1)).eraseDups.foldl (fun s t => s.noteRead k.trace k.blk t) s1
  let r := s2.scanSlots core z own k.width (ok.map fun e => e.2)
  (r.1, decide (ok.length < slots.length), r.2)

end Sys2Proof.Machine
end

