-- ==== Sys2Proof/Machine/Pane.lean ====
section
/-! DEFINITION. The pane sequencer: PLOAD, PRUN, the micro-operations, the arbitration windows and the ends of the runs
(R36, R98 to R101, R212 to R214, R245 to R257). -/

namespace Sys2Proof.Machine

/-! ## The commands (R199, R212, R213) -/

/-- A one-beat command of another engine than the matrix engine (R94, R103, R199): the schedule fault of a running
repeat, the checks that hold whatever the guard (R81), and the effect under a true guard. -/
def queueCommand (h : EHead) (checks body : State → State) (s : State) : Out :=
  let s1 := checks (s.engineCheck false)
  .next (s.unlessTrapped s1 fun s => if h.guard.holds s.act.regs then body s else s)

/-- The pane sequencer changed. -/
def Core.onPane (c : Core) (f : Pane → Pane) : Core := { c with pane := f c.pane }

/-- A pane command numbered on tl1 and queued (R94, R199). -/
def State.queuePane (s : State) (cmd : PaneCmd) : State :=
  let r := s.engineNumber 1
  r.2.onHere fun c => c.onPane fun p =>
    { p with queue := p.queue ++ [⟨c.act.cid, r.1, s.cycle, c.act.seq, cmd⟩] }

/-- PLOAD (R212): the range is checked at issue. -/
def execPload (h : EHead) (a : BitVec 4) (n : BitVec 8) (s : State) : Out :=
  queueCommand h id (fun s =>
    let addr := (s.act.regs.readA a.toNat).toNat
    let count := n.toNat + 1
    if s.act.badAccess addr (4 * count) 4 then s.rangeFault .e addr else s.queuePane (.load addr count)) s

/-- Is a PLOAD of a context outstanding (R212)? -/
def Core.loading (c : Core) (cid : Bool) : Bool :=
  (c.pane.queue.any fun e => (e.cid == cid) && (match e.cmd with
    | .load _ _ => true
    | .run _ _ => false)) ||
  (match c.pane.load with
    | some l => l.entry.cid == cid
    | none => false)

/-- Is a bank a scratchpad bank of the partition (R32, R94, R248)? -/
def Ctx.scratchBank (x : Ctx) (b : Nat) : Bool := decide (x.firstBank ≤ b) && decide (b < x.firstBank + x.banks)

/-- PRUN (R36, R94, R212, R213): it stalls while a PLOAD is outstanding; its checks hold whatever the guard (R81). -/
def execPrun (h : EHead) (bank : BitVec 6) (index : BitVec 8) (s : State) : Out :=
  if s.here.loading s.act.cid then .next ((s.engineCheck false).hold)
  else queueCommand h
    (fun s =>
      let s1 := if s.act.micro.isNone then s.illegal .e 0 57 else s
      if s.act.scratchBank bank.toNat then s1 else s1.illegal .e 0 38)
    (fun s => s.queuePane (.run bank.toNat index.toNat)) s

/-! ## PLOAD (R101, R212) -/

/-- Bytes of a row that belong to a range of scratchpad words, as the engine sees them. -/
def Core.loadRow (c : Core) (e : PaneEntry) (row p n : Nat) : List Word :=
  let lo := max p (512 * row)
  let hi := min (p + n) (512 * row + 512)
  let bytes := c.engineBytes e.cid e.seq e.at_ none lo (hi - lo)
  (List.range ((hi - lo) / 4)).map fun k => BitVec.ofNat 32 (ofBytes ((bytes.drop (4 * k)).take 4))

/-- May the next pane command start (R212, R213)? -/
def Pane.mayStart (p : Pane) (cycle : Nat) : Option PaneEntry :=
  match p.queue with
  | e :: _ => if p.load.isNone ∧ p.run.isNone ∧ e.at_ + 1 ≤ cycle ∧ p.readyAt ≤ cycle then some e else none
  | [] => none

/-- A load takes the head of the queue. -/
def Core.beginLoad (c : Core) (cycle : Nat) : Core :=
  match c.pane.mayStart cycle with
  | some e => match e.cmd with
    | .load a n =>
      let p := (c.ctx e.cid).poolAddr a
      c.onPane fun k => { k with queue := k.queue.drop 1, load := some ⟨e, rowsOf p (4 * n), [], cycle - 1⟩ }
    | .run _ _ => c
  | none => c

/-- One row of a load in a cycle, at the priority of facet reads (R212). -/
def Core.loadStep (c : Core) (cycle : Nat) : Core :=
  match c.pane.load with
  | none => c
  | some l => match l.rows, l.entry.cmd with
    | row :: rest, .load a n =>
      if cycle ≤ l.last then c
      else
        let r := c.seek cycle (.facet 0 row) true
        let l1 : PaneLoad :=
          if r.1 then
            { l with rows := rest, last := cycle
                     words := l.words ++ c.loadRow l.entry row ((c.ctx l.entry.cid).poolAddr a) (4 * n) }
          else { l with last := cycle }
        r.2.onPane fun p => { p with load := some l1 }
    | _, _ => c

/-- PLOAD_START (R212): a load starts after the earlier commands, and reads one row in a cycle. -/
def execPloadStart (core : Nat) (s : State) : Out := ofCore core <|
  .next (s.onCore core fun c => (c.beginLoad s.cycle).loadStep s.cycle)

/-- The store after a load (R101, R212): loaded with WENDs to index 255, or unloaded. -/
def microStore (words : List Word) : Option (List Word) :=
  if words.all fun w => (decodeMicro w.toNat).toOption.isSome then
    some (words ++ (List.replicate (256 - words.length) 0xA0000000#32)) else none

/-- PLOAD_COMPLETE (R212): on tl1, in the cycle of the last row. -/
def execPloadComplete (core : Nat) (s : State) : Out := ofCore core <|
  .next (s.onCore core fun c => match c.pane.load with
    | some l =>
      if l.rows.isEmpty then
        let c1 := c.onCtx l.entry.cid fun x => { x with micro := microStore l.words }.complete 1 l.entry.num s.cycle
        c1.onPane fun p => { p with load := none, readyAt := s.cycle + 1 }
      else c
    | none => c)

/-! ## A run (R98 to R100, R213, R245, R249 to R251) -/

/-- The micro-operation at an index of the running store; none at or beyond 256. -/
def Core.microAt (c : Core) (r : PaneRun) : Option Instr :=
  if 256 ≤ r.index then none
  else match (c.ctx r.entry.cid).micro with
    | some l => (decodeMicro (nth0 l r.index).toNat).toOption
    | none => none

/-- Bank and first index of a run. -/
def PaneRun.bank (r : PaneRun) : Nat := match r.entry.cmd with
  | .run b _ => b
  | .load _ _ => 0

/-- Does a micro-operation take a half-step (R100)? -/
def isHalfStep : Option Instr → Bool
  | some (.wact _ _ _ _) => true
  | some (.wwb _ _ _ _) => true
  | some (.wlat _ _ _ _) => true
  | _ => false

/-- R100's WBR: the run after it. -/
def PaneRun.branch (r : PaneRun) (target count : Nat) (step : Int) : PaneRun :=
  let lc := if r.armed then r.lc else count
  if 0 < lc then
    { r with armed := true, lc := lc - 1, ro := wrapN (r.ro + step) 8, index := target, spin := r.spin + 1 }
  else { r with armed := false, lc := 0, index := r.index + 1, spin := r.spin + 1 }

/-- WBRs in a row beyond which no half-step can follow: more than the values of index, LC and armed together. -/
def spinLimit : Nat := 256 * 257 * 2

/-- Does a run meet a half-step from here, its WBRs followed (R213)? -/
def Core.reaches (c : Core) : Nat → PaneRun → Bool
  | 0, _ => false
  | fuel + 1, r => match c.microAt r with
    | some (.wbr t n k) => Core.reaches c fuel (r.branch t.toNat n.toNat k.toInt)
    | i => isHalfStep i

/-- PANE_RUN_START (R213, R248, R256): RO, LC, armed and every latch clear; the bank enters pane mode when a half-step
will be executed, and its group's parity is given up. -/
def execPaneRunStart (core : Nat) (s : State) : Out := ofCore core <|
  .next (s.onCore core fun c => match c.pane.mayStart s.cycle with
    | some e => match e.cmd with
      | .run bank index =>
        let r : PaneRun :=
          { entry := e, t0 := s.cycle, index := index, ro := 0, lc := 0, armed := false, andL := 0#1024, norL := 0#1024,
            carry := 0#1024, pred := 0#1024, at_ := s.cycle, count := 0, afterWact := false, windowEnd := 0,
            window := 0, half := false, spin := 0 }
        let c1 := c.onPane fun p => { p with queue := p.queue.drop 1, run := some r }
        if c1.reaches spinLimit r then
          { c1 with parity := Store.set Parity.valid c1.parity (bank / 8) .given
                    pane := { c1.pane with busy := some bank } }
        else c1
      | .load _ _ => c
    | none => c)

/-- The 1,024 columns of a row (R183, R248) as the run sees them (R214, R253). -/
def Core.paneRow (c : Core) (r : PaneRun) (row : Nat) : BitVec 1024 :=
  BitVec.ofNat 1024 (ofBytes (c.engineBytes r.entry.cid r.entry.seq r.entry.at_ (some r.t0)
    (32768 * r.bank + 128 * row) 128))

/-- A row a micro-operation names (R98). -/
def PaneRun.resolve (r : PaneRun) (rel : Bool) (row : Nat) : Nat := if rel then (row + r.ro) % 256 else row

/-- The run after a half-step (R100, R245): the index moves on, the next half-step is 2 c later. -/
def PaneRun.stepped (r : PaneRun) (wact : Bool) : PaneRun :=
  { r with index := r.index + 1, at_ := r.at_ + 2, count := r.count + 1, afterWact := wact, half := true, spin := 0 }

/-- A change of the run of the pane sequencer of the current core, from a cycle of its next half-step on. -/
def State.onRun (s : State) (wait : Nat) (f : Core → PaneRun → Core) : State :=
  s.onHere fun c => match c.pane.run with
    | some r => if r.at_ + wait ≤ s.cycle then f c r else c
    | none => c

/-- The run put back. -/
def Core.putRun (c : Core) (r : PaneRun) : Core := c.onPane fun p => { p with run := some r }

/-- WACT (R98): AND and NOR of two rows. -/
def execWact (x y : Bool) (a b : BitVec 8) (s : State) : Out :=
  .next (s.onRun 0 fun c r =>
    let ra := c.paneRow r (r.resolve x a.toNat)
    let rb := c.paneRow r (r.resolve y b.toNat)
    c.putRun ({ r with andL := ra &&& rb, norL := ~~~(ra ||| rb) }.stepped true))

/-- The value a WWB writes (R99); none for CUPD. -/
def wwbValue (fn : Nat) (a n c : BitVec 1024) : Option (BitVec 1024) :=
  match fn with
  | 0 => some a
  | 1 => some n
  | 2 => some (~~~n)
  | 3 => some (~~~(a ||| n))
  | 4 => some (a ||| n)
  | 5 => some (~~~(a ||| n) ^^^ c)
  | 6 => none
  | _ => some c

/-- The carry after a WWB (R99), in the columns it acts on (R250). -/
def wwbCarry (fn : Nat) (a n c cols : BitVec 1024) : BitVec 1024 :=
  if fn = 5 ∨ fn = 6 then (c &&& ~~~cols) ||| ((a ||| (c &&& ~~~n)) &&& cols) else c

/-- A pane row written in some columns (R250, R253): each of those columns counts as written. -/
def Core.writePaneRow (c : Core) (p : Nat) (value cols : BitVec 1024) : Core :=
  (List.range 128).foldl (fun c k =>
    let mk := BitVec.ofNat 8 (field cols.toNat (8 * k) 8)
    if mk = 0#8 then c else c.writeBits (p + k) (BitVec.ofNat 8 (field value.toNat (8 * k) 8)) mk) c

/-- WWB (R99, R250, R251): the row is written at the end of the half-step. -/
def execWwb (l p : Bool) (f : BitVec 3) (row : BitVec 8) (s : State) : Out :=
  .next (s.onRun 1 fun c r =>
    let cols := if p then r.pred else ~~~(0#1024)
    let c1 := match wwbValue f.toNat r.andL r.norL r.carry with
      | some v => c.writePaneRow (32768 * r.bank + 128 * r.resolve l row.toNat) v cols
      | none => c
    c1.putRun ({ r with carry := wwbCarry f.toNat r.andL r.norL r.carry cols }.stepped false))

/-- WLAT (R98): the carry (TGT 0) or predicate latch from 0, 1, a row, or its complement. -/
def execWlat (l t : Bool) (src : BitVec 2) (row : BitVec 8) (s : State) : Out :=
  .next (s.onRun 0 fun c r =>
    let v := match src.toNat with
      | 0 => 0#1024
      | 1 => ~~~(0#1024)
      | 2 => c.paneRow r (r.resolve l row.toNat)
      | _ => ~~~(c.paneRow r (r.resolve l row.toNat))
    c.putRun ((if t then { r with pred := v } else { r with carry := v }).stepped false))

/-- Is a run at the end of a half-step, or at its start before any (R245)? -/
def PaneRun.between (r : PaneRun) (cycle : Nat) : Bool :=
  if r.half then decide (r.at_ ≤ cycle + 1) else decide (r.at_ ≤ cycle)

/-- WBR (R100): executed at the end of the half-step before it (R245). -/
def execWbr (t c : BitVec 8) (k : BitVec 4) (s : State) : Out :=
  .next (s.onHere fun x => match x.pane.run with
    | some r => if r.between s.cycle then x.putRun (r.branch t.toNat c.toNat k.toInt) else x
    | none => x)

/-- WEND (R100): the microprogram ends. -/
def execWend (s : State) : Out :=
  .next (s.onHere fun c => match c.pane.run with
    | some r => if r.between s.cycle then c.putRun { r with index := 256 } else c
    | none => c)

/-- The bank of a run leaves pane mode at the end of its last half-step (R245, R246, R256): from the next cycle, in which
its group's parity begins to be rebuilt. -/
def Core.leavePane (c : Core) (r : PaneRun) (cycle : Nat) : Core :=
  if c.pane.busy.isSome then
    { c with parity := Store.set Parity.valid c.parity (r.bank / 8) (.rebuilding (cycle + 1))
             pane := { c.pane with busy := none, served := c.pane.served ++ [r.bank] } }
  else c

/-- Has a run executed its last half-step without an end (R100): its WBRs go round without one? -/
def PaneRun.spins (r : PaneRun) : Bool := decide (spinLimit < r.spin)

/-- Does a run end, or its bank leave pane mode, in a cycle (R213, R245)? -/
def Core.runEnds (c : Core) (cycle : Nat) : Option PaneRun := match c.pane.run with
  | some r =>
    if r.between cycle = true ∧ (256 ≤ r.index ∨ (r.spins = true ∧ c.pane.busy.isSome = true)) then some r else none
  | none => none

/-- PANE_RUN_COMPLETE (R213, R245, R246, R256): on tl1 at the end of the last half-step; the bank is out of pane mode from
the next cycle. A run whose WBRs go round without a half-step never completes, and its bank leaves pane mode too. -/
def execPaneRunComplete (core : Nat) (s : State) : Out := ofCore core <|
  .next (s.onCore core fun c => match c.runEnds s.cycle with
    | some r =>
      let c1 := c.leavePane r s.cycle
      if 256 ≤ r.index then
        (c1.onCtx r.entry.cid fun x => x.complete 1 r.entry.num s.cycle).onPane fun p =>
          { p with run := none, readyAt := s.cycle + 1 }
      else c1
    | none => c)

/-! ## Arbitration windows (R245, R246) -/

/-- Does a window open at this boundary (R245)? -/
def Core.windowOpens (c : Core) (cycle : Nat) : Option PaneRun :=
  match c.pane.run with
  | some r =>
    let next := c.microAt r
    let pair := r.afterWact && (match next with
      | some (.wwb _ _ _ _) => true
      | _ => false)
    if r.half ∧ r.at_ = cycle + 1 ∧ 16 ≤ r.count ∧ isHalfStep next = true ∧ pair = false then some r else none
  | none => none

/-- The queued access that a window, or the end of pane mode, serves in this cycle. -/
def Core.windowServes (c : Core) (cycle : Nat) : Option Queued :=
  let inWindow := c.pane.busy.bind fun b => if c.windowFree cycle b then c.pane.head b else none
  match inWindow with
  | some q => some q
  | none => c.drainBank.bind fun b => c.pane.head b

/-- ARBITRATION_WINDOW (R245, R246): a window of 4 c opens at a row boundary; in each of its cycles, and after the run,
the head of the queue is served. -/
def execArbitrationWindow (core : Nat) (s : State) : Out := ofCore core <|
  .next (s.onCore core fun c =>
    match c.windowOpens s.cycle with
    | some r => c.putRun { r with window := r.at_, windowEnd := r.at_ + 4, at_ := r.at_ + 4, count := 0 }
    | none => match c.windowServes s.cycle with
      | some q => c.serveQueued s.cycle q
      | none => c)

end Sys2Proof.Machine
end

