-- ==== Sys2Proof/Machine/Facet.lean ====
section
/-! DEFINITION. The facet engine and the stack search units: the commands at issue, their array work, the requests, scans
and merges (R199, R215 to R221, R243, R258 to R279, R324). -/

namespace Sys2Proof.Machine

/-! ## Issue (R215, R216) -/

/-- A query of W bits in scalar registers from number `n` on (R216). -/
def Regs.query (r : Regs) (w n : Nat) : BitVec 128 :=
  BitVec.ofNat 128 (ofWords 32 ((List.range (max 1 (w / 32))).map fun i => (r.readS (n + i)).toNat) % 2 ^ w)

/-- Registers of one query. -/
def queryRegs (w : Nat) : Nat := max 1 (w / 32)

/-- Does a command push records (R216)? -/
def isSelect (op : Nat) : Bool := decide (op = 0x20) || decide (op = 0x21) || decide (op = 0x30)

/-- Does a command read a signature at SIGADDR (R215)? -/
def usesSignature (op : Nat) : Bool := decide (op = 0x22) || decide (op = 0x23)

/-- Queries of a command. -/
def FacetCmd.queryCount (k : FacetCmd) : Nat := if k.op = 0x21 then field (dw k.desc 0) 4 3 + 1 else 1

/-- The counter of a command (R94). -/
def FacetCmd.counter (k : FacetCmd) : Nat := if k.op = 0x30 then 3 else 2

/-- Is a stream register bound as R215 and R258 ask of a result stream? -/
def resultStream : Option Binding → Bool
  | some b => match b.src with
    | .ssu _ => decide (b.ew = 2)
    | _ => false
  | none => false

/-- The command that an E slot with a true guard makes, before its number. -/
def State.facetCmd (s : State) (o : ExOp) (op : Nat) : FacetCmd :=
  let x := s.act
  let a := (x.regs.readA o.addr.toNat).toNat
  let d := s.descriptor a
  let k0 : FacetCmd :=
    { op := op, cid := x.cid, num := 0, at_ := s.cycle, addr := x.poolAddr a, desc := d, queries := [],
      bind := ((x.binding o.q.toNat).map fun b => b.id).getD 0, asid := (x.task.map fun t => t.asid).getD 0, seq := x.seq,
      trace := (x.task.map fun t => t.trace).getD 0, blk := (x.task.map fun t => t.blk).getD 0, fill := none }
  if isSelect op then
    { k0 with queries := (List.range k0.queryCount).map fun i =>
        x.regs.query k0.width (o.query.toNat + i * queryRegs k0.width) }
  else k0

/-- The faults of a command at issue (R215, R216, R258), in the model's order. -/
def State.facetChecks (s : State) (o : ExOp) (k : FacetCmd) : State :=
  let stream := isSelect k.op && !resultStream (s.act.binding o.q.toNat)
  let query := isSelect k.op && decide (63 < o.query.toNat + k.queryCount * queryRegs k.width - 1)
  if stream then s.illegal .e 0 36
  else if query then s.illegal .e 0 29
  else if !k.legal then s.illegal .e 0 40
  else if usesSignature k.op && !(s.act.inWindow k.sigAddr (k.width / 8)) then s.rangeFault .e k.sigAddr
  else s

/-- A command numbered on its counter and queued (R94, R199). -/
def State.queueFacet (s : State) (k : FacetCmd) : State :=
  let r := s.engineNumber k.counter
  let k1 := { k with num := r.1 }
  (r.2.onHere fun c =>
    if k.op = 0x30 then { c with ssqQueue := c.ssqQueue ++ [k1] }
    else { c with facet := { c.facet with queue := c.facet.queue ++ [k1] } }).noteLocal s.act

/-- A facet or SSQ command at issue (R199, R215, R216): its descriptor is read as BIND's is, by accesses of the bundle
(R187, log 16). An unbound result stream is refused whatever the guard (R28, R81). -/
def facetCommand (o : ExOp) (op : Nat) (s : State) : Out :=
  queueCommand o.head
    (fun s => if isSelect op && (s.act.binding o.q.toNat).isNone then s.illegal .e 0 36 else s)
    (fun s =>
      let a := (s.act.regs.readA o.addr.toNat).toNat
      if s.badPacket a then s.rangeFault .e a
      else
        let k := s.facetCmd o op
        s.unlessTrapped ((s.access (rowsOf (s.act.poolAddr a) 64) false 0).facetChecks o k) fun s => s.queueFacet k) s

/-- FSEL (R218). -/
def execFsel (o : ExOp) (s : State) : Out := facetCommand o 0x20 s

/-- FSELM (R218). -/
def execFselm (o : ExOp) (s : State) : Out := facetCommand o 0x21 s

/-- FINS (R219). -/
def execFins (o : ExOp) (s : State) : Out := facetCommand o 0x22 s

/-- FUPD (R219). -/
def execFupd (o : ExOp) (s : State) : Out := facetCommand o 0x23 s

/-- FDEL (R219). -/
def execFdel (o : ExOp) (s : State) : Out := facetCommand o 0x24 s

/-- FSPILL (R220). -/
def execFspill (o : ExOp) (s : State) : Out := facetCommand o 0x25 s

/-- FFILL (R220). -/
def execFfill (o : ExOp) (s : State) : Out := facetCommand o 0x26 s

/-- FCLR (R220). -/
def execFclr (o : ExOp) (s : State) : Out := facetCommand o 0x27 s

/-- SSQ (R221). -/
def execSsq (o : ExOp) (s : State) : Out := facetCommand o 0x30 s

/-! ## The work of a command in the array (R217 to R220) -/

/-- The facet engine of a core changed. -/
def State.onFacet (s : State) (core : Nat) (f : Facet → Facet) : State :=
  s.onCore core fun c => { c with facet := f c.facet }

/-- A command that starts leaves the queue; its array work takes `phase` cycles (R217). -/
def State.facetTake (s : State) (core : Nat) (k : FacetCmd) (phase left status : Nat) (kv : Store Nat) : State :=
  s.onFacet core fun f => { f with
    queue := f.queue.drop 1, freeAt := s.cycle + phase
    work := f.work ++ [⟨k, s.cycle + phase - 1, left, [], status, kv⟩] }

/-- The head of the queue waits and tries again in the next cycle (R219, R220, R279). -/
def State.facetWait (s : State) (core : Nat) : State := s.onFacet core fun f => { f with freeAt := s.cycle + 1 }

/-- A request to the stack search units takes the next token (R273); it is applied at a free time. -/
def State.request (s : State) (core : Nat) (k : FacetCmd) (kind row page slot : Nat) (addr : Nat × List Nat)
    (bytes : List Byte) : State :=
  let t := s.draw
  t.2.onFacet core fun f =>
    let r : SsuRequest :=
      { token := f.token, kind := kind, addr := addr.1, slot := slot, region := k.spill, bytes := bytes, row := row,
        seqId := k.seqId, page := page, cmd := k.num, cid := k.cid, va := k.slotVa slot, trace := k.trace, blk := k.blk,
        copies := addr.2, due := s.cycle + 1 + t.1, wid := none }
    { f with requests := f.requests ++ [r], token := f.token + 1 }

/-- What a facet command has done as it leaves the array: its state, the requests not yet visible, its status. -/
structure FacetDone where
  state : State
  left : Nat
  status : Nat

/-- FINS with its signature (R219, R268): none while it waits (R279). -/
def State.facetInsert (s : State) (core : Nat) (k : FacetCmd) (sig : BitVec 128) : Option (State × Nat) :=
  let c := s.core core
  let dup := (c.facets.any fun e => e.2.valid && decide (e.2.seq = k.seqId) && decide (e.2.page = k.page)) ||
    c.spill.any fun e => decide (e.seq = k.seqId) && decide (e.page = k.page)
  if dup then some (s, 4)
  else match k.freeRows c 1 with
    | key :: _ => some (s.onCore core fun c => c.onRow key fun _ => ⟨sig, k.page, k.seqId, true, 0, 0⟩, 0)
    | [] => if k.movingRow c c.facet.token then none else some (s, 2)

/-- The entry of the spill index for a page (R270). -/
def Core.spillEntry (c : Core) (seq page : Nat) : Option SpillEntry :=
  c.spill.find? fun e => decide (e.seq = seq) && decide (e.page = page)

/-- An entry of the spill index taken out. -/
def Core.dropEntry (c : Core) (seq page : Nat) : Core :=
  { c with spill := c.spill.filter fun e => !(decide (e.seq = seq) && decide (e.page = page)) }

/-- The region a spilled copy lies in, as a command that names it. -/
def FacetCmd.within (k : FacetCmd) (region : Nat) : FacetCmd :=
  { k with desc := k.desc.take 10 ++ [BitVec.ofNat 32 region, BitVec.ofNat 32 (region / 2 ^ 32)] ++ k.desc.drop 12 }

/-- The first slot from `n` on, of at most `fuel`, that holds a page (R219): a refused access answers the slot and false. -/
def State.findSlot (s : State) (core : Nat) (k : FacetCmd) (stack : Nat) : Nat → Nat → Option (Nat × Bool)
  | 0, _ => none
  | fuel + 1, n =>
    match s.slotAddr core k stack n true false with
    | none => some (n, false)
    | some a =>
      let f := slotFields k.width (s.slotView core a.1)
      if f.2.1 && decide (f.1 = k.page) then some (n, true) else State.findSlot s core k stack fuel (n + 1)

/-- The copies FUPD and FDEL act on (R219, R272): the array row, and the spilled copy by region and slot. -/
structure Copies where
  row : Option Nat
  spilled : Option (Nat × Nat)
  deriving DecidableEq, Repr

/-- A page in transit has both copies, wherever its array row is; another page lies in the array or in the spill index,
where a command with SPILL zero does not look (R215). -/
def State.copiesOf (s : State) (core : Nat) (k : FacetCmd) : Copies :=
  let c := s.core core
  let row := ((k.rows c).find? fun e => decide (e.2.page = k.page)).map fun e => e.1
  match c.spillEntry k.seqId k.page with
  | some e =>
    let moving := (c.facets.find? fun r => decide (0 < e.transit) && decide (r.2.transit = e.transit)).map fun r => r.1
    if k.spill = 0 ∧ row = none then ⟨none, none⟩ else ⟨moving, some (e.region, e.slot)⟩
  | none => ⟨row, none⟩

/-- FUPD's or FDEL's effect on the array row. -/
def Core.changeRow (c : Core) (sig : Option (BitVec 128)) (key : Nat) : Core :=
  c.onRow key fun r => match sig with
    | some x => { r with sig := x }
    | none => { r with valid := false, transit := 0 }

/-- The same for a row that may not exist. -/
def State.changeRow (s : State) (core : Nat) (sig : Option (BitVec 128)) (row : Option Nat) : State :=
  s.onCore core fun c => (row.map (c.changeRow sig)).getD c

/-- FUPD and FDEL with a spilled copy (R219, R269, R272): `k` names its region. The slot is read and written whole. -/
def State.changeSlot (s : State) (core : Nat) (k : FacetCmd) (sig : Option (BitVec 128)) (row : Option Nat)
    (slot : Nat) : FacetDone :=
  match s.region core k with
  | .refused => ⟨s, 0, 1⟩
  | .unusable => ⟨s, 0, 5⟩
  | .open_ _ owner stack =>
    if owner ≠ core then ⟨s, 0, 1⟩
    else match s.slotAddr core k stack slot true true with
      | none => ⟨s, 0, 1⟩
      | some a =>
        let old := s.slotView core a.1
        let bytes := match sig with
          | some x => old.take 16 ++ toBytes x.toNat 16
          | none => unusedSlot old
        let s1 := (s.noteSlots core k [slot]).changeRow core sig row
        let s2 := if sig.isNone then s1.onCore core fun c => c.dropEntry k.seqId k.page else s1
        ⟨s2.request core k (if sig.isNone then 2 else 1) 0 k.page slot a bytes, 1, 0⟩

/-- FUPD and FDEL of a page that neither the array nor the spill index shows: a slot of the region may hold it (R219). -/
def State.changeFound (s : State) (core : Nat) (k : FacetCmd) (sig : Option (BitVec 128)) (cap stack : Nat) : FacetDone :=
  match s.findSlot core k stack cap 0 with
  | none => ⟨s.noteSlots core k (List.range cap), 0, 3⟩
  | some (n, ok) =>
    let s1 := s.noteSlots core k (List.range (n + 1))
    if ok then s1.changeSlot core k sig none n else ⟨s1, 0, 1⟩

/-- The header of the region a command names, read (R357). -/
def State.noteHeader (s : State) (core : Nat) (k : FacetCmd) : State :=
  if k.spill = 0 then s else s.noteSpill core k false k.spill

/-- FUPD with a signature, FDEL with none (R219, R269, R272). -/
def State.facetChange (s : State) (core : Nat) (k : FacetCmd) (sig : Option (BitVec 128)) : FacetDone :=
  let s1 := s.noteHeader core k
  let found := s1.copiesOf core k
  let act (cap stack : Nat) : FacetDone := match found.spilled, found.row with
    | some e, row => (s1.noteHeader core (k.within e.1)).changeSlot core (k.within e.1) sig row e.2
    | none, some key => ⟨s1.changeRow core sig (some key), 0, 0⟩
    | none, none => s1.changeFound core k sig cap stack
  if k.spill = 0 then act 0 0
  else match s1.region core k with
    | .refused => ⟨s1, 0, 1⟩
    | .unusable => ⟨s1, 0, 5⟩
    | .open_ cap _ stack => act cap stack

/-- The lowest free slot of a region, at most `fuel` slots from `n` on (R270): none where there is none; a refused access
answers the slot with no address. A slot that an entry of the spill index names is not free. -/
def State.freeSlot (s : State) (core : Nat) (k : FacetCmd) (stack : Nat) :
    Nat → Nat → Option (Nat × Option (Nat × List Nat))
  | 0, _ => none
  | fuel + 1, n =>
    if (s.core core).spill.any fun e => decide (e.region = k.spill) && decide (e.slot = n) then
      State.freeSlot s core k stack fuel (n + 1)
    else match s.slotAddr core k stack n true true with
      | none => some (n, none)
      | some a =>
        if (slotFields k.width (s.slotView core a.1)).2.1 then State.freeSlot s core k stack fuel (n + 1)
        else some (n, some a)

/-- The rows an FSPILL chooses (R220, R271): highest age first, then ascending page index. A row in transit under an FFILL is
one of them: the command waits for it (log 114). -/
def FacetCmd.spillOrder (k : FacetCmd) (c : Core) : List (Nat × FacetRow) :=
  (sortBy (fun (e : Nat × FacetRow) => 2 ^ 32 * (255 - e.2.age) + e.2.page)
    ((k.rows c).filter fun e => !e.2.spilling)).take k.count

/-- FSPILL moves the chosen rows, one after another (R270): the state, the rows moved, the status. -/
def State.spillRows (s : State) (core : Nat) (k : FacetCmd) (cap stack : Nat) :
    List (Nat × FacetRow) → Nat → FacetDone
  | [], n => ⟨s, n, n * 65536⟩
  | e :: l, n =>
    if 65536 ≤ (s.core core).spill.length then ⟨s, n, n * 65536 + 2⟩
    else match s.freeSlot core k stack cap 0 with
      | none => ⟨s.noteSlots core k (List.range cap), n, n * 65536 + 5⟩
      | some (slot, none) => ⟨s.noteSlots core k (List.range (slot + 1)), n, n * 65536 + 1⟩
      | some (slot, some a) =>
        let token := (s.core core).facet.token
        let s1 := (s.noteSlots core k (List.range (slot + 1))).request core k 0 e.1 e.2.page slot a
          (slotBytesOf e.2.page e.2.sig)
        let s2 := s1.onCore core fun c =>
          let c1 := c.onRow e.1 fun r => { r with transit := 2 * token }
          { c1 with spill := c1.spill ++ [⟨k.seqId, e.2.page, slot, k.spill, 2 * token⟩] }
        State.spillRows s2 core k cap stack l (n + 1)

/-- FSPILL (R220, R269, R270): none while it waits for a row it chooses. -/
def State.facetSpill (s : State) (core : Nat) (k : FacetCmd) : Option FacetDone :=
  let s1 := s.noteHeader core k
  match s1.region core k with
  | .refused => some ⟨s1, 0, 1⟩
  | .unusable => some ⟨s1, 0, 5⟩
  | .open_ cap owner stack =>
    let rows := k.spillOrder (s1.core core)
    if owner ≠ core then some ⟨s1, 0, 1⟩
    else if rows.any fun e => decide (0 < e.2.transit) then none
    else some (s1.spillRows core k cap stack rows 0)

/-- The entries an FFILL chooses (R220, R271): lowest page index first. An entry in transit under an FSPILL is one of them: the
command waits for it (log 114). -/
def FacetCmd.fillOrder (k : FacetCmd) (c : Core) : List SpillEntry :=
  (sortBy (fun (e : SpillEntry) => e.page) (c.spill.filter fun e =>
    decide (e.seq = k.seqId) && decide (e.transit % 2 = 0) && decide (e.region = k.spill))).take k.count

/-- The memory work of a command changed. -/
def Facet.onWork (f : Facet) (k : FacetCmd) (g : FacetWork → FacetWork) : Facet :=
  { f with work := replaceFirst (fun w => decide (w.cmd.num = k.num) && (w.cmd.cid == k.cid) && decide (w.cmd.op ≠ 0x30)) g f.work }

/-- An FFILL leaves the array (R217): the last of its rows moved, or stopped short. -/
def State.fillEnds (s : State) (core : Nat) (k : FacetCmd) (code : Nat) : State :=
  s.onFacet core fun f =>
    { f.onWork k fun w => { w with done := s.cycle + 71, left := w.left - 1, status := w.status + code } with
      queue := f.queue.drop 1, freeAt := s.cycle + 72 }

/-- An FFILL keeps the rows it has still to move, and waits (R279). -/
def State.fillWaits (s : State) (core : Nat) (stack own : Nat) (l : List SpillEntry) : State :=
  s.onFacet core fun f => { f with
    queue := replaceFirst (fun _ => true) (fun k => { k with fill := some (stack, own, l) }) f.queue, freeAt := s.cycle + 1 }

/-- FFILL moves its rows (R220, R270, R279): each is read from its slot in engine order and written into the lowest free row;
one that finds none waits for a row in transit. Its memory work counts the command itself until it leaves the array. -/
def State.fillRows (s : State) (core : Nat) (k : FacetCmd) (stack own : Nat) : List SpillEntry → State
  | [] => s.fillEnds core k 0
  | e :: l =>
    match k.freeRows (s.core core) 1 with
    | [] => if k.movingRow (s.core core) own then s.fillWaits core stack own (e :: l) else s.fillEnds core k 2
    | key :: _ =>
      match s.slotAddr core k stack e.slot true true with
      | none => s.fillEnds core k 1
      | some a =>
        let token := (s.core core).facet.token
        let old := s.slotView core a.1
        let s1 := (s.noteSlots core k [e.slot]).request core k 3 key e.page e.slot a (unusedSlot old)
        let s2 := s1.onCore core fun c =>
          let c1 := c.onRow key fun _ => ⟨(slotFields k.width old).2.2, e.page, k.seqId, true, 0, 2 * token + 1⟩
          { c1 with
            spill := c1.spill.map fun o => if o = e then { o with transit := 2 * token + 1 } else o
            facet := c1.facet.onWork k fun w => { w with left := w.left + 1, status := w.status + 65536 } }
        State.fillRows s2 core k stack own l

/-- FFILL at the head of the queue (R220, R269, R271, R279). -/
def State.facetFill (s : State) (core : Nat) (k : FacetCmd) (kv : Store Nat) : State :=
  let stop (s : State) (code : Nat) : State := s.onFacet core fun f => { f with
    queue := f.queue.drop 1, freeAt := s.cycle + 72, work := f.work ++ [⟨k, s.cycle + 71, 0, [], code, kv⟩] }
  match k.fill with
  | some (stack, own, l) => s.fillRows core k stack own l
  | none =>
    let s1 := s.noteHeader core k
    match s1.region core k with
    | .refused => stop s1 1
    | .unusable => stop s1 5
    | .open_ _ owner stack =>
      let es := k.fillOrder (s1.core core)
      if owner ≠ core then stop s1 1
      else if es.any fun e => decide (0 < e.transit) then s1.facetWait core
      else
        let s2 := s1.onFacet core fun f => { f with work := f.work ++ [⟨k, s.cycle, 1, [], 0, kv⟩] }
        s2.fillRows core k stack (s1.core core).facet.token es

/-- Is a logical row of an FCLR's rows in transit (R220)? -/
def FacetCmd.transitRow (k : FacetCmd) (c : Core) : Bool :=
  c.facets.any fun e => decide (k.first ≤ e.1 / 8) && decide (e.1 / 8 < k.first + k.nrows) && decide (0 < e.2.transit)

/-- FCLR's effect (R220): the width of its rows, and every logical row in them invalid with age 0. -/
def FacetCmd.clear (k : FacetCmd) (c : Core) : Core :=
  let inside (key : Nat) : Bool := decide (k.first ≤ key / 8) && decide (key / 8 < k.first + k.nrows)
  let rows := c.facets.filter fun e => inside e.1
  let c1 := rows.foldl (fun c e => c.onRow e.1 fun r => { r with valid := false, age := 0 }) c
  let phys := (List.range k.nrows).map fun i => k.first + i
  { c1 with widths := Store.setAll 0 (fun _ => 3 - field (dw k.desc 0) 0 2) phys c1.widths }

/-- The array's part of a select (R218, R264): score, network, emission. -/
def State.facetSelect (s : State) (core : Nat) (k : FacetCmd) : State :=
  let c := s.core core
  let t0 := s.cycle
  let array := bestK k.k (k.candidates ((k.rows c).map fun e => (e.2.page, e.2.sig)))
  let before := t0 + 64 + 8 * (k.queryCount - 1)
  let take (z : Select) (f : Facet) : Facet := { f with queue := f.queue.drop 1, sel := some z }
  if k.spill = 0 then
    let recs := k.records array
    let last := before + max k.k recs.length - 1
    let pages := (returned recs).map fun p => (0, p)
    s.onFacet core (take ⟨k, t0, last, t0, pages, [], 0, none, 0, recs, true, last + 1 - recs.length, 0, []⟩)
  else
    let t := s.draw
    t.2.onFacet core (take ⟨k, t0, before + k.k - 1, t0, array, [], c.facet.token, none, t0 + 1 + t.1, [], false, 0, 0, []⟩)

/-- The row of SIGADDR, numbered through the pool. -/
def Core.sigRow (c : Core) (k : FacetCmd) : Nat := rowOf ((c.ctx k.cid).poolAddr k.sigAddr)

/-- The signature at SIGADDR as the engine sees it (R214, R216, R324). -/
def Core.signature (c : Core) (k : FacetCmd) : BitVec 128 :=
  BitVec.ofNat 128 (ofBytes (c.engineBytes k.cid k.seq k.at_ none ((c.ctx k.cid).poolAddr k.sigAddr) (k.width / 8)))

/-- The signature read of FINS and FUPD, at the priority of a facet read (R219); the head keeps it. -/
def State.readSignature (s : State) (core : Nat) (k : FacetCmd) : State :=
  let c := s.core core
  let r := c.seek s.cycle (.facet 1 (c.sigRow k)) true
  let s1 := s.setCore core r.2
  let keep (k : FacetCmd) : FacetCmd := { k with queries := [c.signature k] }
  if r.1 then s1.onFacet core fun f => { f with queue := replaceFirst (fun _ => true) keep f.queue }
  else s1.facetWait core

/-- The command at the head of the facet queue, when it can start its array work (R217). -/
def Core.facetHead (c : Core) (cycle : Nat) : Option FacetCmd :=
  match c.facet.queue with
  | k :: _ => if c.facet.sel.isNone ∧ c.facet.freeAt ≤ cycle ∧ k.at_ + 1 ≤ cycle then some k else none
  | [] => none

/-- Must a command wait until its clock is covered, since it reads the header of a region as it starts (R316.5)? -/
def State.facetClock (s : State) (core : Nat) (k : FacetCmd) : Bool :=
  decide (k.spill = 0) || isSelect k.op || s.covered (s.clockOf (dieOf core))

/-- The K of a response from the stack of a region (R316.5). -/
def State.regionK (s : State) (core : Nat) (k : FacetCmd) : Store Nat :=
  match s.region core k with
  | .open_ _ _ stack => mergeMax (s.die (dieOf core)).kFar (s.die stack).kHome
  | _ => []

/-- The array work of a command begins (R217 to R220). -/
def State.facetBegin (s : State) (core : Nat) (k : FacetCmd) : State :=
  let c := s.core core
  let kv := if k.spill = 0 then [] else s.regionK core k
  if usesSignature k.op && k.queries.isEmpty then s.readSignature core k
  else if isSelect k.op then s.facetSelect core k
  else if k.op = 0x22 then
    match s.facetInsert core k (k.queries.headD 0#128) with
    | some (s1, status) => s1.facetTake core k 8 0 status []
    | none => s.facetWait core
  else if k.op = 0x27 then
    if k.transitRow c then s.facetWait core
    else (s.onCore core k.clear).facetTake core k (2 + ceilDiv' k.nrows 256) 0 0 []
  else if k.op = 0x23 ∨ k.op = 0x24 then
    let d := s.facetChange core k (if k.op = 0x23 then some (k.queries.headD 0#128) else none)
    d.state.facetTake core k 24 d.left d.status kv
  else if k.op = 0x25 then
    match s.facetSpill core k with
    | some d => d.state.facetTake core k 72 d.left d.status kv
    | none => s.facetWait core
  else s.facetFill core k kv

/-- SSQ at the head of its queue begins (R221, R276): its scan starts at a free time. -/
def State.ssqBegin (s : State) (core : Nat) : State :=
  match (s.core core).ssqQueue, (s.core core).ssq with
  | k :: _, none =>
    if k.at_ + 1 ≤ s.cycle then
      let t := s.draw
      t.2.onCore core fun c =>
        { c with ssqQueue := c.ssqQueue.drop 1, ssq := some ⟨k, [], none, s.cycle + 1 + t.1, [], 0, 0, []⟩ }
    else s
  | _, _ => s

/-- Can the SSQ at the head of its queue begin? -/
def Core.ssqReady (c : Core) (cycle : Nat) : Bool :=
  match c.ssqQueue with
  | k :: _ => c.ssq.isNone && decide (k.at_ + 1 ≤ cycle)
  | [] => false

/-- What the commands of a killed task still do is kept in its record (R359, R360). -/
def State.keepKilled (s : State) (core : Nat) : State :=
  [(s.core core).act, (s.core core).shadow].foldl (fun s x => match x.task, x.phase with
    | some t, .killed => s.keepRecord t.trace t.blk
    | _, _ => s) s

/-- FACET_COMMAND_START (R217, R221): the next facet command begins its array work, or the next SSQ its scans. -/
def execFacetCommandStart (core : Nat) (s : State) : Out := ofCore core <|
  let s1 := match (s.core core).facetHead s.cycle with
    | some k => if s.facetClock core k then s.facetBegin core k else s.facetWait core
    | none => s
  .next ((s1.ssqBegin core).keepKilled core)

/-! ## Requests and scans (R271 to R276) -/

/-- A request that can be applied (R273, R316.4): the requests of its region before it are. Requests of other regions may be
applied before or after it. -/
def State.ssuReady (s : State) (core : Nat) (before : List SsuRequest) (r : SsuRequest) : Bool :=
  r.wid.isNone && decide (r.due ≤ s.cycle) && s.covered (s.clockOf (dieOf core)) &&
  !(before.any fun q => decide (q.region = r.region) && !s.applied q)

/-- The first request that can be applied. -/
def State.ssuFirst (s : State) (core : Nat) : List SsuRequest → List SsuRequest → Option SsuRequest
  | _, [] => none
  | before, r :: l => if s.ssuReady core before r then some r else State.ssuFirst s core (before ++ [r]) l

/-- The next request to be applied. -/
def State.ssuNext (s : State) (core : Nat) : Option SsuRequest := s.ssuFirst core [] (s.core core).facet.requests

/-- A request changed. -/
def State.onRequest (s : State) (core token : Nat) (f : SsuRequest → SsuRequest) : State :=
  s.onFacet core fun e => { e with requests := replaceFirst (fun r => decide (r.token = token)) f e.requests }

/-- SSU_REQUEST (R273, R316, R321, R324, R355, R357): a spill write, slot update or free is applied at the slot's home as a
numbered write at pkg scope, whole; on a replicated page it takes the two phases of R321. -/
def execSsuRequest (core : Nat) (s : State) : Out := ofCore core <|
  match s.ssuNext core with
  | none => .next s
  | some r =>
    let die := dieOf core
    let clock := s.clockOf die
    let id := s.nextWrite
    let n := State.numberWrite { s with nextWrite := id + 1 } die id true
    let s1 := if r.copies.isEmpty then n.2.applyHome (homeDie r.addr) ⟨id, die, n.1, clock, true, 0, r.addr, r.bytes, true, 0⟩
      else { n.2 with reps := n.2.reps ++ [⟨id, die, n.1, clock, r.addr, r.bytes, r.copies, false, true, s.cycle⟩] }
    let s2 := (s1.noteWrite r.trace r.blk (tileOf r.va)).onRequest core r.token fun q => { q with wid := some id }
    .next (s2.keepKilled core)

/-- The first request of given kinds whose write is visible at pkg scope. -/
def State.ssuVisible (s : State) (core : Nat) (fill : Bool) : Option SsuRequest :=
  (s.core core).facet.requests.find? fun r => (decide (r.kind = 3) == fill) && (match r.wid with
    | some id => s.visible id
    | none => false)

/-- A request is finished: the command it belongs to has one less to wait for. -/
def State.finishRequest (s : State) (core : Nat) (r : SsuRequest) : State :=
  let mine (w : FacetWork) : Bool := decide (w.cmd.num = r.cmd) && (w.cmd.cid == r.cid) && decide (0 < w.left)
  let less (w : FacetWork) : FacetWork := { w with left := w.left - 1, ids := w.ids ++ r.wid.toList }
  s.onFacet core fun f => { f with
    requests := f.requests.filter fun q => !decide (q.token = r.token), work := replaceFirst mine less f.work }

/-- SPILL_VISIBLE (R220, R271): a spill copy is visible at pkg scope, and its array row is made invalid. -/
def execSpillVisible (core : Nat) (s : State) : Out := ofCore core <|
  match s.ssuVisible core false with
  | none => .next s
  | some r =>
    let drop (e : SpillEntry) : SpillEntry := if e.transit = 2 * r.token then { e with transit := 0 } else e
    let s1 := if r.kind = 0 then s.onCore core fun c =>
        let c1 := if (c.facetRow r.row).transit = 2 * r.token then
          c.onRow r.row fun q => { q with valid := false, transit := 0 } else c
        { c1 with spill := c1.spill.map drop }
      else s
    .next (s1.finishRequest core r)

/-- FILL_TRANSIT_END (R220, R271): the slot is free and its index entry is removed. -/
def execFillTransitEnd (core : Nat) (s : State) : Out := ofCore core <|
  match s.ssuVisible core true with
  | none => .next s
  | some r =>
    let s1 := s.onCore core fun c =>
      let c1 := if (c.facetRow r.row).transit = 2 * r.token + 1 then c.onRow r.row fun q => { q with transit := 0 } else c
      { c1 with spill := c1.spill.filter fun e => !decide (e.transit = 2 * r.token + 1) }
    .next (s1.finishRequest core r)

/-- May the scans of a select begin (R273, R316.5): their time has come, and every earlier request of the region has been
applied? -/
def State.selectBegins (s : State) (core : Nat) (z : Select) : Bool :=
  z.scan.isNone && !z.merged && decide (z.startAt ≤ s.cycle) && s.covered (s.clockOf (dieOf core)) &&
  !((s.core core).facet.requests.any fun r =>
    decide (r.region = z.cmd.spill) && decide (r.token < z.token) && !s.applied r)

/-- May the scan of an SSQ begin (R276, R316.5)? -/
def State.ssqBegins (s : State) (core : Nat) (w : SsqWork) : Bool :=
  w.scan.isNone && decide (w.startAt ≤ s.cycle) && s.covered (s.clockOf (dieOf core))

/-- The times at which the eight units have been scanned, all within the bound of R332. -/
def State.unitTimes (s : State) (z : Scan) : List (Nat × Nat) × State :=
  (List.range 8).foldl (fun (e : List (Nat × Nat) × State) u =>
    let t := e.2.draw
    (e.1 ++ [(u, s.cycle + 1 + t.1 % z.bound)], t.2)) ([], s)

/-- The same in ascending order of the units (R276). -/
def ascendingTimes : Nat → List (Nat × Nat) → List (Nat × Nat)
  | _, [] => []
  | m, e :: l => (e.1, max m e.2) :: ascendingTimes (max m e.2) l

/-- The scans of a select begin (R332): the units of a region without slots have nothing to deliver. -/
def State.openSelect (s : State) (core : Nat) (z : Select) : State :=
  let o := s.openScan core z.cmd
  let t := (s.noteHeader core z.cmd).unitTimes o.1
  let z1 := { z with
    scan := some o.1, unitsEnd := s.cycle, unitsLeft := if o.1.cap = 0 then [] else t.1
    status := o.2, kv := mergeMax z.kv (s.regionK core z.cmd) }
  t.2.onFacet core fun f => { f with sel := some z1 }

/-- The scan of an SSQ begins (R332). -/
def State.openSsq (s : State) (core : Nat) (w : SsqWork) : State :=
  let o := s.openScan core w.cmd
  let t := (s.noteHeader core w.cmd).unitTimes o.1
  let w1 := { w with
    scan := some o.1, units := ascendingTimes 0 t.1, status := o.2, kv := mergeMax w.kv (s.regionK core w.cmd) }
  t.2.onCore core fun c => { c with ssq := some w1 }

/-- The select, its scan and its unit to be scanned in this cycle. -/
def State.selectScan (s : State) (core unit : Nat) : Option (Select × Scan) :=
  match (s.core core).facet.sel with
  | some z => match z.scan with
    | some n => if z.unitsLeft.any fun e => decide (e.1 = unit) && decide (e.2 ≤ s.cycle) then some (z, n) else none
    | none => none
  | none => none

/-- The SSQ, its scan and its next unit to be scanned in this cycle (R276). -/
def State.ssqScan (s : State) (core unit : Nat) : Option (SsqWork × Scan) :=
  match (s.core core).ssq with
  | some w => match w.scan, w.units with
    | some n, e :: _ => if e.1 = unit ∧ e.2 ≤ s.cycle then some (w, n) else none
    | _, _ => none
  | none => none

/-- A unit of a select's region delivers its best candidates (R274). -/
def State.scanSelect (s : State) (core unit : Nat) (z : Select) (n : Scan) : State :=
  let r := s.scanUnit core z.cmd n true unit
  let z1 := { z with
    cands := z.cands ++ bestK z.cmd.k (z.cmd.candidates r.1)
    unitsLeft := z.unitsLeft.filter fun e => !decide (e.1 = unit)
    unitsEnd := s.cycle, status := if r.2.1 then 1 else z.status }
  r.2.2.onFacet core fun f => { f with sel := some z1 }

/-- A unit of an SSQ's region delivers its records (R276). -/
def State.scanSsq (s : State) (core unit : Nat) (w : SsqWork) (n : Scan) : State :=
  let r := s.scanUnit core w.cmd n false unit
  let recs := w.cmd.unitRecords unit (bestK w.cmd.k (w.cmd.candidates r.1))
  let rest := w.units.drop 1
  let w1 := { w with
    units := rest, out := w.out ++ (if rest.isEmpty then markLast recs else recs)
    nextAt := max w.nextAt (s.cycle + 1), status := if r.2.1 then 1 else w.status }
  r.2.2.onCore core fun c => { c with ssq := some w1 }

/-- SSU_SCAN (R274, R276, R332): a scan begins, or a unit of the region delivers what it found. Units 8 to 15 stand for units
0 to 7 of an SSQ. -/
def execSsuScan (core unit : Nat) (s : State) : Out := ofCore core <|
  .next (State.keepKilled (if unit < 8 then
    match s.selectScan core unit with
    | some (z, n) => s.scanSelect core unit z n
    | none => match (s.core core).facet.sel with
      | some z => if s.selectBegins core z then s.openSelect core z else s
      | none => s
  else
    match s.ssqScan core (unit - 8) with
    | some (w, n) => s.scanSsq core (unit - 8) w n
    | none => match (s.core core).ssq with
      | some w => if s.ssqBegins core w then s.openSsq core w else s
      | none => s) core)

/-- The unit that is scanned in this cycle, or one of a scan that begins. -/
def State.scanDue (s : State) (core : Nat) : Option Nat :=
  let c := s.core core
  if c.facet.sel.any fun z => s.selectBegins core z then some 0
  else if c.ssq.any fun w => s.ssqBegins core w then some 8
  else (List.range 16).find? fun u => if u < 8 then (s.selectScan core u).isSome else (s.ssqScan core (u - 8)).isSome

/-! ## Merge, records, ageing, completion (R258, R266, R275) -/

/-- Ageing (R218, R266): returned rows get age 0, the others one more; rows in transit under an FSPILL keep theirs. -/
def FacetCmd.ageRows (k : FacetCmd) (pages : List Nat) (c : Core) : Core :=
  (k.rows c).foldl (fun c e =>
    if e.2.spilling then c
    else c.onRow e.1 fun r => { r with age := if pages.contains r.page then 0 else min 255 (r.age + 1) }) c

/-- Can a select be merged in this cycle (R275)? -/
def Select.mergeable (z : Select) (cycle : Nat) : Bool :=
  !z.merged && z.scan.isSome && z.unitsLeft.isEmpty && decide (max z.arrayEnd z.unitsEnd + 8 ≤ cycle)

/-- Has a select a record to push in this cycle? -/
def Select.pushing (z : Select) (cycle : Nat) : Bool := z.merged && decide (z.pushAt ≤ cycle)

/-- The merge (R275): the ranked pages of the array's and the units' candidates, each page once. -/
def Select.merge (z : Select) (cycle : Nat) : Select :=
  let recs := z.cmd.records (bestK z.cmd.k (onePerPage z.cands))
  { z with out := recs, merged := true, pushAt := cycle, cands := (returned recs).map fun p => (0, p) }

/-- A select pushes a record (R258): after its last, ageing, and the array work ends (R266). -/
def State.selectPush (s : State) (core : Nat) (z : Select) : State :=
  match z.out with
  | [] => s
  | r :: rest =>
    match ((s.core core).ctx z.cmd.cid).offer z.cmd.bind r with
    | none => s.onFacet core fun f => { f with sel := some { z with pushAt := s.cycle + 1 } }
    | some x =>
      let s1 := s.onCore core fun c => c.onCtx z.cmd.cid fun _ => x
      if rest.isEmpty then
        (s1.onCore core (z.cmd.ageRows (z.cands.map fun e => e.2))).onFacet core fun f => { f with
          sel := none, freeAt := s.cycle + 1, work := f.work ++ [⟨z.cmd, s.cycle, 0, [], z.status, z.kv⟩] }
      else s1.onFacet core fun f => { f with sel := some { z with out := rest, pushAt := s.cycle + 1 } }

/-- Has an SSQ a record to push in this cycle? -/
def SsqWork.pushing (w : SsqWork) (cycle : Nat) : Bool := !w.out.isEmpty && decide (w.nextAt ≤ cycle)

/-- An SSQ pushes a record (R221, R258). -/
def State.ssqPush (s : State) (core : Nat) (w : SsqWork) : State :=
  match w.out with
  | [] => s
  | r :: rest =>
    match ((s.core core).ctx w.cmd.cid).offer w.cmd.bind r with
    | none => s.onCore core fun c => { c with ssq := some { w with nextAt := s.cycle + 1 } }
    | some x =>
      let s1 := s.onCore core fun c => c.onCtx w.cmd.cid fun _ => x
      if rest.isEmpty && w.units.isEmpty then
        s1.onCore core fun c => { c with
          ssq := none
          facet := { c.facet with work := c.facet.work ++ [⟨w.cmd, s.cycle, 0, [], w.status, w.kv⟩] } }
      else s1.onCore core fun c => { c with ssq := some { w with out := rest, nextAt := s.cycle + 1 } }

/-- FACET_MERGE (R258, R265, R266, R275): the merge of a select, and one record pushed in a cycle by a select and by an
SSQ. -/
def execFacetMerge (core : Nat) (s : State) : Out := ofCore core <|
  let s1 := match (s.core core).facet.sel with
    | some z =>
      let z1 := if z.mergeable s.cycle then z.merge s.cycle else z
      if z1.pushing s.cycle then s.selectPush core z1 else s
    | none => s
  .next (match (s1.core core).ssq with
    | some w => if w.pushing s1.cycle then s1.ssqPush core w else s1
    | none => s1)

/-- A command whose array work and memory work have ended (R217). -/
def Core.facetDone (c : Core) (cycle : Nat) : Option FacetWork :=
  c.facet.work.find? fun w => decide (w.done ≤ cycle) && decide (w.left = 0)

/-- FACET_COMMAND_COMPLETE (R215, R217, R221): STATUS is written and the command completes on its counter; in a busy bank
STATUS waits for a window (R246, R252). -/
def execFacetCommandComplete (core : Nat) (s : State) : Out := ofCore core <|
  match (s.core core).facetDone s.cycle with
  | none => .next s
  | some w =>
    let k := w.cmd
    let a := k.addr + 60
    let put := (s.core core).putWord s.cycle 21 (.facet (2 + 4 * k.num + k.counter) (rowOf a)) a (BitVec.ofNat 32 w.status)
    let s0 := s.setCore core put.2
    if !put.1 then
      let later (o : FacetWork) : FacetWork := { o with done := s.cycle + 1 }
      .next (s0.onFacet core fun f => { f with work := replaceFirst (fun o => decide (o = w)) later f.work })
    else
    let s1 := s0.onCore core fun c =>
      let c2 := c.onCtx k.cid fun x =>
        let x1 := x.complete k.counter k.num s.cycle
        { x1 with clocks := x1.clocks ++ [(k.counter, k.num, w.kv)] }
      { c2 with facet := { c2.facet with work := c2.facet.work.erase w } }
    .next (s1.onDie (dieOf core) fun d => { d with open_ := d.open_.filter fun e => !(w.ids.contains e.2) })

end Sys2Proof.Machine
end

