-- ==== Sys2Proof/Machine/Relaunch.lean ====
section
/-! DEFINITION. TRACE and RELAUNCH: windows and filters, the choice of blocks, the stale map (R145, R350 to R354, R359 to
R367). -/

namespace Sys2Proof.Machine

/-! ## TRACE (R351 to R354) -/

/-- BMAP of a trace descriptor. -/
def traceBmap (d : List Word) : Nat := dw d 0 + 2 ^ 32 * field (dw d 1) 0 20

/-- The four windows of a trace descriptor: first tile, count. -/
def traceWindows (d : List Word) : List (Nat × Nat) :=
  (List.range 4).map fun w => ((dw d (2 + 3 * w) + 2 ^ 32 * field (dw d (3 + 3 * w)) 0 20) / 16384, dw d (4 + 3 * w))

/-- Do two ranges of tiles share one? An unused window has none. -/
def shareTile (a b : Nat × Nat) : Bool :=
  decide (0 < a.2) && decide (0 < b.2) && decide (a.1 < b.1 + b.2) && decide (b.1 < a.1 + a.2)

/-- Do no two ranges of a list share a tile? -/
def apart : List (Nat × Nat) → Bool
  | [] => true
  | r :: l => !(l.any fun k => shareTile r k) && apart l

/-- The tiles of the bitmap and the stale map (R352). -/
def traceOwn (bmap total : Nat) : Nat × Nat :=
  let n := 64 * ceilDiv' (total + 1) 512 + 65600
  (bmap / 16384, (bmap + n - 1) / 16384 - bmap / 16384 + 1)

/-- Is a descriptor with HANDLE zero well-formed (R351, STATUS 2)? -/
def traceOk (d : List Word) : Bool :=
  let ws := traceWindows d
  let total : Nat := (ws.map fun w => w.2).sum
  decide (dw d 0 % 64 = 0) && decide (field (dw d 1) 20 11 = 0) &&
  ((List.range 4).all fun w => decide (dw d (2 + 3 * w) % 16384 = 0) && decide (dw d (3 + 3 * w) < 2 ^ 20)) &&
  (ws.all fun w => decide (w.2 ≤ 2 ^ 26)) && decide (total ≤ 2 ^ 26) && apart ws &&
  !(ws.any fun w => shareTile w (traceOwn (traceBmap d) total))

/-- The physical tiles of the windows by bit number (R352, R354): none where a page is not a valid KIND 0 mapping. -/
def State.watchWindow (s : State) (asid bit tile : Nat) : Nat → Option (List (Nat × Nat))
  | 0 => some []
  | n + 1 =>
    match if tile < 2 ^ 38 then s.watchTile asid (16384 * tile) else none with
    | some p => (State.watchWindow s asid (bit + 1) (tile + 1) n).map fun l => (p, bit) :: l
    | none => none

/-- The same for all windows. -/
def State.watchWindows (s : State) (asid : Nat) : Nat → List (Nat × Nat) → Option (List (Nat × Nat))
  | _, [] => some []
  | bit, w :: l =>
    match s.watchWindow asid bit w.1 w.2 with
    | some p => (State.watchWindows s asid (bit + w.2) l).map fun r => p ++ r
    | none => none

/-- May the trace write a range of its own memory (R351)? -/
def State.ownWritable (s : State) (asid : Nat) (own : Nat × Nat) : Bool :=
  (List.range own.2).all fun k => decide (own.1 + k < 2 ^ 38) && match s.translateNow 0 asid (16384 * (own.1 + k)) true with
    | some l => decide (l.kind = 0)
    | none => false

/-- A TRACE ends (R145): the handle goes to word 14. -/
def State.endTrace (s : State) (o : CopyOp) (status handle : Nat) : State :=
  let word := if status = 0 ∧ handle ≠ 0 then [(56, BitVec.ofNat 32 handle)] else []
  (s.closeOp { o with status := status } (word ++ [(60, BitVec.ofNat 32 status)])).onDist fun d => { d with waiting := d.waiting.filter fun k => !decide (k = o.id) }

/-- A trace is created (R351 to R353): its bitmap and stale-map header are zero, its filters armed. -/
def State.createTrace (s : State) (o : CopyOp) : State :=
  let d := o.packet
  let ws := traceWindows d
  let total : Nat := (ws.map fun w => w.2).sum
  let own := traceOwn (traceBmap d) total
  let slot := (List.range 64).find? fun k => !(s.dist.traces.any fun t => decide (t.slot = k))
  if !traceOk d then s.endTrace o 2 0
  else match slot with
    | none => s.endTrace o 3 0
    | some k =>
      if s.dist.trsbase = 0 ∨ o.accepted = false then s.endTrace o 3 0
      else match s.watchWindows o.asid 0 ws with
        | none => s.endTrace o 1 0
        | some watch =>
          if !s.ownWritable o.asid own then s.endTrace o 1 0
          else
            let t : Trace :=
              { slot := k, gen := s.dist.traceGen, asid := o.asid, bmap := traceBmap d, isLocal := bitOf (dw d 1) 31
                windows := ws, watch := watch, recorded := none, recs := [], stale := [], lost := false, lostRun := false }
            let s1 := s.onDist fun e => { e with
              traces := e.traces ++ [t], traceGen := if e.traceGen + 1 < 2 ^ 26 then e.traceGen + 1 else 1 }
            (s1.writeTrace t.handle o.asid t.bmap (zeroBytes (t.bitmapBytes + 64))).endTrace o 0 t.handle

/-- Can a TRACE be taken up in this cycle? A release waits for the launches that name its trace (R351, R353). -/
def State.traceReady (s : State) (o : CopyOp) : Bool :=
  decide (o.kind = 7) && decide (o.notBefore ≤ s.cycle) && decide (o.stage = .ready) && !s.dist.traceBusy (dw o.packet 14)

/-- TRACE_COMPLETE (R351, R353): a trace is created, or released. -/
def execTraceComplete (id : Nat) (s : State) : Out :=
  match s.op id with
  | none => .next s
  | some o =>
    if !s.traceReady o then .next s
    else
      let h := dw o.packet 14
      if h = 0 then .next (s.createTrace o)
      else if (List.range 14).any fun k => decide (dw o.packet k ≠ 0) then .next (s.endTrace o 4 0)
      else match s.trace h with
        | some t =>
          if t.asid = o.asid then
            .next ((s.onDist fun d => { d with traces := d.traces.filter fun k => !decide (k.handle = h) }).endTrace o 0 0)
          else .next (s.endTrace o 4 0)
        | none => .next (s.endTrace o 4 0)

/-! ## RELAUNCH (R363 to R365) -/

/-- The tile of a bit below T (R352). -/
def tileOfBit : List (Nat × Nat) → Nat → Option Nat
  | [], _ => none
  | w :: l, b => if b < w.2 then some (w.1 + b) else tileOfBit l (b - w.2)

/-- PARAM of the recorded launch. -/
def Trace.paramTile (t : Trace) : List Nat := match t.recorded with
  | some r => [r.2.1 / 16384]
  | none => []

/-- The bytes of the dirty bitmap; none where a read is refused. -/
def State.bitmap (s : State) (t : Trace) : Option (List Byte) := s.readTrace t.asid t.bmap t.bitmapBytes

/-- The tiles of set bits (R352, R364): every consumed bit counts. -/
def Trace.dirtyTiles (t : Trace) (map : List Byte) : List Nat :=
  ((List.range (t.tileCount + 1)).filter fun b => (nth0 map (b / 8)).getLsbD (b % 8)).flatMap fun b =>
    if b = t.tileCount then t.paramTile else (tileOfBit t.windows b).toList

/-- Is a block always run (R359)? -/
def TraceRec.alwaysRun (r : TraceRec) : Bool := r.rovf || r.ext || r.loc || r.kill

/-- Does a set of runs meet a set of tiles? -/
def runsMeet (runs : List (Nat × Nat)) (tiles : List Nat) : Bool :=
  runs.any fun r => tiles.any fun t => decide (r.1 ≤ t) && decide (t < r.1 + r.2)

/-- The blocks that must run before the closure (R363). -/
def Trace.mustRun (t : Trace) (n : Nat) (dirty : List Nat) : List Nat :=
  (List.range n).filter fun b =>
    let r := t.record b
    t.lost || !r.valid || r.alwaysRun || runsMeet r.reads dirty

/-- One round of the closure (R363). -/
def closeOnce (n : Nat) (gang : Bool) (recs : List Record) (set : List Nat) : List Nat :=
  if gang && !set.isEmpty then List.range n
  else (List.range n).filter fun b => set.contains b || recs.any fun r => set.contains r.blk && r.succ.contains b

/-- The closure: as many rounds as there are blocks reach it. -/
def closure (n : Nat) (gang : Bool) (recs : List Record) : Nat → List Nat → List Nat
  | 0, set => set
  | fuel + 1, set => closure n gang recs fuel (closeOnce n gang recs set)

/-- Occurrences of a block in the successor lists of the chosen blocks (R365). -/
def occurrences (recs : List Record) (b : Nat) : Nat := (recs.map fun r => (r.succ.filter fun c => decide (c = b)).length).sum

/-- A record with another PRED (R365). -/
def Record.withPred (r : Record) (p : Nat) : Record :=
  { r with words := r.words.take 2 ++ [BitVec.ofNat 32 (p + 65536 * field (dw r.words 2) 16 16)] ++ r.words.drop 3 }

/-- Can a relaunch choose its blocks in this cycle? The writes whose bits are set must be visible (R364). -/
def State.relaunchReady (s : State) (l : Launch) : Bool := l.relaunch && l.chosen.isNone && !s.forwarding

/-- The dirty bits are consumed (R364): the bits, and the state with the bitmap zero. -/
def State.consume (s : State) (t : Trace) : List Byte × State :=
  match s.bitmap t with
  | some map => (map, s.writeTrace t.handle t.asid t.bmap (zeroBytes t.bitmapBytes))
  | none => ([], s.loseTrace t.handle)

/-- The tiles that count as dirty (R363). -/
def Trace.dirty (t : Trace) (map : List Byte) (param : Nat) : List Nat :=
  let moved := if t.paramTile = [param / 16384] then [] else t.paramTile
  t.dirtyTiles map ++ moved

/-- The chosen blocks of a relaunch (R363). -/
def Launch.choose (l : Launch) (t : Trace) (map : List Byte) : List Nat :=
  closure l.blocks l.gang l.prepared (l.blocks + 1) (t.mustRun l.blocks (t.dirty map l.param))

/-- The trace when its chosen blocks are recorded afresh, with the new PARAM (R363). -/
def Trace.rerun (t : Trace) (set : List Nat) (param : Nat) : Trace :=
  let recs := t.recs.map fun r => if set.contains r.blk then TraceRec.empty r.blk else r
  let recorded := t.recorded.map fun r => (r.1, param, r.2.2.1, r.2.2.2)
  { t with recs := recs, lostRun := t.lost, recorded := recorded }

/-- The chosen blocks enter their queue (R363, R365). -/
def State.rerunBlocks (s : State) (l : Launch) (t : Trace) (set : List Nat) : State :=
  let recs := l.prepared.filter fun r => set.contains r.blk
  let old := set.map fun b => (b, (t.record b).wovf, (t.record b).writes)
  let s1 := s.onTrace l.trace fun t => t.rerun set l.param
  let s2 := ((s1.watchParam t l.param).storeRecords l.trace set).onLaunch l.num fun l =>
    { l with chosen := some set, left := set, oldW := old, redone := set }
  recs.foldl (fun s r => s.enterRecord l.prio (r.withPred (occurrences recs r.blk))) s2

/-- RELAUNCH_RUN (R362 to R365): the dirty bits are consumed, the blocks chosen, and their records entered. -/
def execRelaunchRun (id : Nat) (s : State) : Out :=
  match s.launch id with
  | none => .next s
  | some l =>
    if !s.relaunchReady l then .next s
    else match s.trace l.trace with
      | none => .next (s.onLaunch id fun l => { l with chosen := some [] })
      | some t0 =>
        let r := s.consume t0
        let t := (r.2.trace l.trace).getD t0
        .next (r.2.rerunBlocks l t (l.choose t r.1))

/-! ## The stale map (R366, R367) -/

/-- The tiles of runs. -/
def runTiles (runs : List (Nat × Nat)) : List Nat := runs.flatMap fun r => (List.range r.2).map fun k => r.1 + k

/-- A tile put into a list of stale tiles with the lowest block that dropped it. -/
def addStale (l : List (Nat × Nat)) (tile blk : Nat) : List (Nat × Nat) :=
  match lookup l tile with
  | some b => l.map fun e => if e.1 = tile then (tile, min b blk) else e
  | none => insertBy (fun (e : Nat × Nat) => e.1) (tile, blk) l

/-- Consecutive tiles of one block joined to ranges: first tile, count, block. -/
def staleRanges : List (Nat × Nat) → List (Nat × Nat × Nat)
  | [] => []
  | e :: l => match staleRanges l with
    | r :: m => if r.1 = e.1 + 1 ∧ r.2.2 = e.2 then (e.1, r.2.1 + 1, e.2) :: m else (e.1, 1, e.2) :: r :: m
    | [] => [(e.1, 1, e.2)]

/-- UpdateStale (R366). -/
def Trace.updateStale (t : Trace) (oldW : List (Nat × Bool × List (Nat × Nat))) : List (Nat × Nat × Nat) :=
  let new := (t.recs.filter fun r => r.valid).flatMap fun r => r.writes
  let kept := (t.stale.filter fun e => decide (0 < e.2.1)).flatMap fun e =>
    (List.range e.2.1).map fun k => (e.1 + k, e.2.2)
  let dropped := oldW.flatMap fun e =>
    ((runTiles e.2.2).filter fun x => !runsMeet (t.record e.1).writes [x]).map fun x => (x, e.1)
  let tiles := (dropped.foldl (fun l e => addStale l e.1 e.2) kept).filter fun e => !runsMeet new [e.1]
  let marks := t.stale.filter fun e => decide (e.2.1 = 0)
  let more := (oldW.filter fun e => e.2.1 && !(marks.any fun m => decide (m.2.2 = e.1))).map fun e =>
    ((e.2.2.map fun r => r.1).headD 0, 0, e.1)
  sortBy (fun (e : Nat × Nat × Nat) => e.1) (marks ++ more ++ staleRanges tiles)

/-- The bytes of the stale map (R366). -/
def staleBytes (stale : List (Nat × Nat × Nat)) (pend lost : Bool) (rerun : Nat) : List Byte :=
  let w (n : Nat) : List Byte := toBytes n 4
  let many := decide (4096 < stale.length)
  let entries := (stale.take 4096).flatMap fun e => toBytes (16384 * e.1) 8 ++ w e.2.1 ++ w e.2.2
  w (min stale.length 4096) ++ w (b2n many + 2 * b2n pend + 4 * b2n lost) ++ w rerun ++ zeroBytes 52 ++ entries

/-- Is the end of a relaunch's blocks reached? -/
def State.relaunchDone (s : State) (l : Launch) : Bool := l.relaunch && s.launchDone l

/-- RELAUNCH_COMPLETE (R363, R366, R367): the stale set and its map, and the completion. -/
def execRelaunchComplete (id : Nat) (s : State) : Out :=
  match s.launch id with
  | none => .next s
  | some l =>
    if !s.relaunchDone l then .next s
    else match s.trace l.trace with
      | none => .next (s.endLaunch l)
      | some t =>
        let stale := t.updateStale l.oldW
        let pend := (((s.bitmap t).getD []).any fun b => !decide (b = 0#8))
        let bytes := staleBytes stale pend t.lostRun (l.chosen.getD []).length
        let s1 := s.onTrace l.trace fun t => { t with stale := stale, lost := false }
        .next ((s1.writeTrace l.trace t.asid (t.bmap + t.bitmapBytes) bytes).endLaunch l)

end Sys2Proof.Machine
end

