-- ==== Sys2Proof/Machine/Registers.lean ====
section
/-! DEFINITION. The registers of the die controllers' control windows, and what writes to them do (R11, R12, R223, R224, R236,
R237, R239, R287, R288, R331 to R335, R340, R342, R347, R349, R354, R355, R360). -/

namespace Sys2Proof.Machine

/-! ## The block of a core (R239) -/

/-- A write to the registers of a core that exists. -/
def onCoreBlock (core : Nat) (s : State) (f : Core → Core) : Out :=
  ofCore core <| .next (s.onCore core f)

/-- CORE_RESUME (R236, R239): a held core resumes in the cycle after, or after the accesses that R255 names. -/
def execCoreResume (core : Nat) (s : State) : Out :=
  onCoreBlock core s fun c => if c.act.held then { c with resumeAt := some (s.cycle + 1) } else c

/-- CWIN_WRITE (R40, R224): only while the core is held or runs no task, and with BASE + LEN at most 2,048. -/
def execCwinWrite (core : Nat) (w : Word) (s : State) : Out :=
  onCoreBlock core s fun c =>
    let v := w &&& 0x0FFF07FF#32
    if (c.act.held || c.act.task.isNone) && decide (field v.toNat 0 11 + field v.toNat 16 12 ≤ 2048) then
      { c with act := { c.act with codeWin := v } }
    else c

/-- CPART_WRITE (R12, R31, R239): what no field occupies is ignored. -/
def execCpartWrite (core : Nat) (w : Word) (s : State) : Out :=
  onCoreBlock core s fun c =>
    let v := w &&& 0xFFFF0000#32
    if c.act.task.isNone && c.shadow.task.isNone && partitionOk v.toNat then { c with act := { c.act with partition := v } }
    else c

/-- CFSTAT_WRITE (R40, R239): each field by its access. -/
def execCfstatWrite (core : Nat) (n : BitVec 3) (w : Word) (s : State) : Out :=
  onCoreBlock core s fun c => if c.act.held then { c with act := c.act.writeFstat n.toNat w } else c

/-- The pool address that SPADR names, when SPDAT reaches it (R239). -/
def Core.spAddr (c : Core) : Option Nat :=
  let a := c.spadr.toNat / 4 * 4
  if c.act.held && c.act.inWindow a 4 then some (c.act.poolAddr a) else none

/-- An SPDAT access is served by the direct port, or by the window it has waited for (R34, R239, R252). -/
def Core.seekWord (c : Core) (cycle p : Nat) (write : Option Word) : Bool × Core := c.seek cycle (.spdat (rowOf p) write) false

/-- The step is tried again in the next cycle. -/
def State.later (s : State) (i : Instr) : State := { s with inputs := (s.cycle + 1, i) :: s.inputs }

/-- SPDAT_READ (R239): the word as its row stands when it is served; zero where SPDAT reaches nothing. -/
def execSpdatRead (core : Nat) (s : State) : Out :=
  if 512 ≤ core then .fault (.absent core)
  else
    let c := s.core core
    match c.spAddr with
    | none => .next { s with answer := some ⟨true, zeroBytes 4⟩ }
    | some p =>
      let r := c.seekWord s.cycle p none
      if r.1 then .next { (s.setCore core r.2) with answer := some ⟨true, Memory.bytes c.pool p 4⟩ }
      else .next ((s.setCore core r.2).later (.spdatRead core))

/-- SPDAT_WRITE (R239): never gated, never undone. -/
def execSpdatWrite (core : Nat) (w : Word) (s : State) : Out :=
  if 512 ≤ core then .fault (.absent core)
  else
    let c := s.core core
    match c.spAddr with
    | none => .next s
    | some p =>
      let r := c.seekWord s.cycle p (some w)
      if r.1 then .next (s.setCore core (r.2.deliver 22 s.cycle (wordCells p w)))
      else .next ((s.setCore core r.2).later (.spdatWrite core w))

/-! ## The distributor's registers (R287, R288, R360) -/

/-- TICKLEN_WRITE (R287, R288): from the next advance of TICK on; 0 is ignored. -/
def execTicklenWrite (w : Word) (s : State) : Out :=
  let n := field w.toNat 0 24
  .next (if n = 0 then s else s.onDist fun d => { d with ticklen := n })

/-- SLIP_LOG_POP (R288): a write to SLIPSTAT with [0] = 1 and OVF clear. -/
def execSlipLogPop (s : State) : Out := .next (s.onDist fun d => { d with slips := d.slips.drop 1 })

/-- TRSBASE_WRITE (R360): ignored while any trace is live. -/
def execTrsbaseWrite (w : Word) (s : State) : Out :=
  .next (if s.dist.traces.isEmpty then s.onDist fun d => { d with trsbase := field w.toNat 0 8 } else s)

/-! ## Invalidation and splintering (R331, R333, R334, R354) -/

/-- The first virtual address of TLBVA. -/
def Die.tlbVa (d : Die) : Nat := d.tlbva0.toNat / 65536 * 65536 + 2 ^ 32 * (d.tlbva1.toNat % 2 ^ 20)

/-- Does a virtual range meet the range of an invalidation? -/
def Inval.meets (v : Inval) (asid va n : Nat) : Bool :=
  decide (asid = v.asid) && (v.all || (decide (va < v.va + 65536 * v.units) && decide (v.va < va + n)))

/-- The tiles that a trace watches, by bit number (R352, R362). -/
def Trace.watched (t : Trace) : List (Nat × Nat) :=
  (List.range t.tileCount).filterMap (fun b => (tileOfBit t.windows b).map fun k => (b, k)) ++
    t.paramTile.map fun k => (t.tileCount, k)

/-- Those that an invalidation covers. -/
def Inval.covers (v : Inval) (t : Trace) : List (Nat × Nat) := t.watched.filter fun e => v.meets t.asid (16384 * e.2) 16384

/-- The bits of the watched tiles that an invalidation covers are set (R354). -/
def State.markWindows (s : State) (v : Inval) : State :=
  s.dist.traces.foldl (fun s t => (v.covers t).foldl (fun s e => s.setDirty t e.1) s) s

/-- The writes now on their way. -/
def State.flying (s : State) : List Nat :=
  (s.dies.map fun (e : Nat × Die) => e.2.incoming.map fun w => w.id).flatten ++ s.reps.map fun w => w.id

/-- The scans that are running: core, command, scan (R332). -/
def State.runningScans (s : State) : List (Nat × FacetCmd × Scan) :=
  s.cores.flatMap fun e =>
    let c : Core := e.2
    let sel := match c.facet.sel with
      | some z => if z.unitsLeft.isEmpty then [] else (z.scan.map fun n => (e.1, z.cmd, n)).toList
      | none => []
    let ssq := match c.ssq with
      | some w => if w.units.isEmpty then [] else (w.scan.map fun n => (e.1, w.cmd, n)).toList
      | none => []
    sel ++ ssq

/-- The identity of a scan. -/
def scanId (e : Nat × FacetCmd × Scan) : Nat × Nat × Bool × Nat := (e.1, e.2.1.counter, e.2.1.cid, e.2.1.num)

/-- The scans that hold a translation in the range of an invalidation (R331). -/
def State.scansThrough (s : State) (v : Inval) : List (Nat × Nat × Bool × Nat) :=
  (s.runningScans.filter fun e => v.meets e.2.1.asid e.2.1.spill (64 + 32 * e.2.2.cap)).map scanId

/-- An invalidation begins: no TLB and no walk cache of the package holds an entry of the range from here on (R331). -/
def State.beginInval (s : State) (die : Nat) (v : Inval) : State :=
  let size (e : TableEntry) : Nat := 2 ^ levelBits e.level
  let drop (d : Die) : Die := { d with
    tlbs := d.tlbs.filter fun e => !v.meets e.asid e.va (2 ^ e.leaf.bits)
    tables := d.tables.filter fun e => !v.meets e.asid (e.part * size e) (size e) }
  let s1 : State := { s with dies := s.dies.map fun (e : Nat × Die) => (e.1, drop e.2) }
  (s1.markWindows v).onDie die fun d => { d with inval := some { v with scans := s1.scansThrough v } }

/-- TLB_INVALIDATE (R331, R334): TLBN units from TLBVA. -/
def execTlbInvalidate (die : Nat) (s : State) : Out :=
  if 16 ≤ die then .fault (.absent die)
  else
    let d := s.die die
    if d.inval.isSome then .next s
    else .next (s.beginInval die ⟨d.tlbAsid, false, d.tlbVa, d.tlbn.toNat, s.flying, []⟩)

/-- TLB_INVALIDATE_ASID (R334). -/
def execTlbInvalidateAsid (die : Nat) (s : State) : Out :=
  if 16 ≤ die then .fault (.absent die)
  else
    let d := s.die die
    if d.inval.isSome then .next s
    else .next (s.beginInval die ⟨d.tlbAsid, true, 0, 0, s.flying, []⟩)

/-- The physical address of the entry for an address at a level, by the tables (R327). -/
def State.entryAddr (s : State) (die va : Nat) : Nat → Nat → Nat → Nat
  | table, level, 0 => table + 8 * levelIndex va level
  | table, level, n + 1 =>
    let e := s.entryAt die (table + 8 * levelIndex va level)
    State.entryAddr s die va (field e 8 32 * 256) (level - 1) n

/-- ERR set (R333). -/
def State.splinterError (s : State) (die : Nat) : State := s.onDie die fun d => { d with tlbErr := true }

/-- The entries of the finer table (R333): the large leaf's fields, with PA advanced. -/
def splinterTable (e level : Nat) : List Byte :=
  let n := if level = 2 then 512 else 32
  (List.range n).flatMap fun k => toBytes (e + k * 2 ^ levelBits (level - 1)) 8

/-- SPLINTER (R333, R334). -/
def execSplinter (die : Nat) (s : State) : Out :=
  if 16 ≤ die then .fault (.absent die)
  else
    let d := s.die die
    let va := d.tlbVa
    let tab := d.tlbtab.toNat * 256
    if d.inval.isSome then .next s
    else match s.walk die noEngine d.tlbAsid va with
      | .bad _ _ => .next (s.splinterError die)
      | .leaf l level =>
        if level ≠ 2 ∧ level ≠ 1 then .next (s.splinterError die)
        else if tab % (if level = 2 then 4096 else 256) ≠ 0 then .next (s.splinterError die)
        else
          let at_ := s.entryAddr die va (Store.get 0 s.roots d.tlbAsid) 3 (3 - level)
          let table := splinterTable (s.entryAt die at_) level
          let s1 := (s.filterWrite tab table.length).pokeHbm tab table
          let s2 := (s1.filterWrite at_ 8).pokeHbm at_ (toBytes (1 + tab) 8)
          .next (s2.beginInval die ⟨d.tlbAsid, false, va - va % 2 ^ l.bits, 2 ^ l.bits / 65536, s.flying, []⟩)

/-- Do spill accesses of a core translated through the range remain? -/
def Core.spillsThrough (c : Core) (v : Inval) : Bool :=
  c.facet.requests.any fun r =>
    let asid := match (c.ctx r.cid).task with
      | some t => t.asid
      | none => v.asid
    v.meets asid r.va 256

/-- Do spill accesses translated through the range remain (R331)? -/
def State.spillsThrough (s : State) (v : Inval) : Bool := s.cores.any fun e => e.2.spillsThrough v

/-- Is an invalidation over (R331): the writes and spill accesses through its range have been made, and the scans that hold a
translation into it have ended? -/
def State.invalDone (s : State) (v : Inval) : Bool :=
  (v.waitFor.all fun id => s.visible id) && !s.spillsThrough v &&
  !(s.runningScans.any fun e => v.scans.contains (scanId e))

/-- A trace's pages in the range, its parameter tile's among them, are translated again (R354, R362). -/
def State.rewatch (s : State) (v : Inval) : State :=
  s.dist.traces.foldl (fun s t =>
    (v.covers t).foldl (fun s e =>
      let others (t : Trace) : List (Nat × Nat) := t.watch.filter fun w => !decide (w.2 = e.1)
      match s.watchTile t.asid (16384 * e.2) with
      | some p => s.onTrace t.handle fun t => { t with watch := others t ++ [(p, e.1)] }
      | none => s.onTrace t.handle fun t => { t with watch := others t, lost := true }) s) s

/-- INVALIDATION_COMPLETE (R331, R354). -/
def execInvalidationComplete (die : Nat) (s : State) : Out :=
  if 16 ≤ die then .fault (.absent die)
  else match (s.die die).inval with
    | none => .next s
    | some v => .next (if s.invalDone v then (s.onDie die fun d => { d with inval := none }).rewatch v else s)

/-! ## Page faults (R335) -/

/-- The operation whose fault holds a tag. -/
def State.tagged (s : State) (die tag : Nat) : Option CopyOp := (lookup (s.die die).tags tag).bind s.op

/-- A tag is free again. -/
def State.freeTag (s : State) (die tag : Nat) : State :=
  s.onDie die fun d => { d with tags := d.tags.filter fun e => !decide (e.1 = tag) }

/-- FAULT_RETRY (R335): the engine walks afresh from the failing row. -/
def execFaultRetry (die : Nat) (tag : BitVec 6) (s : State) : Out :=
  if 16 ≤ die then .fault (.absent die)
  else match s.tagged die tag.toNat with
    | none => .next s
    | some o => match o.stage with
      | .faulted _ need _ _ =>
        .next ((s.freeTag die tag.toNat).takeWalker o need)
      | _ => .next s

/-- The message of an operation that no mailbox will accept is gone. -/
def State.recallMessage (s : State) (o : CopyOp) : State :=
  s.onDist fun d => { d with mailboxes := d.mailboxes.map fun e => (e.1, e.2.map fun m =>
    { m with waiting := m.waiting.filter fun w => !decide (w.op = some o.id) }) }

/-- FAULT_REFUSE (R335): the operation completes with STATUS 1. -/
def execFaultRefuse (die : Nat) (tag : BitVec 6) (s : State) : Out :=
  if 16 ≤ die then .fault (.absent die)
  else match s.tagged die tag.toNat with
    | none => .next s
    | some o => .next ((s.freeTag die tag.toNat |>.recallMessage o).opEnd o 1)

/-- FAULT_LOG_POP (R335): the oldest record goes; its tag stays pending. -/
def execFaultLogPop (die : Nat) (s : State) : Out :=
  if 16 ≤ die then .fault (.absent die) else .next (s.onDie die fun d => { d with faults := d.faults.drop 1 })

/-- FIRMWARE_MEMORY_WRITE (R355): device memory through a control window, past the watch filter. -/
def execFirmwareMemoryWrite (die addr : Nat) (bytes : List Byte) (s : State) : Out :=
  if 16 ≤ die then .fault (.absent die)
  else if 2 ^ 40 < addr + bytes.length then .fault (.absent addr)
  else .next ((s.filterWrite addr bytes.length).pokeHbm addr bytes)

/-! ## Writes by offset (R11, R288, R334, R335, R340, R342, R349) -/

/-- A write to TLBCTL (R334): ignored while a command runs; ERR is W1C; OP starts a command. -/
def State.writeTlbctl (s : State) (die : Nat) (w : Word) : State :=
  if (s.die die).inval.isSome then s
  else
    let s1 := s.onDie die fun d => { d with
      tlbAsid := field w.toNat 2 12, tlbOp := field w.toNat 0 2, tlbErr := d.tlbErr && !w.getLsbD 30 }
    match field w.toNat 0 2 with
    | 1 => stateOf s1 (execTlbInvalidate die s1)
    | 2 => stateOf s1 (execSplinter die s1)
    | 3 => stateOf s1 (execTlbInvalidateAsid die s1)
    | _ => s1

/-- A write to FLTSTAT (R335): TLOST is W1C, but set where this cycle has set it (R11), and [0] = 1 pops. -/
def State.writeFltstat (s : State) (die : Nat) (w : Word) : State :=
  let s1 := s.onDie die fun d => { d with tlost := d.tlost && (!w.getLsbD 7 || s.setNow.contains (8 + die)) }
  if w.getLsbD 0 then stateOf s1 (execFaultLogPop die s1) else s1

/-- A write to FLTACT (R335): ignored when it names a tag that is not pending; ACT 0 retries, 1 refuses. -/
def State.writeFltact (s : State) (die : Nat) (w : Word) : State :=
  let tag := BitVec.ofNat 6 w.toNat
  if (s.tagged die tag.toNat).isNone then s
  else
    let s1 := s.onDie die fun d => { d with fltact := w &&& 0x33F#32 }
    match field w.toNat 8 2 with
    | 0 => stateOf s1 (execFaultRetry die tag s1)
    | 1 => stateOf s1 (execFaultRefuse die tag s1)
    | _ => s1

/-- A write to SLIPSTAT (R288): OVF is W1C, but set where this cycle has set it (R11), and [0] = 1 with OVF clear pops. -/
def State.writeSlipstat (s : State) (w : Word) : State :=
  if w.getLsbD 31 then s.onDist fun d => { d with slipOvf := d.slipOvf && s.setNow.contains 4 }
  else if w.getLsbD 0 then stateOf s (execSlipLogPop s) else s

/-- The bits of HSTAT that this cycle has set (R11). -/
def State.hstatNow (s : State) : Word :=
  (s.setNow.filter fun k => decide (k < 4)).foldl (fun (m : Word) k => m ||| BitVec.ofNat 32 (2 ^ k)) 0#32

/-- A write to a register of the lead die's controller that other dies do not have. -/
def State.writeLead (s : State) (off : Nat) (w : Word) : State :=
  if off = 0 then stateOf s (execTicklenWrite w s)
  else if off = 4 then s.onDist fun d => { d with framelen := field w.toNat 0 16 }
  else if 0x10 ≤ off ∧ off ≤ 0x18 then
    s.onDist fun d => { d with runmax := Store.set 0 d.runmax ((off - 0x10) / 4) (2 ^ 32 - 1 - w.toNat) }
  else if 0x20 ≤ off ∧ off ≤ 0x5C then
    s.onDist fun d => { d with qlevel := Store.set 0#32 d.qlevel ((off - 0x20) / 4) w }
  else if off = 0x60 then s.writeSlipstat w
  else if off = 0x200 then { s with hwbase := w &&& 0xFFFF#32, setNow := s.setNow ++ [5] }
  else if off = 0x204 then { s with hasid := w &&& 0xFFF#32, setNow := s.setNow ++ [5] }
  else if off = 0x208 then { s with hstat := s.hstat &&& (~~~w ||| s.hstatNow) }
  else if off = 0x500 then stateOf s (execTrsbaseWrite w s)
  else s

/-- A write to the block of a core (R239). -/
def State.writeBlock (s : State) (core off : Nat) (w : Word) : State :=
  if off = 0x10 then match field w.toNat 0 2 with
    | 1 => stateOf s (execCoreResume core s)
    | 2 => stateOf s (execTaskKill core s)
    | _ => s
  else if off = 0x14 then stateOf s (execCwinWrite core w s)
  else if off = 0x18 then stateOf s (execCpartWrite core w s)
  else if 0x20 ≤ off ∧ off ≤ 0x3C then stateOf s (execCfstatWrite core (BitVec.ofNat 3 ((off - 0x20) / 4)) w s)
  else if off = 0x40 then s.onCore core fun c => { c with spadr := w &&& 0xFFFFFFFC#32 }
  else if off = 0x44 then stateOf s (execSpdatWrite core w s)
  else s

/-- A write to a register of any die's controller; a read-only register and an unassigned offset ignore it (R11, R12). -/
def State.writeRegister (s : State) (die off : Nat) (w : Word) : State :=
  if off % 4 ≠ 0 then s
  else if off = 0x100 then s.onDie die fun d => { d with tlbva0 := w &&& 0xFFFF0000#32 }
  else if off = 0x104 then s.onDie die fun d => { d with tlbva1 := w &&& 0x000FFFFF#32 }
  else if off = 0x108 then s.onDie die fun d => { d with tlbn := w &&& 0x01FFFFFF#32 }
  else if off = 0x10C then s.onDie die fun d => { d with tlbtab := w }
  else if off = 0x110 then s.writeTlbctl die w
  else if off = 0x120 then s.writeFltstat die w
  else if off = 0x134 then s.writeFltact die w
  else if off = 0x400 then s.onDie die fun d => { d with pwrcap := min (field w.toNat 0 12) 3200 }
  else if off = 0x404 then s.onDie die fun d => { d with diecap := min (field w.toNat 0 8) 150 }
  else if off = 0x408 then s.onDie die fun d => { d with tcap := min (field w.toNat 0 7) 105 }
  else if 0x10000 ≤ off ∧ off < 0x12000 then s.writeBlock (32 * die + (off - 0x10000) / 0x100) (off % 0x100) w
  else if die = 0 then s.writeLead off w
  else s

/-! ## Reads (R237, R239, R288, R306, R334, R335, R342, R347, R349, R360) -/

/-- A number as a register's word. -/
def w32 (n : Nat) : Word := BitVec.ofNat 32 n

/-- The trap record and the other registers of a core's block (R237, R239). -/
def Core.readBlock (c : Core) (off : Nat) : Word :=
  if off = 0 then c.trap0
  else if off = 4 then c.trap1
  else if off = 8 then w32 (b2n c.act.held * 2 ^ 31 + b2n c.trapPost * 2 ^ 30 + c.mpc % 2 ^ 15)
  else if off = 0xC then w32 c.trapCount
  else if off = 0x14 then c.act.codeWin
  else if off = 0x18 then c.act.partition
  else if 0x20 ≤ off ∧ off ≤ 0x3C then c.act.fstatOf ((off - 0x20) / 4)
  else if off = 0x40 then c.spadr
  else if off = 0x48 then w32 (b2n c.act.held + 2 * b2n c.act.task.isSome)
  else 0#32

/-- The lead die's registers. -/
def State.readLead (s : State) (off : Nat) : Word :=
  let d := s.dist
  let slip : Slip := d.slips.headD ⟨0, 0, 0, 0⟩
  if off = 0 then w32 d.ticklen
  else if off = 4 then w32 d.framelen
  else if off = 8 then w32 d.tick
  else if off = 0xC then w32 (d.tick / 2 ^ 32)
  else if 0x10 ≤ off ∧ off ≤ 0x18 then w32 (2 ^ 32 - 1 - Store.get 0 d.runmax ((off - 0x10) / 4))
  else if 0x20 ≤ off ∧ off ≤ 0x5C then
    w32 (((List.range 16).map fun k => d.queueLevel (4 * (off - 0x20) + k) * 4 ^ k).sum)
  else if off = 0x60 then w32 (b2n d.slipOvf * 2 ^ 31 + d.slips.length)
  else if off = 0x64 then w32 slip.frame
  else if off = 0x68 then w32 slip.late
  else if off = 0x6C then w32 slip.launch
  else if off = 0x70 then w32 slip.blk
  else if off = 0x200 then s.hwbase
  else if off = 0x204 then s.hasid
  else if off = 0x208 then s.hstat
  else if 0x340 ≤ off ∧ off ≤ 0x37C then Store.get 0#32 d.retmap ((off - 0x340) / 4)
  else if off = 0x500 then w32 d.trsbase
  else 0#32

/-- What a read of a control-window register returns; what no field occupies reads as zero (R12). SPDAT has a step of its
own. -/
def State.readRegister (s : State) (die off : Nat) : Word :=
  let d := s.die die
  let f : FaultRec := d.faults.headD ⟨0#32, 0#32, 0#32, 0#32⟩
  if off = 0x100 then d.tlbva0
  else if off = 0x104 then d.tlbva1
  else if off = 0x108 then d.tlbn
  else if off = 0x10C then d.tlbtab
  else if off = 0x110 then w32 (b2n d.inval.isSome * 2 ^ 31 + b2n d.tlbErr * 2 ^ 30 + d.tlbAsid * 4 + d.tlbOp)
  else if off = 0x120 then w32 (b2n d.tlost * 128 + d.faults.length)
  else if off = 0x124 then f.flt0
  else if off = 0x128 then f.flt1
  else if off = 0x12C then f.flt2
  else if off = 0x130 then f.flt3
  else if off = 0x134 then d.fltact
  else if off = 0x300 then w32 (d.stage * 2 ^ 28 + b2n d.fail * 2 ^ 27)
  else if off = 0x400 then w32 d.pwrcap
  else if off = 0x404 then w32 d.diecap
  else if off = 0x408 then w32 d.tcap
  else if off = 0x40C then w32 d.temp
  else if off = 0x410 then w32 d.power
  else if off = 0x414 then w32 d.stops
  else if off = 0x418 then w32 d.eccc
  else if off = 0x600 then w32 d.wtfull
  else if 0x10000 ≤ off ∧ off < 0x12000 then (s.core (32 * die + (off - 0x10000) / 0x100)).readBlock (off % 0x100)
  else if die = 0 then s.readLead off
  else 0#32

end Sys2Proof.Machine
end

