-- ==== Sys2Proof/Machine/HostAccess.lean ====
section
/-! DEFINITION. The writes of control-window registers by who makes them, and the host's accesses (R11, R12, R325, R326, R340
to R343, R347, R349). -/

namespace Sys2Proof.Machine

/-! ## Registers (R11, R12, R326, R340, R349) -/

/-- A host write of a control-window register (R340): it reaches what firmware has opened; any other sets CW. -/
def State.hostRegister (s : State) (die off : Nat) (w : Word) : State :=
  if (s.die die).opened.contains off then s.writeRegister die off w else s.hostBit 0

/-- What a sensor of a die reads, in the register that reports it (R349). -/
def State.sense (s : State) (die off : Nat) (w : Word) : State :=
  if off = 0x40C then s.onDie die fun d => { d with temp := w.toNat % 128 }
  else if off = 0x410 then s.onDie die fun d => { d with power := w.toNat % 256 }
  else s

/-- Firmware's root of an address space (R326), in units of the 256 bytes to which a table is aligned (R327). -/
def State.setRoot (s : State) (asid : Nat) (w : Word) : State :=
  if asid < 4096 then { s with roots := Store.set 0 s.roots asid (256 * w.toNat) } else s

/-- The end of an image that is in memory at an address of an address space (R125): the header gives none (log 58). -/
def State.setImage (s : State) (key : Nat) (w : Word) : State :=
  { s with images := Store.set none s.images key (if w = 0#32 then none else some w.toNat) }

/-- The core of a die whose block of registers holds an offset (R239). -/
def blockCore (die off : Nat) : Option Nat :=
  if 0x10000 ≤ off ∧ off < 0x12000 then some (32 * die + (off - 0x10000) / 0x100) else none

/-- What firmware does with a context of the core whose block holds an offset (R244). -/
def State.onBlock (s : State) (die off : Nat) (f : Nat → State) : State := match blockCore die off with
  | some core => f core
  | none => s

/-- REGISTER_WRITE (R11, R12, R244, R326, R340, R349): by firmware, or by the host in its turn (R343); or firmware opens a register
to the host, closes it, or sets a root; or an image gets its end; or a sensor reads; or firmware saves or restores a context. -/
def execRegisterWrite (actor : Actor) (die off : Nat) (w : Word) (s : State) : Out :=
  if 16 ≤ die then .fault (.absent die)
  else .next (match actor with
    | .firmware => s.writeRegister die off w
    | .host =>
      if s.hostDown then s
      else s.hostTurn (.registerWrite .host die off w) s.postedReady fun s => s.hostRegister die off w
    | .opens => s.onDie die fun d => if d.opened.contains off then d else { d with opened := d.opened ++ [off] }
    | .closes => s.onDie die fun d => { d with opened := d.opened.filter fun k => !decide (k = off) }
    | .root => s.setRoot off w
    | .image => s.setImage off w
    | .sensor => s.sense die off w
    | .saves => s.onBlock die off fun core => s.saveContext core w
    | .restores => s.onBlock die off fun core => s.restoreContext core w)

/-! ## The host's accesses (R340 to R343, R347) -/

/-- A word of the control window at a BAR0 offset: die and offset within its window (R340). -/
def controlPlace (off : Nat) : Nat × Nat := (off / 2 ^ 22 % 16, off % 2 ^ 22)

/-- A host write of BAR0 (R340): one aligned word is a register's write; any other extent reaches none. -/
def State.controlWrite (s : State) (off : Nat) (bytes : List Byte) : State :=
  let e := controlPlace off
  if off < 2 ^ 26 ∧ off % 4 = 0 ∧ bytes.length = 4 then s.hostRegister e.1 e.2 (BitVec.ofNat 32 (ofBytes bytes)) else s.hostBit 0

/-- HOST_MEMORY_WRITE (R325, R340 to R343, R347): a posted write in its turn, or the host's write of its own memory. -/
def execHostMemoryWrite (place : HostPlace) (bytes : List Byte) (s : State) : Out :=
  let off := place.off
  let turn := s.hostTurn (.hostMemoryWrite place bytes) s.postedReady
  match place.space with
  | .own => .next { s with host := Memory.writeBytes s.host off bytes }
  | .control => .next (if s.hostDown then s else turn fun s => s.controlWrite off bytes)
  | .window => .next (if s.hostOpen then turn fun s => s.hostWrite off bytes else s)
  | .mailbox => .next (if s.hostOpen then turn fun s => s.spaceWrite off bytes else s)

/-- The bytes of registers from a BAR0 offset (R340). -/
def State.controlBytes (s : State) (off n : Nat) : List Byte :=
  (List.range n).map fun k =>
    let e := controlPlace (off + k)
    ((toBytes (s.readRegister e.1 (e.2 - e.2 % 4)).toNat 4).drop (e.2 % 4)).headD 0#8

/-- A host read of BAR0: SPDAT by its own step, the others as they stand (R239, R340). -/
def State.controlRead (s : State) (off n : Nat) : State :=
  let e := controlPlace off
  if 0x10000 ≤ e.2 ∧ e.2 < 0x12000 ∧ e.2 % 0x100 = 0x44 then
    let core := 32 * e.1 + (e.2 - 0x10000) / 0x100
    stateOf s (execSpdatRead core s)
  else { s with answer := some ⟨true, s.controlBytes off n⟩ }

/-- May a read of the host that does not go through the window be served: every earlier posted write is visible (R343). -/
def State.readTurn (s : State) (place : HostPlace) (n : Nat) (ready : Bool) (body : State → State) : State :=
  s.hostTurn (.hostMemoryRead place n) ready body

/-- A read's answer of zeros. -/
def State.answerZero (s : State) (n : Nat) : State := { s with answer := some ⟨true, zeroBytes n⟩ }

/-- HOST_MEMORY_READ (R340 to R343, R347): before stage 6 the memory window and the mailbox space return zero. -/
def execHostMemoryRead (place : HostPlace) (n : Nat) (s : State) : Out :=
  let off := place.off
  match place.space with
  | .own => .next { s with answer := some ⟨true, Memory.bytes s.host off n⟩ }
  | .control => .next (if s.hostDown then s else s.readTurn place n s.hostSettled fun s => s.controlRead off n)
  | .mailbox => .next (if s.hostDown then s else if s.hostOpen then s.readTurn place n s.hostSettled fun s => s.answerZero n
      else s.answerZero n)
  | .window => .next (if s.hostDown then s else if s.hostOpen then
      s.readTurn place n (s.readReady off n) fun s => s.answerRead off n
      else s.answerZero n)

/-- Can the host access that has waited longest be served in this cycle? -/
def State.hostReady (s : State) : Option Instr :=
  match s.hostWait with
  | [] => none
  | i :: _ => match i with
    | .hostMessage _ _ | .hostMemoryWrite _ _ | .registerWrite _ _ _ _ => if s.postedReady then some i else none
    | .hostMemoryRead ⟨.window, off⟩ n => if s.readReady off n then some i else none
    | .hostMemoryRead _ _ => if s.hostSettled then some i else none
    | _ => none

end Sys2Proof.Machine
end

