-- ==== Sys2Proof/Machine/Scalar.lean ====
section
/-! DEFINITION. The scalar slots (R146 to R151). -/

namespace Sys2Proof.Machine

/-- A scalar operation (R146): with its guard true it reads its sources at issue and writes sD after its latency. -/
def scalarOp (g : SHead) (latency : Nat) (d : BitVec 6) (f : Regs → Word) (s : State) : Out :=
  .next (if g.holds s.act.regs then s.landS g.slotOf latency d.toNat (f s.act.regs) else s)

/-- A scalar operation on two scalar registers. -/
def scalarRR (g : SHead) (latency : Nat) (d a b : BitVec 6) (f : Word → Word → Word) (s : State) : Out :=
  scalarOp g latency d (fun r => f (r.readS a.toNat) (r.readS b.toNat)) s

/-- A scalar operation on a scalar register and a constant. -/
def scalarRI (g : SHead) (d a : BitVec 6) (k : Word) (f : Word → Word → Word) (s : State) : Out :=
  scalarOp g 1 d (fun r => f (r.readS a.toNat) k) s

/-- A scalar operation that writes a scalar predicate (R149, R150). -/
def scalarPred (g : SHead) (p : BitVec 3) (f : Regs → Bool) (s : State) : Out :=
  .next (if g.holds s.act.regs then s.landSp g.slotOf 1 p.toNat (f s.act.regs) else s)

/-- The high half of the signed product (R147). -/
def mulHigh (a b : Word) : Word := BitVec.ofInt 32 (a.toInt * b.toInt / 2 ^ 32)

/-- SHL by 0 to 63 (R148). -/
def shiftLeft (a : Word) (d : Nat) : Word := a <<< (d % 64)

/-- SHR by 0 to 63 (R148). -/
def shiftRight (a : Word) (d : Nat) : Word := a >>> (d % 64)

/-- SAR by 0 to 63 (R148). -/
def shiftArith (a : Word) (d : Nat) : Word := a.sshiftRight (d % 64)

/-- The signed minimum (R147). -/
def minSigned (a b : Word) : Word := if a.toInt ≤ b.toInt then a else b

/-- The signed maximum (R147). -/
def maxSigned (a b : Word) : Word := if a.toInt ≤ b.toInt then b else a

/-- The conditions of CMP and CMPI, in the order of R87 (R149). -/
def condition (c : Nat) (a b : Word) : Bool :=
  match c with
  | 0 => decide (a = b)
  | 1 => decide (a ≠ b)
  | 2 => decide (a.toInt < b.toInt)
  | 3 => decide (a.toInt ≤ b.toInt)
  | 4 => decide (b.toInt < a.toInt)
  | 5 => decide (b.toInt ≤ a.toInt)
  | 6 => decide (a.toNat < b.toNat)
  | _ => decide (b.toNat ≤ a.toNat)

/-- ADD (R147). -/
def execAdd (g : SHead) (d a b : BitVec 6) (s : State) : Out := scalarRR g 1 d a b (fun x y => x + y) s

/-- SUB (R147). -/
def execSub (g : SHead) (d a b : BitVec 6) (s : State) : Out := scalarRR g 1 d a b (fun x y => x - y) s

/-- MUL (R147): latency 3. -/
def execMul (g : SHead) (d a b : BitVec 6) (s : State) : Out := scalarRR g 3 d a b (fun x y => x * y) s

/-- MULH (R147): latency 3. -/
def execMulh (g : SHead) (d a b : BitVec 6) (s : State) : Out := scalarRR g 3 d a b mulHigh s

/-- AND (R147). -/
def execAnd (g : SHead) (d a b : BitVec 6) (s : State) : Out := scalarRR g 1 d a b (fun x y => x &&& y) s

/-- OR (R147). -/
def execOr (g : SHead) (d a b : BitVec 6) (s : State) : Out := scalarRR g 1 d a b (fun x y => x ||| y) s

/-- XOR (R147). -/
def execXor (g : SHead) (d a b : BitVec 6) (s : State) : Out := scalarRR g 1 d a b (fun x y => x ^^^ y) s

/-- ANDN (R147). -/
def execAndn (g : SHead) (d a b : BitVec 6) (s : State) : Out := scalarRR g 1 d a b (fun x y => x &&& ~~~ y) s

/-- SHL by a register: the amount is B[5:0] (R148). -/
def execShl (g : SHead) (d a b : BitVec 6) (s : State) : Out := scalarRR g 1 d a b (fun x y => shiftLeft x y.toNat) s

/-- SHL by an immediate (R148). -/
def execShlImm (g : SHead) (d a : BitVec 6) (k : BitVec 5) (s : State) : Out :=
  scalarRI g d a (k.zeroExtend 32) (fun x y => shiftLeft x y.toNat) s

/-- SHR by a register (R148). -/
def execShr (g : SHead) (d a b : BitVec 6) (s : State) : Out := scalarRR g 1 d a b (fun x y => shiftRight x y.toNat) s

/-- SHR by an immediate (R148). -/
def execShrImm (g : SHead) (d a : BitVec 6) (k : BitVec 5) (s : State) : Out :=
  scalarRI g d a (k.zeroExtend 32) (fun x y => shiftRight x y.toNat) s

/-- SAR by a register (R148). -/
def execSar (g : SHead) (d a b : BitVec 6) (s : State) : Out := scalarRR g 1 d a b (fun x y => shiftArith x y.toNat) s

/-- SAR by an immediate (R148). -/
def execSarImm (g : SHead) (d a : BitVec 6) (k : BitVec 5) (s : State) : Out :=
  scalarRI g d a (k.zeroExtend 32) (fun x y => shiftArith x y.toNat) s

/-- MIN (R147). -/
def execMin (g : SHead) (d a b : BitVec 6) (s : State) : Out := scalarRR g 1 d a b minSigned s

/-- MAX (R147). -/
def execMax (g : SHead) (d a b : BitVec 6) (s : State) : Out := scalarRR g 1 d a b maxSigned s

/-- SEL (R150). -/
def execSel (g : SHead) (d a : BitVec 6) (p : BitVec 3) (b : BitVec 6) (s : State) : Out :=
  scalarOp g 1 d (fun r => if r.readSp p.toNat then r.readS a.toNat else r.readS b.toNat) s

/-- POPC (R147). -/
def execPopc (g : SHead) (d a : BitVec 6) (s : State) : Out :=
  scalarOp g 1 d (fun r => BitVec.ofNat 32 (popcount (r.readS a.toNat).toNat 32)) s

/-- CLZ (R147). -/
def execClz (g : SHead) (d a : BitVec 6) (s : State) : Out :=
  scalarOp g 1 d (fun r => BitVec.ofNat 32 (clz (r.readS a.toNat).toNat 32)) s

/-- ADDI: the immediate is sign-extended (R147). -/
def execAddi (g : SHead) (d a : BitVec 6) (i : BitVec 10) (s : State) : Out :=
  scalarRI g d a (i.signExtend 32) (fun x y => x + y) s

/-- ANDI: the immediate is zero-extended (R147). -/
def execAndi (g : SHead) (d a : BitVec 6) (i : BitVec 10) (s : State) : Out :=
  scalarRI g d a (i.zeroExtend 32) (fun x y => x &&& y) s

/-- ORI: the immediate is zero-extended (R147). -/
def execOri (g : SHead) (d a : BitVec 6) (i : BitVec 10) (s : State) : Out :=
  scalarRI g d a (i.zeroExtend 32) (fun x y => x ||| y) s

/-- XORI: the immediate is zero-extended (R147). -/
def execXori (g : SHead) (d a : BitVec 6) (i : BitVec 10) (s : State) : Out :=
  scalarRI g d a (i.zeroExtend 32) (fun x y => x ^^^ y) s

/-- MOVI (R150). -/
def execMovi (g : SHead) (d : BitVec 6) (i : BitVec 16) (s : State) : Out :=
  scalarOp g 1 d (fun _ => i.signExtend 32) s

/-- MOVHI: the low half of the destination, read at issue, is kept (R150). -/
def execMovhi (g : SHead) (d : BitVec 6) (i : BitVec 16) (s : State) : Out :=
  scalarOp g 1 d (fun r => (i.zeroExtend 32 <<< 16) ||| (r.readS d.toNat &&& 0xFFFF#32)) s

/-- MOVA (R150). -/
def execMova (g : SHead) (a : BitVec 4) (n : BitVec 6) (s : State) : Out :=
  .next (if g.holds s.act.regs then s.land g.slotOf (s.cycle + 1) (.a a.toNat (s.act.regs.readS n.toNat)) else s)

/-- MOVA.D: an entry of the address update table (R150). -/
def execMovaD (g : SHead) (a : BitVec 4) (n : BitVec 6) (l : BitVec 3) (s : State) : Out :=
  .next (if g.holds s.act.regs then
    s.land g.slotOf (s.cycle + 1) (.aut (6 * a.toNat + l.toNat) ((s.act.regs.readS n.toNat).truncate 24)) else s)

/-- MOVS (R150). -/
def execMovs (g : SHead) (d : BitVec 6) (a : BitVec 4) (s : State) : Out :=
  scalarOp g 1 d (fun r => r.readA a.toNat) s

/-- PSET (R150). -/
def execPset (g : SHead) (p : BitVec 3) (a : BitVec 6) (b : BitVec 5) (s : State) : Out :=
  scalarPred g p (fun r => (r.readS a.toNat).getLsbD b.toNat) s

/-- BEXT of the w + 1 bits at q (R151). -/
def execBext (g : SHead) (d a : BitVec 6) (q w : BitVec 5) (s : State) : Out :=
  scalarOp g 1 d (fun r => BitVec.ofNat 32 (field (r.readS a.toNat).toNat q.toNat (w.toNat + 1))) s

/-- The bits [q + w − 1 : q]. -/
def fieldMask (q w : Nat) : Word := BitVec.ofNat 32 ((2 ^ w - 1) * 2 ^ q)

/-- BINS of the w + 1 bits at q; the destination is read at issue (R151). -/
def execBins (g : SHead) (d a : BitVec 6) (q w : BitVec 5) (s : State) : Out :=
  scalarOp g 1 d (fun r =>
    let mk := fieldMask q.toNat (w.toNat + 1)
    (r.readS d.toNat &&& ~~~ mk) ||| ((r.readS a.toNat <<< q.toNat) &&& mk)) s

/-- CMP.cc (R149). -/
def execCmp (g : SHead) (c : BitVec 3) (p : BitVec 3) (a b : BitVec 6) (s : State) : Out :=
  scalarPred g p (fun r => condition c.toNat (r.readS a.toNat) (r.readS b.toNat)) s

/-- CMPI.cc: the immediate is sign-extended under every condition (R149). -/
def execCmpi (g : SHead) (c : BitVec 3) (p : BitVec 3) (a : BitVec 6) (i : BitVec 10) (s : State) : Out :=
  scalarPred g p (fun r => condition c.toNat (r.readS a.toNat) (i.signExtend 32)) s

end Sys2Proof.Machine
end

