-- ==== Sys2Proof/Machine/VectorFloat.lean ====
section
/-! DEFINITION. The floating-point vector instructions, conversion, slicing and packing (R160 to R166). -/

namespace Sys2Proof.Machine

/-! ## Arithmetic (R160 to R162) -/

/-- FADD (R161). -/
def execFadd (o : VOp) (s : State) : Out :=
  floatSlot o 4 6 false false (fun a b _ => fAdd o.type.toNat o.rnd.toNat a b) s

/-- FSUB (R161). -/
def execFsub (o : VOp) (s : State) : Out :=
  floatSlot o 4 6 false false (fun a b _ => fSub o.type.toNat o.rnd.toNat a b) s

/-- FMUL (R161). -/
def execFmul (o : VOp) (s : State) : Out :=
  floatSlot o 4 6 false false (fun a b _ => fMul o.type.toNat o.rnd.toNat a b) s

/-- FFMA: the destination is the addend (R161). -/
def execFfma (o : VOp) (s : State) : Out :=
  floatSlot o 4 6 false true (fun a b d => fFma o.type.toNat o.rnd.toNat a b d) s

/-- FMIN (R161). -/
def execFmin (o : VOp) (s : State) : Out :=
  floatSlot o 2 6 false false (fun a b _ => fMinMax o.type.toNat false a b) s

/-- FMAX (R161). -/
def execFmax (o : VOp) (s : State) : Out :=
  floatSlot o 2 6 false false (fun a b _ => fMinMax o.type.toNat true a b) s

/-- FCLASS (R161): for .f64 the mask goes to lane 2j. -/
def execFclass (o : VOp) (s : State) : Out :=
  floatSlot o 2 6 true false (fun a _ _ => (fClass o.type.toNat a, FFlags.none)) s

/-- FDIV (R162). -/
def execFdiv (o : VOp) (s : State) : Out :=
  floatSlot o 24 40 false false (fun a b _ => fDiv o.type.toNat o.rnd.toNat a b) s

/-- FSQRT (R162). -/
def execFsqrt (o : VOp) (s : State) : Out :=
  floatSlot o 24 40 true false (fun a _ _ => fSqrt o.type.toNat o.rnd.toNat a) s

/-- FRCP (R68, R162). -/
def execFrcp (o : VOp) (s : State) : Out := floatSlot o 12 12 true false (fun a _ _ => fRcp a) s

/-- FEXP2 (R68, R162). -/
def execFexp2 (o : VOp) (s : State) : Out := floatSlot o 12 12 true false (fun a _ _ => fExp2 a) s

/-- FLOG2 (R68, R162). -/
def execFlog2 (o : VOp) (s : State) : Out := floatSlot o 12 12 true false (fun a _ _ => fLog2 a) s

/-- FSIN (R68, R162). -/
def execFsin (o : VOp) (s : State) : Out := floatSlot o 12 12 true false (fun a _ _ => fSinCos false a) s

/-- FCOS (R68, R162). -/
def execFcos (o : VOp) (s : State) : Out := floatSlot o 12 12 true false (fun a _ _ => fSinCos true a) s

/-- FRND (R161). -/
def execFrnd (o : VOp) (s : State) : Out :=
  floatSlot o 4 6 true false (fun a _ _ => fRnd o.type.toNat o.rnd.toNat a) s

/-- The result of FCMP on each element of a cluster: the predicate bits by lane (bits 2j and 2j + 1 for .f64), and the
flags of the guarded elements. -/
def compareLanes (t c : Nat) (on : List Bool) (a b : List Word) : List Bool × FFlags :=
  let w := width t
  let l := ((elems w a).zip (elems w b)).map fun e => fCmp t c e.1 e.2
  (lanes16.map fun i => (l.getD (if w = 64 then i / 2 else i) (false, FFlags.none)).1,
   guardedFlags w on (l.map fun r => (0, r.2)))

/-- FCMP.cc (R161). -/
def execFcmp (c : BitVec 3) (o : VOp) (s : State) : Out :=
  let pair := decide (o.type = 10#4)
  fpuSlot o pair (namesOf o true true false) (fun s =>
    let due := s.cycle + if pair then 6 else 2
    let r := s.sources o false false
    let res := r.1.map fun e => (e.1, compareLanes o.type.toNat c.toNat (s.guardOf o pair e.1) e.2.1 e.2.2.1)
    let s1 := r.2.writePreds o.slotOf due o.dst.toNat (s.guardOf o pair) (res.map fun e => (e.1, e.2.1))
    if s.anyLane o pair then s1.landFlags o.slotOf due (res.map fun e => (e.1, e.2.2)) else s1) s

/-! ## CVT (R163) -/

/-- The elements of a unit converted: element k of the destination from element k of the source, 0 beyond it. -/
def convertUnit (ts td mode : Nat) (sat : Bool) (bits x : Nat) : Nat × FFlags :=
  let es := bits / width ts
  let ed := bits / width td
  (List.range ed).foldl (fun (m : Nat × FFlags) (k : Nat) =>
    if k < es then
      let r := convert ts td mode sat (field x (width ts * k) (width ts))
      (m.1 + r.1 * 2 ^ (width td * k), m.2.or r.2)
    else m) (0, FFlags.none)

/-- CVT: a unit is a lane pair when either type is .f64, and a lane otherwise. -/
def execCvt (o : VOp) (s : State) : Out :=
  let ts := o.type.toNat
  let td := o.src2.toNat
  let pair := decide (ts = 10) || decide (td = 10)
  let w := if pair then 64 else 32
  fpuSlot o pair (namesOf o true false true) (fun s =>
    let r := s.readField o.slotOf 22 o.src1.toNat (clustersOf o)
    let res := (clustersOf o).map fun cl =>
      (cl, (elems w (clLanes r.1 cl)).map fun x => convertUnit ts td o.rnd.toNat o.sat w x)
    r.2.writeFloat o (if pair then 6 else 4) pair (res.map fun e => (e.1, unelems w (e.2.map fun x => x.1)))
      (res.map fun e => (e.1, guardedFlags w (s.guardOf o pair e.1) e.2))) s

/-! ## Groups: DSPLIT, QPACK, QUNPACK (R62, R164 to R166) -/

/-- The results of a group operation: each register with its lanes by cluster, all lanes written; the bypass register
takes one of them, a free choice (log 7). -/
def State.writeGroup (s : State) (o : VOp) (regs : List (Nat × List (Nat × List Word))) (flags : List (Nat × FFlags)) :
    State :=
  let due := s.cycle + 6
  let all (_ : Nat) : List Bool := lanes16.map fun _ => true
  let s1 := regs.foldl (fun s r => s.land o.slotOf due (.v (destCells s.act.regs r.1 all r.2))) s
  let d := s1.draw
  let pick := (regs.getD (d.1 % regs.length) (0, [])).2
  (d.2.landBypass o.slotOf due (slotBypass o.slotOf) all pick).landFlags o.slotOf due flags

/-- floor(man × 2^k). -/
def scaled (man : Nat) (k : Int) : Nat := if 0 ≤ k then man * 2 ^ k.toNat else man / 2 ^ (-k).toNat

/-- Is a value special in SliceExp? -/
def Val.special (v : Val) : Bool := v.isNan || v.isInf

/-- SliceExp of a group (R62); none when it is SPECIAL. -/
def sliceExp (l : List Val) : Option Int :=
  if l.any Val.special then none
  else l.foldl (fun m v => match v with
    | .num _ man e => if man = 0 then m else match m with
      | some k => some (max k (1 + exponentOf man e))
      | none => none
    | _ => m) (if l.all Val.isZero then some 0 else some (-2000))

/-- Slice p of an element (R62), as a signed byte. -/
def sliceOf (e : Int) (p : Nat) (v : Val) : Byte :=
  match v with
  | .num n man x =>
    let m := scaled man (x - e + 7 * (p + 1)) % 128
    if n then BitVec.ofInt 8 (-(m : Int)) else BitVec.ofNat 8 m
  | _ => 0#8

/-- DSPLIT (R164). -/
def execDsplit (o : VOp) (s : State) : Out :=
  let d := o.dst.toNat
  fpuSlot o true [(o.src1.toNat, 22), (d, 32), (d + 1, 32)] (fun s =>
    withControl s o (controlOk (.dsplit o)) fun c s =>
      let n := 6 + c
      let vals := (clustersOf o).map fun cl =>
        (cl, (elems 64 (s.act.regs.readV cl o.src1.toNat)).map fun x => decodeVal 10 x)
      let e := sliceExp (vals.map fun v => v.2).flatten
      let slices := vals.map fun v => (v.1, unelems 8 (((List.range n).map fun p => v.2.map fun x =>
        match e with
        | some k => (sliceOf k p x).toNat
        | none => 0).flatten))
      let exps := vals.map fun v => (v.1, lanes16.map fun l =>
        if l = 0 then (match e with
          | some k => BitVec.ofNat 32 (wrapN k 16)
          | none => 0x7FFF#32) else 0#32)
      s.writeGroup o [(d, slices), (d + 1, exps)] (vals.map fun v => (v.1, snanFlags v.2))) s

/-- EMAX of a narrow format (R51). -/
def emaxOf (f : Nat) : Int := if f = 11 then 8 else if f = 12 then 2 else 1

/-- ScaleOf (R51). -/
def scaleOf (f : Nat) (l : List Val) : Nat :=
  if l.any Val.isNan then 0xFF
  else
    let top := l.foldl (fun (m : Option Int) v => match v with
      | .inf _ => some 127
      | .num _ man e => if man = 0 then m else match m with
        | some k => some (max k (exponentOf man e))
        | none => some (exponentOf man e)
      | _ => m) none
    match top with
    | none => 0
    | some k => (max 0 (min (k - emaxOf f + 127) 254)).toNat

/-- A value times 2^k. -/
def Val.scale (v : Val) (k : Int) : Val :=
  match v with
  | .num n m e => .num n m (e + k)
  | v => v

/-- The elements of four registers of a cluster: element 16n + l is lane l of v(A + n). -/
def group64 (r : Regs) (cl a : Nat) : List Nat :=
  ((List.range 4).map fun n => (r.readV cl (a + n)).map fun x => x.toNat).flatten

/-- QPACK of one cluster's group: the codes, the scale, the flags (R165). -/
def packGroup (f mode : Nat) (ns : Bool) (l : List Val) : List Nat × Nat × FFlags :=
  let k := if ns then 127 else scaleOf f l
  if k = 0xFF then (l.map fun _ => 0, k, snanFlags l)
  else
    let r := l.map fun v => roundVal f mode (v.scale (127 - (k : Int)))
    (r.map fun x => x.1, k, r.foldl (fun (m : FFlags) (x : Nat × FFlags) => m.or x.2) (snanFlags l))

/-- QPACK (R165). -/
def execQpack (o : VOp) (s : State) : Out :=
  let d := o.dst.toNat
  let a := o.src1.toNat
  fpuSlot o false [(a, 22), (a + 1, 22), (a + 2, 22), (a + 3, 22), (d, 32), (d + 1, 32)] (fun s =>
    withControl s o (controlOk (.qpack o)) fun c s =>
      let f := c % 16
      let ns := bitOf c 4
      let res := (clustersOf o).map fun cl =>
        (cl, packGroup f o.rnd.toNat ns ((group64 s.act.regs cl a).map fun x => decodeVal 9 x))
      let codes := (d, res.map fun e => (e.1, unelems (width f) e.2.1))
      let scales := (d + 1, res.map fun e => (e.1, lanes16.map fun l => if l = 0 then BitVec.ofNat 32 e.2.2.1 else 0#32))
      s.writeGroup o (if ns then [codes] else [codes, scales]) (res.map fun e => (e.1, e.2.2.2))) s

/-- One element of QUNPACK (R166): a NaN code or a scale of 0xFF gives the default NaN and raises no flag. -/
def unpackOne (f mode k x : Nat) : Nat × FFlags :=
  let v := decodeVal f x
  if k = 0xFF || v.isNan then (defaultNan 9, FFlags.none) else roundVal 9 mode (v.scale ((k : Int) - 127))

/-- QUNPACK (R166). -/
def execQunpack (o : VOp) (s : State) : Out :=
  let d := o.dst.toNat
  let a := o.src1.toNat
  fpuSlot o false [(a, 22), (a + 1, 22), (d, 32), (d + 1, 32), (d + 2, 32), (d + 3, 32)] (fun s =>
    withControl s o (controlOk (.qunpack o)) fun c s =>
      let f := c % 16
      let ns := bitOf c 4
      let res := (clustersOf o).map fun cl =>
        let k := if ns then 127 else (nth0 (s.act.regs.readV cl (a + 1)) 0).toNat % 256
        (cl, ((elems (width f) (s.act.regs.readV cl a)).take 64).map fun x => unpackOne f o.rnd.toNat k x)
      let regs := (List.range 4).map fun n =>
        (d + n, res.map fun e => (e.1, lanes16.map fun l => BitVec.ofNat 32 (e.2.getD (16 * n + l) (0, FFlags.none)).1))
      s.writeGroup o regs (res.map fun e =>
        (e.1, e.2.foldl (fun (m : FFlags) (x : Nat × FFlags) => m.or x.2) FFlags.none))) s

end Sys2Proof.Machine
end

