-- ==== Sys2Proof/Machine/VectorInt.lean ====
section
/-! DEFINITION. The integer vector instructions, comparison and selection (R157 to R159). -/

namespace Sys2Proof.Machine

/-- Fit of a combination of the values of A, B and the old destination. -/
def fitOp (o : VOp) (f : Int → Int → Int → Int) (a b d : Nat) : Nat :=
  let t := o.type.toNat
  fitTo t o.sat (f (intVal t a) (intVal t b) (intVal t d))

/-- VADD (R158). -/
def execVadd (o : VOp) (s : State) : Out := integerSlot o 2 false false (fitOp o fun a b _ => a + b) s

/-- VSUB (R158). -/
def execVsub (o : VOp) (s : State) : Out := integerSlot o 2 false false (fitOp o fun a b _ => a - b) s

/-- VMUL (R158). -/
def execVmul (o : VOp) (s : State) : Out := integerSlot o 3 false false (fitOp o fun a b _ => a * b) s

/-- VMULH (R158): floor((A × B) / 2^w) mod 2^w. -/
def execVmulh (o : VOp) (s : State) : Out :=
  let t := o.type.toNat
  integerSlot o 3 false false (fun a b _ => wrapN (intVal t a * intVal t b / 2 ^ width t) (width t)) s

/-- VMAD (R158): the destination is the addend. -/
def execVmad (o : VOp) (s : State) : Out := integerSlot o 3 false true (fitOp o fun a b d => d + a * b) s

/-- VABS (R158). -/
def execVabs (o : VOp) (s : State) : Out := integerSlot o 2 true false (fitOp o fun a _ _ => a.natAbs) s

/-- VMIN (R158). -/
def execVmin (o : VOp) (s : State) : Out :=
  let t := o.type.toNat
  integerSlot o 2 false false (fun a b _ => if intVal t a ≤ intVal t b then a else b) s

/-- VMAX (R158). -/
def execVmax (o : VOp) (s : State) : Out :=
  let t := o.type.toNat
  integerSlot o 2 false false (fun a b _ => if intVal t a ≤ intVal t b then b else a) s

/-- VAND (R158). -/
def execVand (o : VOp) (s : State) : Out := integerSlot o 2 false false (fun a b _ => a &&& b) s

/-- VOR (R158). -/
def execVor (o : VOp) (s : State) : Out := integerSlot o 2 false false (fun a b _ => a ||| b) s

/-- VXOR (R158). -/
def execVxor (o : VOp) (s : State) : Out := integerSlot o 2 false false (fun a b _ => a ^^^ b) s

/-- VSHL (R158): Fit(A × 2^d); an amount of w or more acts as w, which gives 0 or the saturated value. -/
def execVshl (o : VOp) (s : State) : Out :=
  let t := o.type.toNat
  integerSlot o 2 false false (fun a b _ => fitTo t o.sat (intVal t a * 2 ^ min b (width t))) s

/-- VSHR (R158): the pattern is read unsigned. -/
def execVshr (o : VOp) (s : State) : Out :=
  integerSlot o 2 false false (fun a b _ => a / 2 ^ min b (width o.type.toNat)) s

/-- VSAR (R158): the pattern is read signed. -/
def execVsar (o : VOp) (s : State) : Out :=
  let w := width o.type.toNat
  integerSlot o 2 false false (fun a b _ => wrapN (toSigned a w / 2 ^ min b w) w) s

/-- VPOPC (R158). -/
def execVpopc (o : VOp) (s : State) : Out :=
  integerSlot o 2 true false (fun a _ _ => popcount a (width o.type.toNat)) s

/-- VCLZ (R158). -/
def execVclz (o : VOp) (s : State) : Out := integerSlot o 2 true false (fun a _ _ => clz a (width o.type.toNat)) s

/-- VSEL (R159): in every lane of every cluster of the mask, A where the guard bit is true and B where it is false;
for .f64 by lane pair. It executes with any guard (R81). DESIGN CHOICE: the bypass holds B in the lanes whose guard bit is
false (R155; log 120). -/
def execVsel (o : VOp) (s : State) : Out :=
  let s1 := s.checkNames o.slotOf (firstCluster o.mask.toNat) (namesOf o true true true)
  .next (s.unlessTrapped s1 fun s =>
    let pair := decide (o.type = 10#4)
    let r := s.sources o false false
    let vals := r.1.map fun e =>
      let on := s.guardOf o pair e.1
      (e.1, lanes16.map fun l => if on.getD l false then nth0 e.2.1 l else nth0 e.2.2.1 l)
    r.2.writeVector o.slotOf 32 o.dst.toNat (s.cycle + 2) (slotBypass o.slotOf) (fun _ => lanes16.map fun _ => true) vals)

/-- The six conditions of VCMP on 32-bit elements (R91, R159): eq, ne, lt, le, gt, ge. -/
def intCompare (t c a b : Nat) : Bool :=
  let x := intVal t a
  let y := intVal t b
  match c with
  | 0 => decide (x = y)
  | 1 => decide (x ≠ y)
  | 2 => decide (x < y)
  | 3 => decide (x ≤ y)
  | 4 => decide (y < x)
  | _ => decide (y ≤ x)

/-- VCMP.cc (R159): predicate bits of the lanes whose guard bit is true. -/
def execVcmp (c : BitVec 3) (o : VOp) (s : State) : Out :=
  vectorSlot o (namesOf o true true false) (fun s =>
    let r := s.sources o false false
    let vals := r.1.map fun e =>
      (e.1, lanes16.map fun l => intCompare o.type.toNat c.toNat (nth0 e.2.1 l).toNat (nth0 e.2.2.1 l).toNat)
    r.2.writePreds o.slotOf (s.cycle + 2) o.dst.toNat (s.guardOf o false) vals) s

end Sys2Proof.Machine
end

