-- ==== Sys2Proof/Machine/Slots.lean ====
section
/-! DEFINITION. The slots of a bundle: the guard of each (R81), the meaning each slot of a bundle has (R83, R102). -/

namespace Sys2Proof

/-- The guard of a control instruction. -/
def Instr.controlGuard : Instr → Option SGuard
  | .nop g => some g
  | .br g _ => some g
  | .brx g _ => some g
  | .call g _ => some g
  | .ret g => some g
  | .loop g _ _ => some g
  | .loops g _ _ => some g
  | .loopsW g _ _ => some g
  | .brk g => some g
  | .halt g => some g
  | .trap g _ => some g
  | .wait g _ _ => some g
  | .waitRel g _ _ => some g
  | .waito g _ _ => some g
  | .waitoImm g _ _ => some g
  | .bar g _ => some g
  | .yield g => some g
  | .shutc g _ => some g
  | .shutd g _ => some g
  | .sysrd g _ _ => some g
  | .syswr g _ _ => some g
  | .launch g _ _ => some g
  | .relaunch g _ _ => some g
  | .trace g _ _ => some g
  | _ => none

/-- The guard of a scalar instruction. -/
def Instr.scalarHead : Instr → Option SHead
  | .add g _ _ _ => some g
  | .sub g _ _ _ => some g
  | .mul g _ _ _ => some g
  | .mulh g _ _ _ => some g
  | .and g _ _ _ => some g
  | .or g _ _ _ => some g
  | .xor g _ _ _ => some g
  | .andn g _ _ _ => some g
  | .shl g _ _ _ => some g
  | .shlImm g _ _ _ => some g
  | .shr g _ _ _ => some g
  | .shrImm g _ _ _ => some g
  | .sar g _ _ _ => some g
  | .sarImm g _ _ _ => some g
  | .min g _ _ _ => some g
  | .max g _ _ _ => some g
  | .sel g _ _ _ _ => some g
  | .popc g _ _ => some g
  | .clz g _ _ => some g
  | .addi g _ _ _ => some g
  | .andi g _ _ _ => some g
  | .ori g _ _ _ => some g
  | .xori g _ _ _ => some g
  | .movi g _ _ => some g
  | .movhi g _ _ => some g
  | .mova g _ _ => some g
  | .movaD g _ _ _ => some g
  | .movs g _ _ => some g
  | .pset g _ _ _ => some g
  | .bext g _ _ _ _ => some g
  | .bins g _ _ _ _ => some g
  | .cmp g _ _ _ _ => some g
  | .cmpi g _ _ _ _ => some g
  | _ => none

/-- The head of a memory instruction. -/
def Instr.memoryHead : Instr → Option MHead
  | .ldv o => some o.head
  | .stv o => some o.head
  | .lds o => some o.head
  | .sts o => some o.head
  | .ldx o => some o.head
  | .stx o => some o.head
  | .ldt o => some o.head
  | .stt o => some o.head
  | .ldm o => some o.head
  | .stm o => some o.head
  | .amo o => some o.head
  | .fence h _ => some h
  | .bind o => some o.head
  | .unbind o => some o.head
  | .cbset o => some o.head
  | .copy o => some o.head
  | .copyo o => some o.head
  | .gatherp o => some o.head
  | .mpost o => some o.head
  | .tqpush o => some o.head
  | _ => none

/-- The head of an engine command. -/
def Instr.engineHead : Instr → Option EHead
  | .mma o => some o.head
  | .mmaSplit o => some o.head
  | .mmas o => some o.head
  | .mzero h _ => some h
  | .mdrain h _ _ _ _ => some h
  | .mbsel h _ => some h
  | .fmtt h _ _ => some h
  | .pload h _ _ => some h
  | .prun h _ _ => some h
  | .fsel o => some o.head
  | .fselm o => some o.head
  | .fins o => some o.head
  | .fupd o => some o.head
  | .fdel o => some o.head
  | .fspill o => some o.head
  | .ffill o => some o.head
  | .fclr o => some o.head
  | .ssq o => some o.head
  | _ => none

end Sys2Proof

namespace Sys2Proof.Machine

/-- The meaning of a control slot. -/
def controlSlot (i : Instr) (s : State) : Out :=
  match i with
  | .nop g => execNop g s
  | .br g t => execBr g t s
  | .brx g n => execBrx g n s
  | .call g t => execCall g t s
  | .ret g => execRet g s
  | .loop g c e => execLoop g c e s
  | .loops g n e => execLoops g n e s
  | .loopsW g n e => execLoopsW g n e s
  | .brk g => execBrk g s
  | .halt g => execHalt g s
  | .trap g k => execTrap g k s
  | .wait g t n => execWait g t n s
  | .waitRel g t i => execWaitRel g t i s
  | .waito g t n => execWaito g t n s
  | .waitoImm g t i => execWaitoImm g t i s
  | .bar g c => execBar g c s
  | .yield g => execYield g s
  | .shutc g h => execShutc g h s
  | .shutd g h => execShutd g h s
  | .sysrd g n r => execSysrd g n r s
  | .syswr g n r => execSyswr g n r s
  | .launch g n t => execLaunch g n t s
  | .relaunch g n t => execRelaunch g n t s
  | .trace g n t => execTrace g n t s
  | _ => .next s

/-- The meaning of a scalar slot. -/
def scalarSlot (i : Instr) (s : State) : Out :=
  match i with
  | .add g d a b => execAdd g d a b s
  | .sub g d a b => execSub g d a b s
  | .mul g d a b => execMul g d a b s
  | .mulh g d a b => execMulh g d a b s
  | .and g d a b => execAnd g d a b s
  | .or g d a b => execOr g d a b s
  | .xor g d a b => execXor g d a b s
  | .andn g d a b => execAndn g d a b s
  | .shl g d a b => execShl g d a b s
  | .shlImm g d a k => execShlImm g d a k s
  | .shr g d a b => execShr g d a b s
  | .shrImm g d a k => execShrImm g d a k s
  | .sar g d a b => execSar g d a b s
  | .sarImm g d a k => execSarImm g d a k s
  | .min g d a b => execMin g d a b s
  | .max g d a b => execMax g d a b s
  | .sel g d a p b => execSel g d a p b s
  | .popc g d a => execPopc g d a s
  | .clz g d a => execClz g d a s
  | .addi g d a i => execAddi g d a i s
  | .andi g d a i => execAndi g d a i s
  | .ori g d a i => execOri g d a i s
  | .xori g d a i => execXori g d a i s
  | .movi g d i => execMovi g d i s
  | .movhi g d i => execMovhi g d i s
  | .mova g a n => execMova g a n s
  | .movaD g a n l => execMovaD g a n l s
  | .movs g d a => execMovs g d a s
  | .pset g p a b => execPset g p a b s
  | .bext g d a q w => execBext g d a q w s
  | .bins g d a q w => execBins g d a q w s
  | .cmp g c p a b => execCmp g c p a b s
  | .cmpi g c p a i => execCmpi g c p a i s
  | _ => .next s

/-- The meaning of a memory slot. -/
def memorySlotOf (i : Instr) (s : State) : Out :=
  match i with
  | .ldv o => execLdv o s
  | .stv o => execStv o s
  | .lds o => execLds o s
  | .sts o => execSts o s
  | .ldx o => execLdx o s
  | .stx o => execStx o s
  | .ldt o => execLdt o s
  | .stt o => execStt o s
  | .ldm o => execLdm o s
  | .stm o => execStm o s
  | .amo o => execAmo o s
  | .fence h set => execFence h set s
  | .bind o => execBind o s
  | .unbind o => execUnbind o s
  | .cbset o => execCbset o s
  | .copy o => execCopy o s
  | .copyo o => execCopyo o s
  | .gatherp o => execGatherp o s
  | .mpost o => execMpost o s
  | .tqpush o => execTqpush o s
  | _ => .next s

/-- The meaning of a vector slot. -/
def vectorSlotOf (i : Instr) (s : State) : Out :=
  match i with
  | .vadd o => execVadd o s
  | .vsub o => execVsub o s
  | .vmul o => execVmul o s
  | .vmulh o => execVmulh o s
  | .vmad o => execVmad o s
  | .vabs o => execVabs o s
  | .vmin o => execVmin o s
  | .vmax o => execVmax o s
  | .vand o => execVand o s
  | .vor o => execVor o s
  | .vxor o => execVxor o s
  | .vshl o => execVshl o s
  | .vshr o => execVshr o s
  | .vsar o => execVsar o s
  | .vpopc o => execVpopc o s
  | .vclz o => execVclz o s
  | .vsel o => execVsel o s
  | .vcmp c o => execVcmp c o s
  | .fadd o => execFadd o s
  | .fsub o => execFsub o s
  | .fmul o => execFmul o s
  | .ffma o => execFfma o s
  | .fmin o => execFmin o s
  | .fmax o => execFmax o s
  | .fclass o => execFclass o s
  | .fdiv o => execFdiv o s
  | .fsqrt o => execFsqrt o s
  | .frcp o => execFrcp o s
  | .fexp2 o => execFexp2 o s
  | .flog2 o => execFlog2 o s
  | .fsin o => execFsin o s
  | .fcos o => execFcos o s
  | .frnd o => execFrnd o s
  | .fcmp c o => execFcmp c o s
  | .cvt o => execCvt o s
  | .dsplit o => execDsplit o s
  | .qpack o => execQpack o s
  | .qunpack o => execQunpack o s
  | .vimm o => execVimm o s
  | .vmov o => execVmov o s
  | .vbcast o => execVbcast o s
  | .vmovs o => execVmovs o s
  | .vshuf o => execVshuf o s
  | .vxcl o => execVxcl o s
  | .vlane o => execVlane o s
  | .vred o => execVred o s
  | .rdrain o => execRdrain o s
  | .vmrd o => execVmrd o s
  | .vmwr o => execVmwr o s
  | _ => .next s

/-- The meaning of an engine slot. -/
def engineSlot (i : Instr) (s : State) : Out :=
  match i with
  | .mma o => execMma o s
  | .mmaSplit o => execMmaSplit o s
  | .mmas o => execMmas o s
  | .mzero h acc => execMzero h acc s
  | .mdrain h acc m type rows => execMdrain h acc m type rows s
  | .mbsel h a => execMbsel h a s
  | .fmtt h e n => execFmtt h e n s
  | .pload h a n => execPload h a n s
  | .prun h bank index => execPrun h bank index s
  | .fsel o => execFsel o s
  | .fselm o => execFselm o s
  | .fins o => execFins o s
  | .fupd o => execFupd o s
  | .fdel o => execFdel o s
  | .fspill o => execFspill o s
  | .ffill o => execFfill o s
  | .fclr o => execFclr o s
  | .ssq o => execSsq o s
  | _ => .next s

/-- A slot of the bundle executes (R75, R76): an empty slot does nothing. -/
def State.runSlot (s : State) (f : Instr → State → Out) : Option Instr → State
  | none => s
  | some i => stateOf s (f i s)

/-- The slots of a bundle execute, in the order C, S0, S1, M, V0, V1, E (R83, R102). -/
def State.runSlots (s : State) (b : Bundle) : State :=
  let s1 := s.runSlot controlSlot (some b.c)
  let s2 := (s1.runSlot scalarSlot b.s0).runSlot scalarSlot b.s1
  let s3 := s2.runSlot memorySlotOf b.m
  let s4 := (s3.runSlot vectorSlotOf b.v0).runSlot vectorSlotOf b.v1
  s4.runSlot engineSlot b.e

/-! ## What the nullifier sees (R226) -/

/-- Is a scalar slot's guard false? -/
def Regs.scalarFalse (r : Regs) : Option Instr → Bool
  | none => true
  | some i => match i.scalarHead with
    | some g => !(g.holds r)
    | none => true

/-- Is a vector slot's guard false for the slot as a whole? VSEL's never is (R81). -/
def vectorFalse : Option Instr → Bool
  | none => true
  | some (.vsel _) => false
  | some i => match vRule i with
    | some e => neverGuard e.2.gp.toNat e.2.gs
    | none => true

/-- Is the memory slot's guard false? -/
def Regs.memoryFalse (r : Regs) : Option Instr → Bool
  | none => true
  | some i => match i.memoryHead with
    | some h => h.never r
    | none => true

/-- Is the engine slot's guard false? -/
def Regs.engineFalse (r : Regs) : Option Instr → Bool
  | none => true
  | some i => match i.engineHead with
    | some h => !(h.guard.holds r)
    | none => true

/-- Is the control slot empty (R76), or its guard false? -/
def Regs.controlFalse (r : Regs) (i : Instr) : Bool :=
  decide (i = .nop ⟨0#3, false⟩) || match i.controlGuard with
    | some g => !(g.holds r)
    | none => true

/-- May the nullifier skip a bundle: NUL = 1 and every non-empty slot has a false guard (R226)? -/
def Regs.skippable (r : Regs) (b : Bundle) : Bool :=
  b.head.nul && r.controlFalse b.c && r.scalarFalse b.s0 && r.scalarFalse b.s1 && r.memoryFalse b.m &&
    vectorFalse b.v0 && vectorFalse b.v1 && r.engineFalse b.e

/-! ## Committing bundles (R178, R229) -/

/-- A control instruction that makes its bundle committing. -/
def commitsControl : Instr → Bool
  | .shutc _ _ | .shutd _ _ | .syswr _ _ _ | .bar _ _ | .launch _ _ _ | .relaunch _ _ _ | .trace _ _ _ | .halt _ => true
  | _ => false

/-- A memory instruction that R178 names: AMO, format MC, or FENCE at scope quad or wider. -/
def releasesStores (scope : Nat) : Option Instr → Bool
  | some (.amo _) | some (.copy _) | some (.copyo _) | some (.gatherp _) | some (.mpost _) | some (.tqpush _) => true
  | some (.fence _ _) => decide (1 ≤ scope)
  | _ => false

/-- Is a bundle committing, on any guard (R229)? -/
def committing (b : Bundle) : Bool :=
  commitsControl b.c || releasesStores b.head.scope b.m || b.e.isSome

end Sys2Proof.Machine
end

