-- ==== Sys2Proof/Machine/Scoreboard.lean ====
section
/-! DEFINITION. The checking scoreboard (R225): the operands that the slots of a bundle read, and the results in flight
that make one of them not yet readable. -/

namespace Sys2Proof.Machine

/-- An operand a bundle reads: its class code (R225), cluster, the number that a trap records, and what names it among
the results in flight: a register, a physical vector register, the key of a matrix element. -/
structure Operand where
  cls : Nat
  cl : Nat
  num : Nat
  key : Nat
  deriving DecidableEq, Repr

/-- A scalar register as an operand. -/
def scalarOperand (n : BitVec 6) : Operand := ⟨0, 0, n.toNat, n.toNat⟩

/-- A scalar predicate as an operand. -/
def predOperand (n : Nat) : Operand := ⟨1, 0, n, n⟩

/-- An address register as an operand. -/
def addressOperand (n : BitVec 4) : Operand := ⟨2, 0, n.toNat, n.toNat⟩

/-- Does a result write an operand? -/
def Eff.reaches (e : Eff) (o : Operand) : Bool :=
  match e, o.cls with
  | .s n _, 0 => decide (n = o.key)
  | .amo _ _ _ _ d, 0 => decide (d ≠ 0) && decide (d = o.key)
  | .sp n _, 1 => decide (n = o.key)
  | .a n _, 2 => decide (n = o.key)
  | .v cells, 3 => cells.any fun c => decide (c.1 / 16 = 768 * o.cl + o.key)
  | .p cells, 4 => cells.any fun c => decide (c.1 / 16 = 16 * o.cl + o.key)
  | .m cells, 5 => cells.any fun c => decide (c.1 = o.key)
  | _, _ => false

/-- Is an operand s0, sp0 or p0, which nothing writes (R21)? -/
def Operand.constant (o : Operand) : Bool :=
  (decide (o.cls = 0) || decide (o.cls = 1) || decide (o.cls = 4)) && decide (o.num = 0)

/-- Is an operand not yet readable in a cycle (R8, R225)? A class 6 operand is one no source wrote in the cycle before
(R29); an engine command sees what the matrix engine has still to deliver (R199). -/
def Ctx.unready (x : Ctx) (engine : Bool) (o : Operand) : Bool :=
  if o.constant then false
  else if o.cls = 6 then !(x.bx.any fun b => decide (b.1 = o.key) && decide (b.2.1 = o.cl))
  else x.pend.any fun l => !(engine && l.eng && decide (o.cls = 5)) && l.eff.reaches o

/-- A vector register, or a bypass register, for each cluster of a list; a stream is no operand of the scoreboard. -/
def Regs.vectorOperand (r : Regs) (n : Nat) (cls : List Nat) : List Operand :=
  if n < 768 then cls.map fun cl => ⟨3, cl, n, r.physical n⟩
  else if n < 784 then []
  else cls.map fun cl => ⟨6, cl, n - 784, n - 784⟩

/-- The 64 elements of m.dir(k), numbered as the operand orders them (R25). -/
def directionOperands (m dir k : Nat) : List Operand :=
  (List.range 64).map fun t => ⟨5, 0, t, mKey m (mElem dir k t).1 (mElem dir k t).2⟩

/-! ## What each slot reads, its guard true -/

/-- A control slot. -/
def controlOperands : Instr → List Operand
  | .brx _ n | .loops _ n _ | .waito _ _ n | .syswr _ n _ | .launch _ n _ | .relaunch _ n _ | .trace _ n _ =>
    [scalarOperand n]
  | .ret _ => [scalarOperand 63#6]
  | .loopsW _ n _ | .wait _ _ n => [scalarOperand n, scalarOperand (n + 1#6)]
  | _ => []

/-- A scalar slot: sources, and the destination that MOVHI and BINS read. -/
def scalarOperands : Instr → List Operand
  | .add _ _ a b | .sub _ _ a b | .mul _ _ a b | .mulh _ _ a b | .and _ _ a b | .or _ _ a b | .xor _ _ a b
  | .andn _ _ a b | .shl _ _ a b | .shr _ _ a b | .sar _ _ a b | .min _ _ a b | .max _ _ a b | .cmp _ _ _ a b =>
    [scalarOperand a, scalarOperand b]
  | .sel _ _ a p b => [scalarOperand a, scalarOperand b, predOperand p.toNat]
  | .shlImm _ _ a _ | .shrImm _ _ a _ | .sarImm _ _ a _ | .popc _ _ a | .clz _ _ a | .addi _ _ a _ | .andi _ _ a _
  | .ori _ _ a _ | .xori _ _ a _ | .pset _ _ a _ | .bext _ _ a _ _ | .cmpi _ _ _ a _ => [scalarOperand a]
  | .bins _ d a _ _ => [scalarOperand a, scalarOperand d]
  | .movhi _ d _ => [scalarOperand d]
  | .mova _ _ n | .movaD _ _ n _ => [scalarOperand n]
  | .movs _ _ a => [addressOperand a]
  | _ => []

/-- Source 2 of a vector slot (R153). -/
def Regs.src2Operands (r : Regs) (v : VRule) (o : VOp) (cls : List Nat) : List Operand :=
  if o.kind = 1#2 then [scalarOperand (BitVec.ofNat 6 o.src2.toNat)]
  else if o.kind = 0#2 ∧ v.src2 = .operand then r.vectorOperand o.src2.toNat cls
  else []

/-- Source 1 of a vector slot; VXCL reads other clusters (R169), VMRD a matrix register (R172). -/
def State.src1Operands (s : State) (i : Instr) (v : VRule) (o : VOp) (cls : List Nat) : List Operand :=
  let r := s.act.regs
  match v.src1, i with
  | .register, .vxcl _ => r.vectorOperand o.src1.toNat (cls.map fun cl => sourceCluster (s.control o) cl)
  | .operand, _ => r.vectorOperand o.src1.toNat cls
  | .register, _ => r.vectorOperand o.src1.toNat cls
  | .matrix, _ => directionOperands (fieldReg o.src1.toNat) (fieldDir o.src1.toNat) (s.matrixIndex o)
  | _, _ => []

/-- The addends and companion registers that a vector slot reads (R152, R165, R166): QUNPACK with NS = 1 reads no scale. -/
def State.moreOperands (s : State) (cls : List Nat) : Instr → List Operand :=
  let r := s.act.regs
  fun
  | .vmad o | .ffma o => r.vectorOperand o.dst.toNat cls
  | .qpack o => ([1, 2, 3].map fun k => r.vectorOperand (o.src1.toNat + k) cls).flatten
  | .qunpack o => if bitOf (s.control o) 4 then [] else r.vectorOperand (o.src1.toNat + 1) cls
  | _ => []

/-- A vector slot: its guard predicate, its sources, its addends. -/
def State.vectorOperands (s : State) (i : Instr) : List Operand :=
  match vRule i with
  | none => []
  | some (v, o) =>
    let cls := clustersOf o
    let r := s.act.regs
    (cls.map fun cl => (⟨4, cl, o.gp.toNat, o.gp.toNat⟩ : Operand)) ++ s.src1Operands i v o cls ++ r.src2Operands v o cls ++
      s.moreOperands cls i

/-- A memory slot, beside its guard. -/
def State.memoryOperands (s : State) (i : Instr) : List Operand :=
  let r := s.act.regs
  let cls (h : MHead) : List Nat := maskClusters h.mask.toNat
  let index (o : MmOp) : List Operand := if o.ki then [scalarOperand o.k] else []
  match i with
  | .ldv o | .ldt o => [addressOperand o.base]
  | .stv o | .stt o => addressOperand o.base :: r.vectorOperand o.v.toNat (cls o.head)
  | .lds o => [addressOperand o.base]
  | .sts o => [addressOperand o.base, scalarOperand o.s]
  | .ldx o => addressOperand o.base :: r.vectorOperand o.index.toNat (cls o.head)
  | .stx o => addressOperand o.base :: (r.vectorOperand o.index.toNat (cls o.head) ++ r.vectorOperand o.data.toNat (cls o.head))
  | .ldm o => addressOperand o.base :: index o
  | .stm o => addressOperand o.base :: (index o ++ directionOperands o.m.toNat o.dir.toNat (s.mmIndex o))
  | .amo o => [addressOperand o.addr, scalarOperand o.src] ++ (if o.aop = 9#4 then [scalarOperand o.cmp] else [])
  | .bind o | .cbset o => [addressOperand o.addr]
  | .copy o | .copyo o | .gatherp o | .mpost o | .tqpush o => [addressOperand o.addr]
  | _ => []

/-- The matrix elements that the first issue of an MMA reads: the A operand, and the accumulator unless OVR opens it at
zero (R201, R202). An accumulator's elements are numbered by column. -/
def State.mmaOperands (s : State) (o : EmOp) (plan : Option MmaPlan) : List Operand :=
  let x0 := (s.act.regs.readA o.ax.toNat).toNat
  let n := match plan with
    | some p => p.c
    | none => 0
  let accs := if o.ovr ∨ 32 ≤ o.acc.toNat then []
    else if o.mode = 3#2 then (List.range 6).map fun w => o.acc.toNat + w else [o.acc.toNat]
  ((List.range n).map fun t => directionOperands o.areg.toNat o.dir.toNat ((x0 + t) % 64)).flatten ++
    (accs.map fun m => (List.range 4096).map fun t => (⟨5, 0, t % 64, 4096 * m + t⟩ : Operand)).flatten

/-- An engine slot. -/
def State.engineOperands (s : State) (i : Instr) : List Operand :=
  let query (o : ExOp) (op : Nat) : List Operand :=
    let k := s.facetCmd o op
    (List.range (k.queryCount * queryRegs k.width)).map fun t => (⟨0, 0, o.query.toNat + t, o.query.toNat + t⟩ : Operand)
  match i with
  | .mma o | .mmas o => [addressOperand o.ax, addressOperand o.ay] ++ s.mmaOperands o (mmaPlan o s.act.fmtEntry)
  | .mmaSplit o => [addressOperand o.ax, addressOperand o.ay] ++ s.mmaOperands o (splitPlan o)
  | .mbsel _ a => [addressOperand a]
  | .fmtt _ _ n => [scalarOperand n]
  | .pload _ a _ => [addressOperand a]
  | .fsel o => addressOperand o.addr :: query o 0x20
  | .fselm o => addressOperand o.addr :: query o 0x21
  | .ssq o => addressOperand o.addr :: query o 0x30
  | .fins o | .fupd o | .fdel o | .fspill o | .ffill o | .fclr o => [addressOperand o.addr]
  | _ => []

/-! ## The operands of a bundle -/

/-- The guard of a memory slot as an operand. -/
def MHead.operands (h : MHead) : List Operand :=
  if h.gk then (maskClusters h.mask.toNat).map fun cl => ⟨4, cl, h.gn.toNat, h.gn.toNat⟩ else [predOperand h.gn.toNat]

/-- A slot's guard, and beneath a true one what the slot reads. -/
def guarded (guard : List Operand) (isFalse : Bool) (l : List Operand) : List Operand := guard ++ if isFalse then [] else l

/-- The operands of each slot of a bundle. -/
def State.operandsOf (s : State) (b : Bundle) : List (Slot × List Operand) :=
  let r := s.act.regs
  let sp (g : Option SGuard) : List Operand := (g.map fun g => predOperand g.sp.toNat).toList
  let scalar (i : Option Instr) : List Operand := match i with
    | some i => guarded ((i.scalarHead.map fun g => predOperand g.sp.toNat).toList) (r.scalarFalse (some i)) (scalarOperands i)
    | none => []
  let vector (i : Option Instr) : List Operand := match i with
    | some i => guarded [] (vectorFalse (some i)) (s.vectorOperands i)
    | none => []
  let memory : List Operand := match b.m with
    | some i => guarded ((i.memoryHead.map fun (h : MHead) => MHead.operands h).getD []) (r.memoryFalse b.m) (s.memoryOperands i)
    | none => []
  let engine : List Operand := match b.e with
    | some i => guarded (sp (i.engineHead.map fun h => h.guard)) (r.engineFalse b.e) (s.engineOperands i)
    | none => []
  [(.c, guarded (sp b.c.controlGuard) (r.controlFalse b.c) (controlOperands b.c)), (.s0, scalar b.s0), (.s1, scalar b.s1),
    (.m, memory), (.v0, vector b.v0), (.v1, vector b.v1), (.e, engine)]

/-- The scoreboard trap of a slot: the first operand that is not readable, in the lowest cluster (R235). -/
def Ctx.slotTrap (x : Ctx) (pc : Nat) (slot : Slot) (l : List Operand) : Option TrapCause :=
  let bad := sortBy (fun (o : Operand) => o.cl) (l.filter fun o => x.unready (decide (slot = .e)) o)
  match bad with
  | [] => none
  | o :: _ => some ⟨0xC, slot.code, o.cl, pc, 4096 * o.cls + o.num % 1024⟩

/-- The scoreboard traps of a bundle join the traps of its slots (R225, R235). -/
def State.checkOperands (s s0 : State) (b : Bundle) : State :=
  if s0.act.chk then
    (s0.operandsOf b).foldl (fun s e => match s0.act.slotTrap s0.act.regs.pc e.1 e.2 with
      | some t => s.onIss fun i => { i with trap := some (betterTrap i.trap t) }
      | none => s) s
  else s

end Sys2Proof.Machine
end

