-- ==== Sys2Proof/Machine/Sequencer.lean ====
section
/-! DEFINITION. The sequencer: the issue of a bundle with everything that can hold it, skip it or
trap it (R8, R34, R78, R103, R126 to R139, R175 to R178, R225 to R241), waits, landing traps and rollback. -/

namespace Sys2Proof.Machine

/-! ## The step after a bundle (R19, R130 to R133) -/

/-- The levels whose END is the bundle at p, from the innermost outward: the levels left, and the one that takes its back
edge (R132). -/
def passEnd (p : Nat) : List Level → List Level × Option Level
  | [] => ([], none)
  | l :: ls =>
    if l.fin = p then
      if l.idx + 1 < l.cnt then ({ l with idx := l.idx + 1 } :: ls, some l) else passEnd p ls
    else (l :: ls, none)

/-- A window whose level is empty is bound to none from then on (R131). -/
def Rotation.within (w : Rotation) (depth : Nat) : Rotation :=
  match w.level with
  | some l => if depth ≤ l then { w with level := none } else w
  | none => w

/-- The rotation of a back edge of level L (R20). -/
def Rotation.turn (w : Rotation) (level : Nat) : Rotation :=
  if w.level = some level then { w with wo := (w.wo + w.wl - 1) % w.wl } else w

/-- The loop stack replaced; windows of levels that are gone are unbound. -/
def Regs.setLoops (r : Regs) (l : List Level) : Regs :=
  { r with loops := l, rot := r.rot.map fun w => w.within l.length }

/-- A write of an address register that a delta is added to (R19). -/
def Eff.plus (n : Nat) (d : Word) : Eff → Eff
  | .a k x => if k = n then .a k (x + d) else .a k x
  | e => e

/-- One address register of a back edge: the delta is added after what the END bundle writes (R19). -/
def Ctx.addDelta (x : Ctx) (level n : Nat) : Ctx :=
  let d := (Store.get 0#24 x.regs.aut (6 * n + level)).signExtend 32
  { x with
    regs := { x.regs with a := Store.set 0#32 x.regs.a n (x.regs.readA n + d) }
    pend := x.pend.map fun l => if l.seq = x.seq ∧ l.eng = false then { l with eff := l.eff.plus n d } else l }

/-- The back edge of a level (R19): rotation and address update. -/
def Ctx.backEdge (x : Ctx) (level : Nat) : Ctx :=
  let x1 := { x with regs := { x.regs with rot := x.regs.rot.map fun w => w.turn level } }
  (List.range 16).foldl (fun x n => x.addDelta level n) x1

/-- R132 for the bundle at p: PC and loop stack; whether a back edge was taken. -/
def Ctx.advance (x : Ctx) (p : Nat) (target : Option Nat) : Ctx × Bool :=
  match target with
  | some t => ({ x with regs := { x.regs with pc := t }, transferred := some p }, false)
  | none =>
    let r := passEnd p x.regs.loops.reverse
    let loops := r.1.reverse
    match r.2 with
    | some l =>
      let x1 := x.backEdge (loops.length - 1)
      ({ x1 with regs := { (x1.regs.setLoops loops) with pc := l.beg }, transferred := none }, true)
    | none => ({ x with regs := { (x.regs.setLoops loops) with pc := x.fallThrough p }, transferred := none }, false)

/-! ## Readiness -/

/-- May the active context's next bundle be evaluated in this cycle (R78, R138, R139, R232, R236, R242)? -/
def Core.ready (c : Core) (cycle : Nat) : Bool :=
  let x := c.act
  decide (x.phase = .running) && !x.held && x.trap.isNone && x.fp.isEmpty && !x.tried && decide (x.nextAt ≤ cycle) &&
    x.waits.isEmpty && !(c.swapWanted.isSome && x.atMark)

/-- No bundle issues any more in this cycle. -/
def State.tried (s : State) (core : Nat) : State := s.onCore core fun c => { c with act := { c.act with tried := true } }

/-- Does a mark at this bundle hold it: a yield request or a swap request stops there (R137, R242)? -/
def Core.stopsAtMark (c : Core) : Bool := c.act.yield || c.swapWanted.isSome

/-- A YIELD of a context whose next bundle is held after a mark is offered there (R137, R242). -/
def Core.offersHeld (c : Core) : Bool := c.act.yield && decide (c.act.phase = .running) && !c.act.tried && c.act.atMark

/-- The mark falls and the bundle after it waits. -/
def State.stopAtMark (s : State) (core : Nat) : State := ((s.mark core).reachMark core).tried core

/-- A trap of the bundle at the PC (R232). -/
def State.issueTrap (s : State) (core : Nat) (t : TrapCause) : State :=
  s.onCore core fun c => { c with act := c.act.raiseTrap s.cycle c.act.seq false t }

/-! ## The issue of a bundle -/

/-- The slot codes of TRAP0 that the selectors of the read ports stand for (R77, R237). -/
def portSlots (h : Header) : List Nat :=
  [h.port0, h.port1, h.port2].map fun p => match p with
    | 0 => Slot.m.code
    | 1 => Slot.e.code
    | 2 => Slot.v0.code
    | _ => Slot.v1.code

/-- The slot of a TRAP0 code that a port selector can give. -/
def portSlot (b : Bundle) (code : Nat) : Slot × Option Instr :=
  if code = Slot.m.code then (.m, b.m)
  else if code = Slot.e.code then (.e, b.e)
  else if code = Slot.v0.code then (.v0, b.v0)
  else (.v1, b.v1)

/-- The schedule faults of the read ports (R103): a port that a running repeat holds is allotted to a slot that reads a
matrix register. -/
def State.checkPorts (s : State) (b : Bundle) : State :=
  match s.here.mx.rep with
  | some r =>
    if s.here.mx.repeating s.cycle then
      r.ports.foldl (fun s k =>
        let e := portSlot b ((portSlots b.head).getD k 0)
        if portNeed e.2 = 0 then s else s.raise 6 e.1 0 0) s
    else s
  | none => s

/-- The issue context of a bundle. -/
def State.enter (s : State) (b : Bundle) : State :=
  let i : Iss := { Iss.none with
    pc := s.act.regs.pc, scope := b.head.scope, rpt := b.head.rpt, stall := b.head.stall, ports := portSlots b.head
    post := committing b, uses := s.engineUses b.e }
  s.onIss fun _ => i

/-- The slots of a bundle executed with their checks, at a state where its mark has fallen. -/
def State.execute (s : State) (b : Bundle) : State :=
  let s1 := s.enter b
  ((s1.checkPorts b).runSlots b).checkOperands s1 b

/-- What comes of a bundle in a cycle. -/
inductive Attempt where
  | waits (s : State)                      -- it does not issue in this cycle
  | traps (s : State) (t : TrapCause)      -- the state with its mark, and the trap
  | issues (s : State) (marked : Bool)     -- its slots have executed; whether a mark fell before it

/-- Are the bytes of every store of an earlier bundle written in or before this cycle (R178)? -/
def Ctx.storesWritten (x : Ctx) (cycle : Nat) : Bool :=
  x.gate.all fun g => g.written || (decide (g.whole ≤ cycle) && g.stream.isNone)

/-- The arbitration for a list of rows (R34, R175). -/
def State.arbitrate (s : State) (core : Nat) (rows : List (Nat × Bool × Nat)) : State :=
  s.onCore core fun c => c.arbitrate s.cycle rows

/-- A bundle held by its bank accesses (R34, R175): what was served is kept, BC is set, BCNT counts and saturates. -/
def State.waitRows (s0 s : State) (core : Nat) : State :=
  s.onCore core fun c =>
    let c1 := Core.keepRows (s0.core core) c
    { c1 with act := { (c1.act.setCstat 2) with
        bcnt := if c1.act.bcnt = 0xFFFFFFFF#32 then c1.act.bcnt else c1.act.bcnt + 1#32, heldPop := none } }

/-- A bundle held by a stream or by the matrix engine (R28, R207). -/
def State.waitHeld (s t : State) (core : Nat) : State :=
  s.onCore core fun c => { c with act := { c.act with
    heldPop := t.here.iss.popWait
    heldSince := if t.here.iss.popWait = c.act.heldPop then c.act.heldSince else s.cycle } }

/-- The accesses of a bundle whose slots can execute: what the queue of a busy bank has served of its writes is written,
and when all are served the slots execute on what was served. -/
def State.accessed (s t : State) (core : Nat) (b : Bundle) (mark : Bool) : Attempt :=
  let rows := t.here.iss.rows
  let start (s : State) : State := if mark then s.mark core else s
  if rows.isEmpty then .issues t mark
  else
    let s1 := (s.arbitrate core rows).onCore core fun c => c.putRows t.act s.cycle
    if ((s1.core core).needed rows).isEmpty then .issues ((start s1).execute b) mark
    else .waits (s.waitRows s1 core)

/-- A bundle whose stores would fill the gate buffer (R177): it takes a mark at its start, and issues once no operation
before it is flag-pending. -/
def State.withFullGate (s : State) (core : Nat) (b : Bundle) : Attempt :=
  let c := s.core core
  if c.act.flagPendingBefore c.act.seq then .waits s
  else if c.stopsAtMark then .waits (s.stopAtMark core)
  else s.accessed ((s.mark core).execute b) core b true

/-- What comes of a bundle that is not skipped: held, trapped, or issued (R28, R34, R175 to R178, R229, R232). -/
def State.attempt (s : State) (core : Nat) (b : Bundle) : Attempt :=
  let x := (s.core core).act
  if committing b && x.flagPendingBefore x.seq then .waits s
  else
    let first := releasesStores b.head.scope b.m
    let s0 := if first && !x.storesWritten s.cycle then s.arbitrate core [] else s
    if first && !(s0.core core).act.storesWritten s.cycle then .waits s0
    else
      let s1 := if b.head.mark then s0.mark core else s0
      let t := s1.execute b
      if t.here.iss.held then .waits (s0.waitHeld t core)
      else match t.here.iss.trap with
        | some k => .traps s1 k
        | none =>
          if 64 < t.act.gateCount && t.act.gateCount ≠ s1.act.gateCount && !b.head.mark then s0.withFullGate core b
          else if 64 < t.act.gateCount && t.act.gateCount ≠ s1.act.gateCount && x.flagPendingBefore x.seq then .waits s0
          else s0.accessed t core b b.head.mark

/-- A level pushed, emptied by BREAK, or a window declared (R130, R131, R133). -/
def Ctx.loopOps (x : Ctx) (i : Iss) : Ctx :=
  let r := x.regs
  let r1 := if i.pop then r.setLoops r.loops.dropLast else r
  let r2 := match i.push with
    | some l => { r1 with loops := r1.loops ++ [l] }
    | none => r1
  { x with regs := match i.rotate with
    | some w => { r2 with rot := w }
    | none => r2 }

/-- HALT (R135): no bundle issues any more, so the PC stays at the HALT bundle and R132 takes no step (log 43); the loop
stack is discarded, shutters are emptied. -/
def Ctx.halt (x : Ctx) : Ctx :=
  { x with regs := { x.regs with loops := [] }, sh0 := none, sh1 := none, phase := .halted }

/-- The step of R132 after a bundle; none after a HALT. -/
def Ctx.nextPc (x : Ctx) (i : Iss) : Ctx × Bool := if i.halt then (x.halt, false) else x.advance i.pc i.target

/-- The active context when its bundle has issued in a cycle (R78, R126, R132, R241). -/
def Ctx.issued (x : Ctx) (i : Iss) (cycle : Nat) : Ctx × Bool :=
  let r := (x.loopOps i).nextPc i
  let next := max (cycle + 1 + i.stall) i.bound
  let y := { r.1 with
    seq := x.seq + 1, sinceMark := x.sinceMark + 1, nextAt := next, waits := i.waits, svc := Service.none, heldPop := none
    heldSince := next, tried := true }
  (y, r.2)

/-- The mark at the end of a committing bundle commits in its cycle (R178, R229); a HALT releases every store (R135). -/
def State.endMark (s : State) (core : Nat) (halt : Bool) : State :=
  let s1 := s.mark core
  let x := (s1.core core).act
  match x.marks.getLast? with
  | some k => if k.committed && !halt then s1 else s1.commit core { k with committed := false } halt
  | none => s1

/-- A bundle has issued: the sequencer's step, then the marks at its end (R132, R228, R229). -/
def State.finish (s : State) (core : Nat) (b : Bundle) : State :=
  let i := (s.core core).iss
  let r := (s.core core).act.issued i s.cycle
  let s1 := s.onCore core fun c => { c with act := r.1, iss := Iss.none }
  if committing b then
    let s2 := s1.endMark core i.halt
    if i.halt then s2 else s2.reachMark core
  else if r.2 then (s1.mark core).reachMark core
  else s1

/-- Does the bundle at the PC exceed the distance from the last mark (R241)? -/
def Ctx.tooFar (x : Ctx) (marked : Bool) : Bool := decide (4096 ≤ x.sinceMark) && !marked

/-- The issue of the bundle at the PC, or what keeps it. -/
def State.issueBundle (s : State) (core : Nat) (b : Bundle) : State :=
  match s.attempt core b with
  | .waits t => t.tried core
  | .traps t k => t.issueTrap core k
  | .issues t marked => if (s.core core).act.tooFar marked then s else t.finish core b

/-- Is a bundle skipped by the nullifier (R226, R227)? A mark at which the core is to stop keeps it. -/
def Core.skips (c : Core) (b : Bundle) : Bool := c.act.regs.skippable b && !(b.head.mark && c.stopsAtMark)

/-- BUNDLE_ISSUE. -/
def execBundleIssue (core : Nat) (s0 : State) : Out :=
  if 512 ≤ core then .fault (.absent core)
  else
    let s := { s0 with cur := core }
    let c := s.core core
    if !c.ready s.cycle then .next (if c.offersHeld then (s.reachMark core).tried core else s)
    else match c.act.fetch with
      | .error t => .next (s.issueTrap core t)
      | .ok b =>
        if c.skips b then .next (if c.act.skips < 4 then s else s.tried core)
        else if b.head.mark && c.stopsAtMark then .next (s.stopAtMark core)
        else .next (s.issueBundle core b)

/-- The bundle that the nullifier skips in this cycle. -/
def Core.skipDue (c : Core) (cycle : Nat) : Option Bundle :=
  if c.ready cycle && decide (c.act.skips < 4) then
    match c.act.fetch with
    | .ok b => if c.skips b then some b else none
    | .error _ => none
  else none

/-- A bundle skipped: its mark, its back edge with that mark, and nothing else of it (R226, R227, R132). -/
def State.skip (s : State) (core : Nat) (b : Bundle) : State :=
  let s1 := if b.head.mark then s.mark core else s
  let x := (s1.core core).act
  let r := x.advance x.regs.pc none
  let y := { r.1 with seq := x.seq + 1, skips := x.skips + 1, svc := Service.none, heldPop := none }
  let s2 := s1.onCore core fun c => { c with act := y }
  if r.2 then (s2.mark core).reachMark core else s2

/-- NULLIFIER_SKIP. -/
def execNullifierSkip (core : Nat) (s0 : State) : Out :=
  if 512 ≤ core then .fault (.absent core)
  else
    let s := { s0 with cur := core }
    match (s.core core).skipDue s.cycle with
    | some b => .next (s.skip core b)
    | none => .next s

/-- Would the bundle at the PC issue too far from the last mark in this cycle (R241)? -/
def State.distanceDue (s0 : State) (core : Nat) : Bool :=
  let s := { s0 with cur := core }
  let c := s.core core
  decide (4096 ≤ c.act.sinceMark) && c.ready s.cycle &&
    match c.act.fetch with
    | .error _ => false
    | .ok b => !c.skips b && !b.head.mark && match s.attempt core b with
      | .issues _ marked => !marked
      | _ => false

/-- MARK_DISTANCE_TRAP (R241). -/
def execMarkDistanceTrap (core : Nat) (s : State) : Out :=
  if 512 ≤ core then .fault (.absent core)
  else if s.distanceDue core then .next (s.issueTrap core (fetchTrap 0x0E (s.core core).act.regs.pc 0))
  else .next s

/-! ## Marks, landing traps and rollback (R231 to R237) -/

/-- MARK_COMMIT (R231): the first mark that can commit does. -/
def execMarkCommit (core : Nat) (s : State) : Out :=
  if 512 ≤ core then .fault (.absent core) else .next (s.commitReady core 1)

/-- Where a landing trap stands in the order of R235. -/
def FpRaise.before (a b : FpRaise) : Bool :=
  let key (f : FpRaise) : Nat := 64 * slotRank f.slot.code + 8 * f.cluster + f.order
  decide (a.seq < b.seq) || (decide (a.seq = b.seq) && decide (key a ≤ key b))

/-- The landing trap that is kept of those of a cycle (R235). -/
def firstRaise : List FpRaise → Option FpRaise
  | [] => none
  | f :: l => match firstRaise l with
    | some g => some (if f.before g then f else g)
    | none => some f

/-- FP_TRAP (R56, R232): an enabled flag has been raised by a result that landed in this cycle. -/
def execFpTrap (core : Nat) (s : State) : Out :=
  if 512 ≤ core then .fault (.absent core)
  else
    let x := (s.core core).act
    match firstRaise x.fp with
    | none => .next s
    | some f => .next (s.onCore core fun c => { c with act :=
        { (c.act.raiseTrap s.cycle f.seq f.post ⟨0x0B, f.slot.code, f.cluster, f.pc, f.order⟩) with fp := [] } })

/-- The pending trap whose rollback is complete in this cycle (R233). -/
def Ctx.rollbackDue (x : Ctx) (cycle : Nat) : Option PendingTrap :=
  match x.trap with
  | some t => if t.due ≤ cycle then some t else none
  | none => none

/-- The bundle number of the mark that the last trap rolls back to. -/
def Ctx.rollbackSeq (x : Ctx) : Nat := ((lastMark x.marks).map fun k => k.seq).getD 0

/-- The records of a gang's rings that a rollback returns to the core (R282). -/
def State.returnPops (s : State) (core : Nat) (x : Ctx) (seq : Nat) : State :=
  match x.gang with
  | none => s
  | some g => match s.gang g with
    | none => s
    | some k => k.pipes.foldl (fun s p => s.onRing g p.1 fun r => r.rollback core x.cid seq) s

/-- ROLLBACK (R230, R233, R234, R236, R237). -/
def execRollback (core : Nat) (s : State) : Out :=
  if 512 ≤ core then .fault (.absent core)
  else
    let x := (s.core core).act
    match x.rollbackDue s.cycle with
    | none => .next s
    | some t => .next ((s.returnPops core x x.rollbackSeq).onCore core fun c => c.rollback t)

/-! ## Waits and barriers (R138, R139, R316) -/

/-- What a satisfied WAIT acquires at pkg scope or wider (R138, R316): the vectors that the operations it covers have
received. -/
def State.acquire (s : State) (core : Nat) : Wait → State
  | .count tl n scope =>
    if scope < 3 then s
    else
      let x := (s.core core).act
      let mine (e : Nat × Nat × Store Nat) : Bool := decide (e.1 = tl) && decide (e.2.1 ≤ n)
      let k := (x.clocks.filter mine).foldl (fun (m : Store Nat) e => mergeMax m e.2.2) []
      let s1 := s.onDie (dieOf core) fun d => { d with vc := mergeMax d.vc k }
      s1.onCore core fun c => { c with act := { c.act with clocks := c.act.clocks.filter fun e => !mine e } }
  | _ => s

/-- The first wait of a context that holds no longer. -/
def Ctx.satisfied (x : Ctx) : Option Wait := x.waits.find? fun w => x.waitOver w

/-- WAIT_SATISFIED (R138, R186). -/
def execWaitSatisfied (core : Nat) (s : State) : Out :=
  if 512 ≤ core then .fault (.absent core)
  else match (s.core core).act.satisfied with
    | none => .next s
    | some w => .next ((s.acquire core w).onCore core fun c =>
        { c with act := { c.act with waits := c.act.waits.erase w, heldSince := s.cycle } })

/-- The latency of a barrier (R15, R139). -/
def barrierLatency (scope : Nat) : Nat :=
  match scope with
  | 1 => 8
  | 2 => 40
  | 3 => 220
  | _ => 1300

/-- The dies of an instance's members. -/
def Barrier.dies (b : Barrier) : List Nat := (b.members.map fun m => dieOf m.1).eraseDups

/-- Is a pod barrier held by a member that waits at it: a route from its die to a package with members is down (R345)? A
member that is killed waits no more. -/
def State.routeHolds (s : State) (b : Barrier) : Bool :=
  (s.contexts.filter fun e => e.2.waits.contains (.barrier b.id)).any fun e =>
    (s.die (dieOf e.1)).routesDown.any fun p => Config.podMember b.key p

/-- Is the release of an instance due? A pod barrier releases nobody while a member's route is down (R345). -/
def State.releaseDue (s : State) (b : Barrier) : Bool :=
  match b.full with
  | some a => decide (a + barrierLatency b.scope ≤ s.cycle) && (decide (b.scope ≠ 4) || !s.routeHolds b)
  | none => false

/-- A member's wait for an instance is over. -/
def Ctx.released (x : Ctx) (inst cycle : Nat) : Ctx :=
  if x.waits.contains (.barrier inst) then
    { x with waits := x.waits.filter fun w => !decide (w = .barrier inst), heldSince := cycle } else x

/-- The clocks of the members' dies merge at pkg scope or wider (R139, R316). -/
def State.mergeClocks (s : State) (b : Barrier) : State :=
  if b.scope < 3 then s
  else
    let k := b.dies.foldl (fun (m : Store Nat) d => mergeMax m (s.clockOf d)) []
    b.dies.foldl (fun s d => s.onDie d fun e => { e with vc := mergeMax e.vc k }) s

/-- BARRIER_RELEASE (R139): every member is released. -/
def execBarrierRelease (inst : Nat) (s : State) : Out :=
  match s.dist.barriers.find? fun b => decide (b.id = inst) with
  | none => .next s
  | some b =>
    if s.releaseDue b then
      let s1 := s.mergeClocks b
      let cores := s1.cores.map fun e =>
        (e.1, { e.2 with
          act := e.2.act.released inst s.cycle, shadow := e.2.shadow.released inst s.cycle
          saved := e.2.saved.map fun v => { v with ctx := v.ctx.released inst s.cycle } })
      .next (({ s1 with cores := cores }).onDist fun d => { d with barriers := d.barriers.filter fun e => !decide (e.id = inst) })
    else .next s

end Sys2Proof.Machine
end

