-- ==== Sys2Proof/Machine/Dispatch.lean ====
section
/-! DEFINITION. The meaning of each row of the opcode table: one arm per constructor. -/

namespace Sys2Proof.Machine

/-- The meaning of an instruction or step at a state. -/
def exec (i : Instr) (s : State) : Host.Outcome State Fault Refusal :=
  match i with
  | .bundleIssue core => Sys2Proof.Machine.execBundleIssue core s
  | .nullifierSkip core => Sys2Proof.Machine.execNullifierSkip core s
  | .markCommit core => Sys2Proof.Machine.execMarkCommit core s
  | .markDistanceTrap core => Sys2Proof.Machine.execMarkDistanceTrap core s
  | .fpTrap core => Sys2Proof.Machine.execFpTrap core s
  | .rollback core => Sys2Proof.Machine.execRollback core s
  | .nop g => Sys2Proof.Machine.execNop g s
  | .br g t => Sys2Proof.Machine.execBr g t s
  | .brx g n => Sys2Proof.Machine.execBrx g n s
  | .call g t => Sys2Proof.Machine.execCall g t s
  | .ret g => Sys2Proof.Machine.execRet g s
  | .loop g c e => Sys2Proof.Machine.execLoop g c e s
  | .loops g n e => Sys2Proof.Machine.execLoops g n e s
  | .loopsW g n e => Sys2Proof.Machine.execLoopsW g n e s
  | .brk g => Sys2Proof.Machine.execBrk g s
  | .halt g => Sys2Proof.Machine.execHalt g s
  | .trap g k => Sys2Proof.Machine.execTrap g k s
  | .wait g t n => Sys2Proof.Machine.execWait g t n s
  | .waitRel g t imm => Sys2Proof.Machine.execWaitRel g t imm s
  | .waito g t n => Sys2Proof.Machine.execWaito g t n s
  | .waitoImm g t imm => Sys2Proof.Machine.execWaitoImm g t imm s
  | .waitSatisfied core => Sys2Proof.Machine.execWaitSatisfied core s
  | .bar g c => Sys2Proof.Machine.execBar g c s
  | .barrierRelease inst => Sys2Proof.Machine.execBarrierRelease inst s
  | .yield g => Sys2Proof.Machine.execYield g s
  | .shutc g h => Sys2Proof.Machine.execShutc g h s
  | .shutd g h => Sys2Proof.Machine.execShutd g h s
  | .sysrd g n r => Sys2Proof.Machine.execSysrd g n r s
  | .syswr g n r => Sys2Proof.Machine.execSyswr g n r s
  | .launch g n t => Sys2Proof.Machine.execLaunch g n t s
  | .relaunch g n t => Sys2Proof.Machine.execRelaunch g n t s
  | .trace g n t => Sys2Proof.Machine.execTrace g n t s
  | .add g d a b => Sys2Proof.Machine.execAdd g d a b s
  | .sub g d a b => Sys2Proof.Machine.execSub g d a b s
  | .mul g d a b => Sys2Proof.Machine.execMul g d a b s
  | .mulh g d a b => Sys2Proof.Machine.execMulh g d a b s
  | .and g d a b => Sys2Proof.Machine.execAnd g d a b s
  | .or g d a b => Sys2Proof.Machine.execOr g d a b s
  | .xor g d a b => Sys2Proof.Machine.execXor g d a b s
  | .andn g d a b => Sys2Proof.Machine.execAndn g d a b s
  | .shl g d a b => Sys2Proof.Machine.execShl g d a b s
  | .shlImm g d a k => Sys2Proof.Machine.execShlImm g d a k s
  | .shr g d a b => Sys2Proof.Machine.execShr g d a b s
  | .shrImm g d a k => Sys2Proof.Machine.execShrImm g d a k s
  | .sar g d a b => Sys2Proof.Machine.execSar g d a b s
  | .sarImm g d a k => Sys2Proof.Machine.execSarImm g d a k s
  | .min g d a b => Sys2Proof.Machine.execMin g d a b s
  | .max g d a b => Sys2Proof.Machine.execMax g d a b s
  | .sel g d a p b => Sys2Proof.Machine.execSel g d a p b s
  | .popc g d a => Sys2Proof.Machine.execPopc g d a s
  | .clz g d a => Sys2Proof.Machine.execClz g d a s
  | .addi g d a imm => Sys2Proof.Machine.execAddi g d a imm s
  | .andi g d a imm => Sys2Proof.Machine.execAndi g d a imm s
  | .ori g d a imm => Sys2Proof.Machine.execOri g d a imm s
  | .xori g d a imm => Sys2Proof.Machine.execXori g d a imm s
  | .movi g d imm => Sys2Proof.Machine.execMovi g d imm s
  | .movhi g d imm => Sys2Proof.Machine.execMovhi g d imm s
  | .mova g a n => Sys2Proof.Machine.execMova g a n s
  | .movaD g a n l => Sys2Proof.Machine.execMovaD g a n l s
  | .movs g d a => Sys2Proof.Machine.execMovs g d a s
  | .pset g p a b => Sys2Proof.Machine.execPset g p a b s
  | .bext g d a q w => Sys2Proof.Machine.execBext g d a q w s
  | .bins g d a q w => Sys2Proof.Machine.execBins g d a q w s
  | .cmp g c p a b => Sys2Proof.Machine.execCmp g c p a b s
  | .cmpi g c p a imm => Sys2Proof.Machine.execCmpi g c p a imm s
  | .vadd o => Sys2Proof.Machine.execVadd o s
  | .vsub o => Sys2Proof.Machine.execVsub o s
  | .vmul o => Sys2Proof.Machine.execVmul o s
  | .vmulh o => Sys2Proof.Machine.execVmulh o s
  | .vmad o => Sys2Proof.Machine.execVmad o s
  | .vabs o => Sys2Proof.Machine.execVabs o s
  | .vmin o => Sys2Proof.Machine.execVmin o s
  | .vmax o => Sys2Proof.Machine.execVmax o s
  | .vand o => Sys2Proof.Machine.execVand o s
  | .vor o => Sys2Proof.Machine.execVor o s
  | .vxor o => Sys2Proof.Machine.execVxor o s
  | .vshl o => Sys2Proof.Machine.execVshl o s
  | .vshr o => Sys2Proof.Machine.execVshr o s
  | .vsar o => Sys2Proof.Machine.execVsar o s
  | .vpopc o => Sys2Proof.Machine.execVpopc o s
  | .vclz o => Sys2Proof.Machine.execVclz o s
  | .vsel o => Sys2Proof.Machine.execVsel o s
  | .vcmp c o => Sys2Proof.Machine.execVcmp c o s
  | .fadd o => Sys2Proof.Machine.execFadd o s
  | .fsub o => Sys2Proof.Machine.execFsub o s
  | .fmul o => Sys2Proof.Machine.execFmul o s
  | .ffma o => Sys2Proof.Machine.execFfma o s
  | .fmin o => Sys2Proof.Machine.execFmin o s
  | .fmax o => Sys2Proof.Machine.execFmax o s
  | .fclass o => Sys2Proof.Machine.execFclass o s
  | .fdiv o => Sys2Proof.Machine.execFdiv o s
  | .fsqrt o => Sys2Proof.Machine.execFsqrt o s
  | .frcp o => Sys2Proof.Machine.execFrcp o s
  | .fexp2 o => Sys2Proof.Machine.execFexp2 o s
  | .flog2 o => Sys2Proof.Machine.execFlog2 o s
  | .fsin o => Sys2Proof.Machine.execFsin o s
  | .fcos o => Sys2Proof.Machine.execFcos o s
  | .frnd o => Sys2Proof.Machine.execFrnd o s
  | .fcmp c o => Sys2Proof.Machine.execFcmp c o s
  | .cvt o => Sys2Proof.Machine.execCvt o s
  | .dsplit o => Sys2Proof.Machine.execDsplit o s
  | .qpack o => Sys2Proof.Machine.execQpack o s
  | .qunpack o => Sys2Proof.Machine.execQunpack o s
  | .vimm o => Sys2Proof.Machine.execVimm o s
  | .vmov o => Sys2Proof.Machine.execVmov o s
  | .vbcast o => Sys2Proof.Machine.execVbcast o s
  | .vmovs o => Sys2Proof.Machine.execVmovs o s
  | .vshuf o => Sys2Proof.Machine.execVshuf o s
  | .vxcl o => Sys2Proof.Machine.execVxcl o s
  | .vlane o => Sys2Proof.Machine.execVlane o s
  | .vred o => Sys2Proof.Machine.execVred o s
  | .rdrain o => Sys2Proof.Machine.execRdrain o s
  | .vmrd o => Sys2Proof.Machine.execVmrd o s
  | .vmwr o => Sys2Proof.Machine.execVmwr o s
  | .ldv o => Sys2Proof.Machine.execLdv o s
  | .stv o => Sys2Proof.Machine.execStv o s
  | .lds o => Sys2Proof.Machine.execLds o s
  | .sts o => Sys2Proof.Machine.execSts o s
  | .ldx o => Sys2Proof.Machine.execLdx o s
  | .stx o => Sys2Proof.Machine.execStx o s
  | .ldt o => Sys2Proof.Machine.execLdt o s
  | .stt o => Sys2Proof.Machine.execStt o s
  | .ldm o => Sys2Proof.Machine.execLdm o s
  | .stm o => Sys2Proof.Machine.execStm o s
  | .amo o => Sys2Proof.Machine.execAmo o s
  | .fence h set => Sys2Proof.Machine.execFence h set s
  | .bind o => Sys2Proof.Machine.execBind o s
  | .unbind o => Sys2Proof.Machine.execUnbind o s
  | .cbset o => Sys2Proof.Machine.execCbset o s
  | .copy o => Sys2Proof.Machine.execCopy o s
  | .copyo o => Sys2Proof.Machine.execCopyo o s
  | .gatherp o => Sys2Proof.Machine.execGatherp o s
  | .mpost o => Sys2Proof.Machine.execMpost o s
  | .tqpush o => Sys2Proof.Machine.execTqpush o s
  | .streamPushLand core => Sys2Proof.Machine.execStreamPushLand core s
  | .mma o => Sys2Proof.Machine.execMma o s
  | .mmaSplit o => Sys2Proof.Machine.execMmaSplit o s
  | .mmas o => Sys2Proof.Machine.execMmas o s
  | .mmaRepeat core => Sys2Proof.Machine.execMmaRepeat core s
  | .mmaComplete core => Sys2Proof.Machine.execMmaComplete core s
  | .mzero h acc => Sys2Proof.Machine.execMzero h acc s
  | .mdrain h acc m type rows => Sys2Proof.Machine.execMdrain h acc m type rows s
  | .mdrainComplete core => Sys2Proof.Machine.execMdrainComplete core s
  | .mbsel h a => Sys2Proof.Machine.execMbsel h a s
  | .fmtt h e n => Sys2Proof.Machine.execFmtt h e n s
  | .pload h a n => Sys2Proof.Machine.execPload h a n s
  | .ploadStart core => Sys2Proof.Machine.execPloadStart core s
  | .ploadComplete core => Sys2Proof.Machine.execPloadComplete core s
  | .prun h bank index => Sys2Proof.Machine.execPrun h bank index s
  | .paneRunStart core => Sys2Proof.Machine.execPaneRunStart core s
  | .wact x y a b => Sys2Proof.Machine.execWact x y a b s
  | .wwb l p f r => Sys2Proof.Machine.execWwb l p f r s
  | .wlat l t c r => Sys2Proof.Machine.execWlat l t c r s
  | .wbr t c k => Sys2Proof.Machine.execWbr t c k s
  | .wend => Sys2Proof.Machine.execWend s
  | .arbitrationWindow core => Sys2Proof.Machine.execArbitrationWindow core s
  | .paneRunComplete core => Sys2Proof.Machine.execPaneRunComplete core s
  | .fsel o => Sys2Proof.Machine.execFsel o s
  | .fselm o => Sys2Proof.Machine.execFselm o s
  | .fins o => Sys2Proof.Machine.execFins o s
  | .fupd o => Sys2Proof.Machine.execFupd o s
  | .fdel o => Sys2Proof.Machine.execFdel o s
  | .fspill o => Sys2Proof.Machine.execFspill o s
  | .ffill o => Sys2Proof.Machine.execFfill o s
  | .fclr o => Sys2Proof.Machine.execFclr o s
  | .ssq o => Sys2Proof.Machine.execSsq o s
  | .facetCommandStart core => Sys2Proof.Machine.execFacetCommandStart core s
  | .facetMerge core => Sys2Proof.Machine.execFacetMerge core s
  | .ssuRequest core => Sys2Proof.Machine.execSsuRequest core s
  | .ssuScan core unit => Sys2Proof.Machine.execSsuScan core unit s
  | .spillVisible core => Sys2Proof.Machine.execSpillVisible core s
  | .fillTransitEnd core => Sys2Proof.Machine.execFillTransitEnd core s
  | .facetCommandComplete core => Sys2Proof.Machine.execFacetCommandComplete core s
  | .copyRow op => Sys2Proof.Machine.execCopyRow op s
  | .pageWalk op => Sys2Proof.Machine.execPageWalk op s
  | .copyComplete op => Sys2Proof.Machine.execCopyComplete op s
  | .launchAccept id => Sys2Proof.Machine.execLaunchAccept id s
  | .relaunchRun id => Sys2Proof.Machine.execRelaunchRun id s
  | .relaunchComplete id => Sys2Proof.Machine.execRelaunchComplete id s
  | .traceComplete id => Sys2Proof.Machine.execTraceComplete id s
  | .launchComplete id => Sys2Proof.Machine.execLaunchComplete id s
  | .distributorPlace => Sys2Proof.Machine.execDistributorPlace s
  | .dieReport => Sys2Proof.Machine.execDieReport s
  | .tickAdvance => Sys2Proof.Machine.execTickAdvance s
  | .runmaxBreach level => Sys2Proof.Machine.execRunmaxBreach level s
  | .taskStart core => Sys2Proof.Machine.execTaskStart core s
  | .taskRetire core => Sys2Proof.Machine.execTaskRetire core s
  | .lentSlotMove queue => Sys2Proof.Machine.execLentSlotMove queue s
  | .swapRequest core => Sys2Proof.Machine.execSwapRequest core s
  | .quantumExpiry core => Sys2Proof.Machine.execQuantumExpiry core s
  | .contextSwap core => Sys2Proof.Machine.execContextSwap core s
  | .park core => Sys2Proof.Machine.execPark core s
  | .waitTableWake core => Sys2Proof.Machine.execWaitTableWake core s
  | .mailboxRegister slot va queue n ring asid handler => Sys2Proof.Machine.execMailboxRegister slot va queue n ring asid handler s
  | .mailboxAccept slot => Sys2Proof.Machine.execMailboxAccept slot s
  | .hostMessage slot words => Sys2Proof.Machine.execHostMessage slot words s
  | .hostMemoryWrite place bytes => Sys2Proof.Machine.execHostMemoryWrite place bytes s
  | .hostMemoryRead place n => Sys2Proof.Machine.execHostMemoryRead place n s
  | .stampedWriteApply die => Sys2Proof.Machine.execStampedWriteApply die s
  | .frontierPublish die => Sys2Proof.Machine.execFrontierPublish die s
  | .replicatedWrite id => Sys2Proof.Machine.execReplicatedWrite id s
  | .linkIngressWrite die place bytes => Sys2Proof.Machine.execLinkIngressWrite die place bytes s
  | .linkReplay link => Sys2Proof.Machine.execLinkReplay link s
  | .coreResume core => Sys2Proof.Machine.execCoreResume core s
  | .taskKill core => Sys2Proof.Machine.execTaskKill core s
  | .cwinWrite core w => Sys2Proof.Machine.execCwinWrite core w s
  | .cpartWrite core w => Sys2Proof.Machine.execCpartWrite core w s
  | .cfstatWrite core n w => Sys2Proof.Machine.execCfstatWrite core n w s
  | .spdatRead core => Sys2Proof.Machine.execSpdatRead core s
  | .spdatWrite core w => Sys2Proof.Machine.execSpdatWrite core w s
  | .ticklenWrite w => Sys2Proof.Machine.execTicklenWrite w s
  | .slipLogPop => Sys2Proof.Machine.execSlipLogPop s
  | .tlbInvalidate die => Sys2Proof.Machine.execTlbInvalidate die s
  | .tlbInvalidateAsid die => Sys2Proof.Machine.execTlbInvalidateAsid die s
  | .splinter die => Sys2Proof.Machine.execSplinter die s
  | .invalidationComplete die => Sys2Proof.Machine.execInvalidationComplete die s
  | .faultRetry die tag => Sys2Proof.Machine.execFaultRetry die tag s
  | .faultRefuse die tag => Sys2Proof.Machine.execFaultRefuse die tag s
  | .faultLogPop die => Sys2Proof.Machine.execFaultLogPop die s
  | .trsbaseWrite w => Sys2Proof.Machine.execTrsbaseWrite w s
  | .registerWrite actor die off w => Sys2Proof.Machine.execRegisterWrite actor die off w s
  | .deviceReset => Sys2Proof.Machine.execDeviceReset s
  | .powerOn => Sys2Proof.Machine.execPowerOn s
  | .bootStageAdvance die => Sys2Proof.Machine.execBootStageAdvance die s
  | .recoveryImage die verified => Sys2Proof.Machine.execRecoveryImage die verified s
  | .channelFence stack failed => Sys2Proof.Machine.execChannelFence stack failed s
  | .softErrorCorrect die => Sys2Proof.Machine.execSoftErrorCorrect die s
  | .powerThrottle blocks => Sys2Proof.Machine.execPowerThrottle blocks s
  | .thermalTrip die => Sys2Proof.Machine.execThermalTrip die s
  | .packageRestart temp => Sys2Proof.Machine.execPackageRestart temp s
  | .routeReturn die pkg => Sys2Proof.Machine.execRouteReturn die pkg s
  | .hostLinkDown => Sys2Proof.Machine.execHostLinkDown s
  | .firmwareMemoryWrite die addr bytes => Sys2Proof.Machine.execFirmwareMemoryWrite die addr bytes s

end Sys2Proof.Machine
end

