-- ==== Sys2Proof/Machine/Events.lean ====
section
/-! DEFINITION. Which step of the machine comes next (log 1). A cycle has three phases: what its beginning brings (landing
traps, marks, waits, panes), the bundles, and what engines, the distributor and the outside world do in it. In each phase
the first step that is due comes next, by cores in ascending number; every step that is due leaves a state in which it is
not due again in that cycle without a cause. -/

namespace Sys2Proof.Machine

/-- The step chosen, and the core it acts on. -/
abbrev Choice := Option (Nat × Instr)

/-- A step of a core when it is due, else a later choice. -/
def orElse (due : Bool) (core : Nat) (i : Instr) (rest : Unit → Choice) : Choice := if due then some (core, i) else rest ()

/-- The first choice over a list. -/
def overAll {α : Type} (f : α → Choice) : List α → Choice
  | [] => none
  | x :: l => match f x with
    | some c => some c
    | none => overAll f l

/-- The first of two choices. -/
def thenTry (a : Choice) (b : Unit → Choice) : Choice := match a with
  | some c => some c
  | none => b ()

/-! ## The beginning of a cycle -/

/-- The micro-operation that a run executes in this cycle (R98 to R100, R245). A run whose branches never reach a half-step
goes on for ever without effect. -/
def Core.paneStep (c : Core) (cycle : Nat) : Option Instr :=
  match c.pane.run with
  | none => none
  | some r =>
    if r.spins then none
    else match c.microAt r with
      | some (.wact x y a b) => if r.at_ ≤ cycle then some (.wact x y a b) else none
      | some (.wlat l t k n) => if r.at_ ≤ cycle then some (.wlat l t k n) else none
      | some (.wwb l p f n) => if r.at_ + 1 ≤ cycle then some (.wwb l p f n) else none
      | some (.wbr t k n) => if r.between cycle then some (.wbr t k n) else none
      | some .wend => if r.between cycle then some .wend else none
      | _ => none

/-- May a pane run start in this cycle? -/
def Core.runStarts (c : Core) (cycle : Nat) : Bool := match c.pane.mayStart cycle with
  | some e => match e.cmd with
    | .run _ _ => true
    | .load _ _ => false
  | none => false

/-- The pane sequencer of a core. -/
def Core.paneChoice (c : Core) (core cycle : Nat) : Choice :=
  orElse (c.runStarts cycle) core (.paneRunStart core) fun _ =>
  match c.paneStep cycle with
  | some i => some (core, i)
  | none => orElse ((c.windowOpens cycle).isSome || (c.windowServes cycle).isSome) core (.arbitrationWindow core) fun _ => none

/-- What a cycle begins with on a core. -/
def State.beginChoice (s : State) (core : Nat) : Choice :=
  let c := s.core core
  let x := c.act
  orElse (!x.fp.isEmpty) core (.fpTrap core) fun _ =>
  orElse (x.rollbackDue s.cycle).isSome core (.rollback core) fun _ =>
  orElse x.nextCommit.isSome core (.markCommit core) fun _ =>
  orElse x.satisfied.isSome core (.waitSatisfied core) fun _ =>
  orElse ((c.firstCtx fun y => y.cleared s.cycle).isSome) core (.taskStart core) fun _ =>
  c.paneChoice core s.cycle

/-- The barrier instance whose members are released in this cycle. -/
def State.releaseChoice (s : State) : Choice :=
  overAll (fun (b : Barrier) => if s.releaseDue b then some (s.cur, .barrierRelease b.id) else none) s.dist.barriers

/-! ## Bundles -/

/-- The nullifier, the watchdog and the issue of a core. -/
def State.issueChoice (s : State) (core : Nat) : Choice :=
  let c := s.core core
  if c.ready s.cycle then
    orElse (c.skipDue s.cycle).isSome core (.nullifierSkip core) fun _ =>
    orElse (s.distanceDue core) core (.markDistanceTrap core) fun _ => some (core, .bundleIssue core)
  else orElse c.offersHeld core (.bundleIssue core) fun _ => none

/-! ## Engines -/

/-- Has the matrix engine an issue of a repeat in this cycle? -/
def Matrix.repeatDue (m : Matrix) (cycle : Nat) : Bool := match m.rep with
  | some r => decide (0 < r.left) && decide (r.at_ ≤ cycle) && (match r.entry with
    | some e => (mmaPlan r.op e).isSome
    | none => (splitPlan r.op).isSome)
  | none => false

/-- The matrix engine, and pushes that wait for their rows (R34). -/
def State.engineChoice (s : State) (core : Nat) : Choice :=
  let c := s.core core
  orElse (c.mx.repeatDue s.cycle) core (.mmaRepeat core) fun _ =>
  orElse (c.mx.due s.cycle false).isSome core (.mmaComplete core) fun _ =>
  orElse (c.mx.due s.cycle true).isSome core (.mdrainComplete core) fun _ =>
  orElse (decide (c.pushAt ≤ s.cycle) && !(c.waitingPushes s.cycle).isEmpty) core (.streamPushLand core) fun _ => none

/-- A copy-class operation (R193). -/
def State.copyChoice (s : State) (o : CopyOp) : Choice :=
  let due := decide (o.notBefore ≤ s.cycle)
  match o.stage with
  | .ready => if due && decide (o.kind ≤ 4) then some (o.core, .copyRow o.id) else none
  | .walk _ => if s.walkDue o then some (o.core, .pageWalk o.id) else none
  | .faulted none _ _ _ =>
    if (s.die o.die).freeTag.isSome && decide ((s.die o.die).faults.length < 64) then some (o.core, .copyRow o.id) else none
  | _ => if s.opReady o then some (o.core, .copyComplete o.id) else none

/-- Does a load begin or read a row in this cycle (R212)? -/
def Core.loadDue (c : Core) (cycle : Nat) : Bool :=
  (match c.pane.load with
    | some l => !l.rows.isEmpty && decide (l.last < cycle)
    | none => false) ||
  (match c.pane.mayStart cycle with
    | some e => match e.cmd with
      | .load _ _ => true
      | .run _ _ => false
    | none => false)

/-- Is a load complete (R212)? -/
def Core.loadDone (c : Core) : Bool := match c.pane.load with
  | some l => l.rows.isEmpty
  | none => false

/-- Has the facet engine of a core a merge to make or a record to push? -/
def Core.mergeDue (c : Core) (cycle : Nat) : Bool :=
  (match c.facet.sel with
    | some z => z.mergeable cycle || z.pushing cycle
    | none => false) ||
  (match c.ssq with
    | some w => w.pushing cycle
    | none => false)

/-- The readers of the scratchpad that come after the copies (R34, R212, R217), and the stack search units. -/
def State.facetChoice (s : State) (core : Nat) : Choice :=
  let c := s.core core
  orElse (c.loadDue s.cycle) core (.ploadStart core) fun _ =>
  orElse c.loadDone core (.ploadComplete core) fun _ =>
  orElse ((c.facetHead s.cycle).isSome || c.ssqReady s.cycle) core (.facetCommandStart core) fun _ =>
  orElse (s.ssuNext core).isSome core (.ssuRequest core) fun _ =>
  match s.scanDue core with
  | some u => some (core, .ssuScan core u)
  | none =>
    orElse (s.ssuVisible core false).isSome core (.spillVisible core) fun _ =>
    orElse (s.ssuVisible core true).isSome core (.fillTransitEnd core) fun _ =>
    orElse (c.mergeDue s.cycle) core (.facetMerge core) fun _ =>
    orElse (c.facetDone s.cycle).isSome core (.facetCommandComplete core) fun _ => none

/-! ## The package -/

/-- The writes on their way (R315, R316, R321). -/
def State.writeChoice (s : State) : Choice :=
  thenTry (overAll (fun (e : Nat × Die) =>
    orElse (s.applicable e.1 [] e.2.incoming).isSome s.cur (.stampedWriteApply e.1) fun _ =>
    orElse (decide (e.2.af < s.frontier e.1)) s.cur (.frontierPublish e.1) fun _ =>
    match e.2.inval with
    | some v => if s.invalDone v then some (s.cur, .invalidationComplete e.1) else none
    | none => none) s.dies) fun _ =>
  overAll (fun (w : RepWrite) => if s.repReady w then some (s.cur, .replicatedWrite w.id) else none) s.reps

/-- The tasks and the contexts of a core (R41, R242, R302, R306). -/
def State.taskChoice (s : State) (core : Nat) : Choice :=
  orElse (s.leavingCtx core).isSome core (.taskRetire core) fun _ =>
  orElse (s.startCtx core).isSome core (.taskStart core) fun _ =>
  orElse (s.wakeDue core) core (.waitTableWake core) fun _ =>
  orElse (s.requestDue core) core (.swapRequest core) fun _ =>
  orElse (s.parkDue core) core (.park core) fun _ =>
  orElse (s.swapDue core) core (.contextSwap core) fun _ => none

/-- Launches, relaunches and traces (R144, R145, R302, R362 to R367). -/
def State.launchChoice (s : State) : Choice :=
  thenTry (overAll (fun (o : CopyOp) =>
    orElse (s.launchReady o) o.core (.launchAccept o.id) fun _ =>
    orElse (s.traceReady o) o.core (.traceComplete o.id) fun _ => none) s.ops) fun _ =>
  overAll (fun (l : Launch) =>
    orElse (s.relaunchReady l) s.cur (.relaunchRun l.num) fun _ =>
    orElse (s.relaunchDone l) s.cur (.relaunchComplete l.num) fun _ =>
    orElse (!l.relaunch && s.launchDone l) s.cur (.launchComplete l.num) fun _ => none) s.dist.launches

/-- The numbers of the rings (R283, R300): of the queues, and of every gang's pipes. -/
def State.ringNumbers (s : State) : List Nat :=
  s.dist.queues.map (fun e => e.1) ++ s.dist.gangs.flatMap fun e => match e.2 with
    | some g => g.pipes.map fun p => 256 + 32 * e.1 + p.1
    | none => []

/-- The distributor (R283, R287, R290, R293, R304). -/
def State.distributorChoice (s : State) : Choice :=
  thenTry (s.ringDue.map fun e => (s.cur, .mailboxAccept e.1)) fun _ =>
  thenTry (overAll (fun (e : Nat × Option Mailbox) =>
    if s.acceptDue e.1 then some (s.cur, .mailboxAccept e.1) else none) s.dist.mailboxes) fun _ =>
  orElse s.tickDue s.cur .tickAdvance fun _ =>
  thenTry (overAll (fun p => if (s.breach p).isSome then some (s.cur, .runmaxBreach p) else none) [0, 1, 2]) fun _ =>
  overAll (fun n => if s.moveDue n then some (s.cur, .lentSlotMove n) else none) s.ringNumbers

/-! ## The outside world -/

/-- Is a step one that comes from outside the package, or from firmware? -/
def isInput : Instr → Bool
  | .quantumExpiry _ | .mailboxRegister _ _ _ _ _ _ _ | .hostMessage _ _ | .hostMemoryWrite _ _ | .hostMemoryRead _ _
  | .linkIngressWrite _ _ _ | .linkReplay _ | .coreResume _ | .taskKill _ | .cwinWrite _ _ | .cpartWrite _ _
  | .cfstatWrite _ _ _ | .spdatRead _ | .spdatWrite _ _ | .ticklenWrite _ | .slipLogPop | .tlbInvalidate _
  | .tlbInvalidateAsid _ | .splinter _ | .faultRetry _ _ | .faultRefuse _ _ | .faultLogPop _ | .trsbaseWrite _
  | .registerWrite _ _ _ _ | .deviceReset | .powerOn | .bootStageAdvance _ | .recoveryImage _ _ | .channelFence _ _
  | .softErrorCorrect _ | .powerThrottle _ | .thermalTrip _ | .packageRestart _ | .routeReturn _ _ | .hostLinkDown
  | .firmwareMemoryWrite _ _ _ => true
  | _ => false

/-- Does an input end a stop (R347, R349)? -/
def isRestart : Instr → Bool
  | .packageRestart _ | .deviceReset | .powerOn => true
  | _ => false

/-- The first input that a test picks, and the inputs without it. -/
def takeInput (p : Nat × Instr → Bool) : List (Nat × Instr) → Option (Instr × List (Nat × Instr))
  | [] => none
  | e :: l => if p e then some (e.2, l) else (takeInput p l).map fun r => (r.1, e :: r.2)

/-- The input that takes effect in this cycle. -/
def State.nextInput (s : State) : Option (Instr × List (Nat × Instr)) :=
  takeInput (fun e => decide (e.1 ≤ s.cycle) && isInput e.2) s.inputs

/-- The input that restarts a stopped package. -/
def State.nextRestart (s : State) : Option (Instr × List (Nat × Instr)) := takeInput (fun e => isRestart e.2) s.inputs

/-! ## The order of a cycle -/

/-- The cores that have ever held anything, in ascending number. -/
def State.coreNumbers (s : State) : List Nat := s.cores.map fun e => e.1

/-- The steps of the beginning of a cycle, then the bundles. -/
def State.earlyChoice (s : State) : Choice :=
  thenTry (overAll s.beginChoice s.coreNumbers) fun _ =>
  thenTry s.releaseChoice fun _ => overAll s.issueChoice s.coreNumbers

/-- The steps after the bundles, up to those of the outside world. -/
def State.lateChoice (s : State) : Choice :=
  orElse (decide (s.dist.reportAt ≤ s.cycle)) s.cur .dieReport fun _ =>
  thenTry (overAll s.engineChoice s.coreNumbers) fun _ =>
  thenTry (overAll s.copyChoice s.ops) fun _ =>
  thenTry (overAll s.facetChoice s.coreNumbers) fun _ =>
  thenTry s.writeChoice fun _ =>
  thenTry (overAll s.taskChoice s.coreNumbers) fun _ =>
  thenTry s.launchChoice fun _ =>
  thenTry s.distributorChoice fun _ => s.hostReady.map fun i => (s.cur, i)

/-- The steps that come last: the search for a placement, and the end of pane runs. -/
def State.lastChoice (s : State) : Choice :=
  orElse s.searchDue s.cur .distributorPlace fun _ =>
  overAll (fun core =>
    if ((s.core core).runEnds s.cycle).isSome then some (core, .paneRunComplete core) else none) s.coreNumbers

/-- What a step does: a step of the machine on a core, an input with the inputs that are left, or nothing. -/
inductive Next where
  | event (core : Nat) (i : Instr)
  | input (i : Instr) (rest : List (Nat × Instr))
  | idle
  deriving DecidableEq, Repr

/-- A choice as what comes next. -/
def Choice.orNext (c : Choice) (rest : Unit → Next) : Next := match c with
  | some e => .event e.1 e.2
  | none => rest ()

/-- An input as what comes next. -/
def inputOr (i : Option (Instr × List (Nat × Instr))) (rest : Unit → Next) : Next := match i with
  | some e => .input e.1 e.2
  | none => rest ()

/-- What comes next in this cycle; idle when the cycle is over, or while the package is stopped (R349). -/
def nextEvent (s : State) : Next :=
  if s.stopped then inputOr s.nextRestart fun _ => .idle
  else s.earlyChoice.orNext fun _ => s.lateChoice.orNext fun _ => inputOr s.nextInput fun _ => s.lastChoice.orNext fun _ => .idle

end Sys2Proof.Machine
end

