-- ==== Sys2Proof/Machine/Step.lean ====
section
/-! DEFINITION. The step of the machine, and the placement of an instruction where the next step runs it. -/

namespace Sys2Proof.Machine

/-- One step (log 1): the next step of the machine that is due in this cycle, on its core; else the cycle ends. A stopped
package stays as it is. -/
def step (s : State) : Host.Outcome State Fault Refusal :=
  match nextEvent s with
  | .event core i => exec i { s with cur := core }
  | .input i rest => exec i { s with inputs := rest }
  | .idle => .next (if s.stopped then s else s.tick)

/-! ## Placing an instruction (log 6) -/

/-- A task as a launch from outside would place it. -/
def placedTask : Task :=
  { launch := 0, blk := 0, asid := 0, prio := 0, entry := 0, succ := [], chk := false, gang := none, bars := 0
    fromQueue := none, mailbox := none, release := 0, preload := [], trace := 0, base := 0, placed := 0 }

/-- The bits of a bundle with one slot's word, its slot allotted read port 0 (R75, R77). -/
def oneSlotBundle (slot w : Nat) : Nat :=
  match slot with
  | 0 => w * 2 ^ 32
  | 1 => w * 2 ^ 64
  | 2 => w * 2 ^ 96
  | 3 => 2 ^ 13 + w * 2 ^ 128
  | 4 => 2 * 2 ^ 13 + w * 2 ^ 192
  | 5 => 3 * 2 ^ 13 + w * 2 ^ 256
  | _ => w * 2 ^ 320

/-- The 25 indices of a literal bundle (R71). -/
def literalIndices (bits : Nat) : List Nat := 0xFFFF :: (List.range 24).map fun k => field bits (16 * k) 16

/-- Indices written to code memory from an index on. -/
def writeCode : Store (BitVec 16) → Nat → List Nat → Store (BitVec 16)
  | t, _, [] => t
  | t, n, x :: l => writeCode (Store.set 0#16 t n (BitVec.ofNat 16 x)) (n + 1) l

/-- A context that runs a task, at a PC, its next bundle free to issue. -/
def Ctx.placed (x : Ctx) (cycle : Nat) : Ctx :=
  let regs := { x.regs with pc := 0 }
  { x with
    regs := regs, task := some (x.task.getD placedTask), phase := .running, held := false, trap := none, fp := []
    waits := [], tried := false, nextAt := cycle, yield := false
    partition := if x.partition = 0#32 then 0x42000000#32 else x.partition
    marks := if x.marks.isEmpty then [⟨x.seq, cycle, true, regs⟩] else x.marks }

/-- That context with a bundle in its code window. -/
def Ctx.withBundle (x : Ctx) (cycle bits : Nat) : Ctx :=
  { (x.placed cycle) with codeWin := 0x20000#32, code := writeCode x.code 0 (literalIndices bits) }

/-- A pane run whose next micro-operation is the first of the store. -/
def placedRun (cid : Bool) (cycle : Nat) : PaneRun :=
  { entry := ⟨cid, 1, 0, 0, .run 8 0⟩, t0 := cycle - 1, index := 0, ro := 0, lc := 0, armed := false, andL := 0#1024
    norL := 0#1024, carry := 0#1024, pred := 0#1024, at_ := cycle - 1, count := 0, afterWact := false, windowEnd := 0
    window := 0, half := true, spin := 0 }

/-- A core with a micro-operation next in its pane run. -/
def Core.withMicro (c : Core) (cycle w : Nat) : Core :=
  let x := { (c.act.placed (cycle + 1)) with micro := some (BitVec.ofNat 32 w :: List.replicate 255 0xA0000000#32) }
  { c with act := x, pane := { c.pane with run := some (placedRun x.cid cycle), busy := some 8 } }

/-- `s` with an instruction placed where the next step runs it: a slot word in a literal bundle at the PC of core 0, a
micro-operation in a pane run of core 0; the bits above `nbits` are zero. -/
def State.withFetchWord (s : State) (nbits w : Nat) : State :=
  match wordSlot nbits w with
  | none => s
  | some 7 =>
    let cycle := max s.cycle 1
    { (s.onCore 0 fun c => c.withMicro cycle w) with cycle := cycle, stopped := false }
  | some slot =>
    let s1 := s.onCore 0 fun c => { c with act := c.act.withBundle s.cycle (oneSlotBundle slot w), swapWanted := none }
    { s1 with stopped := false }

end Sys2Proof.Machine
end

