-- ==== Sys2Proof/Safety.lean ====
section
/-! DEFINITION. What counts as a safe run, and the terms the statements use: what a slot puts in flight, when nothing
clashes, and the tables of results that the rules give. -/

namespace Sys2Proof

open Sys2Proof.Machine

/-- A step completes: it answers a next state. -/
def Completes (o : Out) : Prop := ∃ s, o = .next s

/-- A run of `n` steps from `s` completes when no step of it faults or is refused. -/
def RunsSafely : Nat → State → Prop
  | 0, _ => True
  | n + 1, s => ∃ s', step s = .next s' ∧ RunsSafely n s'

/-- Does a lane of a cluster take part in a vector slot: the cluster is in the mask, the guard bit is true (R81, R88)? -/
def VOp.active (o : VOp) (r : Regs) (cl l : Nat) : Bool :=
  o.mask.getLsbD cl && ((r.readP cl o.gp.toNat).getLsbD l != o.gs)

/-- Is a slot's guard other than the one that never executes (R81)? -/
def VOp.runs (o : VOp) : Prop := ¬ (o.gp = 0#4 ∧ o.gs = true)

/-- Does the mask of a slot hold a cluster? -/
def VOp.has (o : VOp) (cl : Nat) : Prop := cl < 8 ∧ o.mask.getLsbD cl = true

/-- The guard of a lane of an M slot (R81, R180). -/
def MHead.laneOn (h : MHead) (r : Regs) (cl l : Nat) : Bool :=
  h.mask.getLsbD cl && (if h.gk then (r.readP cl h.gn.toNat).getLsbD l != h.gs else r.readSp (h.gn.toNat % 8) != h.gs)

end Sys2Proof

namespace Sys2Proof.Machine

/-- The result a slot of the bundle being issued puts in flight, readable from a cycle on (R8). -/
def State.flight (s : State) (slot : Slot) (due : Nat) (e : Eff) : Landing :=
  ⟨due, s.act.seq, slot, s.here.iss.pc, s.here.iss.post, false, e⟩

/-- The state with results in flight behind those that were. -/
def State.inFlight (s : State) (l : List Landing) : State := s.onAct fun x => { x with pend := x.pend ++ l }

/-- No other slot of the bundle has written what a slot is to write (R102). -/
def State.clear (s : State) (slot : Slot) (e : Eff) : Prop :=
  ∀ o ∈ s.act.pend, o.seq = s.act.seq → (o.eng = false ∨ o.slot = .c) → o.slot ≠ slot → Eff.clash o.eff e = none

/-- Nothing but the core whose slots execute, the counter of the free values and what the operation hands on changes:
the other cores, every byte of memory outside the pool of that core, the dies, the tables and the clock. -/
def State.sameOutside (s t : State) : Prop :=
  t.cycle = s.cycle ∧ t.cur = s.cur ∧ (∀ n, n ≠ s.cur → t.core n = s.core n) ∧ t.dies = s.dies ∧ t.hbm = s.hbm ∧
    t.host = s.host ∧ t.pod = s.pod ∧ t.roots = s.roots ∧ t.images = s.images ∧ t.reps = s.reps ∧
    t.hwbase = s.hwbase ∧ t.hasid = s.hasid ∧ t.hstat = s.hstat ∧ t.stopped = s.stopped ∧ t.inputs = s.inputs

/-- The registers of the context whose slots execute, its status and its memory are as they were: what a slot has done
is in flight. -/
def State.sameHere (s t : State) : Prop :=
  t.act.regs = s.act.regs ∧ t.act.fstat = s.act.fstat ∧ t.act.fmt = s.act.fmt ∧ t.act.partition = s.act.partition ∧
    t.act.codeWin = s.act.codeWin ∧ t.act.marks = s.act.marks ∧ t.here.shadow = s.here.shadow ∧
    (∀ a, Memory.read t.here.pool a = Memory.read s.here.pool a) ∧ t.here.bstore = s.here.bstore ∧
    t.here.facets = s.here.facets ∧ t.here.spill = s.here.spill ∧ t.here.trap0 = s.here.trap0 ∧
    t.here.trap1 = s.here.trap1 ∧ t.here.mpc = s.here.mpc

/-! ## The scalar slots -/

/-- Leading zeros of a word. -/
def leadingZeros (x : Word) : Nat := ((List.range 32).takeWhile fun k => !x.getLsbD (31 - k)).length

/-- The number of one bits of a word. -/
def oneBits (x : Word) : Nat := (List.range 32).countP fun k => x.getLsbD k

/-- The comparisons of R149. -/
def holdsCond (c : BitVec 3) (a b : Word) : Bool :=
  match c.toNat with
  | 0 => a == b
  | 1 => a != b
  | 2 => a.slt b
  | 3 => !(b.slt a)
  | 4 => b.slt a
  | 5 => !(a.slt b)
  | 6 => a.ult b
  | _ => !(a.ult b)

/-- What each scalar operation writes and its latency, as R147 to R151 give it. -/
def scalarEffect (r : Regs) : Instr → Option (SHead × Nat × Eff)
  | .add g d a b => some (g, 1, .s d.toNat (r.readS a.toNat + r.readS b.toNat))
  | .addi g d a i => some (g, 1, .s d.toNat (r.readS a.toNat + i.signExtend 32))
  | .sub g d a b => some (g, 1, .s d.toNat (r.readS a.toNat - r.readS b.toNat))
  | .mul g d a b => some (g, 3, .s d.toNat (BitVec.ofNat 32 ((r.readS a.toNat).toNat * (r.readS b.toNat).toNat)))
  | .mulh g d a b =>
    some (g, 3, .s d.toNat (((r.readS a.toNat).signExtend 64 * (r.readS b.toNat).signExtend 64).extractLsb' 32 32))
  | .and g d a b => some (g, 1, .s d.toNat (r.readS a.toNat &&& r.readS b.toNat))
  | .or g d a b => some (g, 1, .s d.toNat (r.readS a.toNat ||| r.readS b.toNat))
  | .xor g d a b => some (g, 1, .s d.toNat (r.readS a.toNat ^^^ r.readS b.toNat))
  | .andn g d a b => some (g, 1, .s d.toNat (r.readS a.toNat &&& ~~~ r.readS b.toNat))
  | .andi g d a i => some (g, 1, .s d.toNat (r.readS a.toNat &&& i.zeroExtend 32))
  | .ori g d a i => some (g, 1, .s d.toNat (r.readS a.toNat ||| i.zeroExtend 32))
  | .xori g d a i => some (g, 1, .s d.toNat (r.readS a.toNat ^^^ i.zeroExtend 32))
  | .min g d a b =>
    some (g, 1, .s d.toNat (if (r.readS b.toNat).slt (r.readS a.toNat) then r.readS b.toNat else r.readS a.toNat))
  | .max g d a b =>
    some (g, 1, .s d.toNat (if (r.readS a.toNat).slt (r.readS b.toNat) then r.readS b.toNat else r.readS a.toNat))
  | .popc g d a => some (g, 1, .s d.toNat (BitVec.ofNat 32 (oneBits (r.readS a.toNat))))
  | .clz g d a => some (g, 1, .s d.toNat (BitVec.ofNat 32 (leadingZeros (r.readS a.toNat))))
  | .shl g d a b =>
    some (g, 1, .s d.toNat (BitVec.ofNat 32 ((r.readS a.toNat).toNat * 2 ^ ((r.readS b.toNat).toNat % 64))))
  | .shlImm g d a k => some (g, 1, .s d.toNat (BitVec.ofNat 32 ((r.readS a.toNat).toNat * 2 ^ k.toNat)))
  | .shr g d a b =>
    some (g, 1, .s d.toNat (BitVec.ofNat 32 ((r.readS a.toNat).toNat / 2 ^ ((r.readS b.toNat).toNat % 64))))
  | .shrImm g d a k => some (g, 1, .s d.toNat (BitVec.ofNat 32 ((r.readS a.toNat).toNat / 2 ^ k.toNat)))
  | .sar g d a b =>
    some (g, 1, .s d.toNat (BitVec.ofInt 32 ((r.readS a.toNat).toInt / 2 ^ ((r.readS b.toNat).toNat % 64))))
  | .sarImm g d a k => some (g, 1, .s d.toNat (BitVec.ofInt 32 ((r.readS a.toNat).toInt / 2 ^ k.toNat)))
  | .sel g d a p b => some (g, 1, .s d.toNat (if r.readSp p.toNat then r.readS a.toNat else r.readS b.toNat))
  | .pset g p a b => some (g, 1, .sp p.toNat ((r.readS a.toNat).getLsbD b.toNat))
  | .movi g d i => some (g, 1, .s d.toNat (i.signExtend 32))
  | .movhi g d i => some (g, 1, .s d.toNat (i ++ (r.readS d.toNat).extractLsb' 0 16))
  | .mova g a n => some (g, 1, .a a.toNat (r.readS n.toNat))
  | .movaD g a n l => some (g, 1, .aut (6 * a.toNat + l.toNat) ((r.readS n.toNat).extractLsb' 0 24))
  | .movs g d a => some (g, 1, .s d.toNat (r.readA a.toNat))
  | .bext g d a q w =>
    some (g, 1, .s d.toNat (BitVec.ofNat 32 ((r.readS a.toNat).toNat / 2 ^ q.toNat % 2 ^ (w.toNat + 1))))
  | .bins g d a q w =>
    let mask := BitVec.ofNat 32 (2 ^ (w.toNat + 1) - 1) <<< q.toNat
    some (g, 1, .s d.toNat ((r.readS d.toNat &&& ~~~ mask) ||| ((r.readS a.toNat <<< q.toNat) &&& mask)))
  | .cmp g c p a b => some (g, 1, .sp p.toNat (holdsCond c (r.readS a.toNat) (r.readS b.toNat)))
  | .cmpi g c p a i => some (g, 1, .sp p.toNat (holdsCond c (r.readS a.toNat) (i.signExtend 32)))
  | _ => none

/-- Is a result one of those that are discarded (R21)? -/
def Eff.discarded : Eff → Bool
  | .s n _ => decide (n = 0)
  | .sp n _ => decide (n = 0)
  | _ => false

/-! ## The vector slots -/

/-- Element k of width w (at most 32) of a lane (R43). -/
def elemOf (w k : Nat) (x : Word) : Nat := x.toNat / 2 ^ (w * k) % 2 ^ w

/-- The value that bits stand for under an integer type: even codes are signed (R42, R44). -/
def valueOf (t x : Nat) : Int :=
  if t % 2 = 0 ∧ 2 ^ (width t - 1) ≤ x % 2 ^ width t then (x % 2 ^ width t : Nat) - 2 ^ width t else (x % 2 ^ width t : Nat)

/-- Fit of R158: the bits of the nearest value of the type under .sat, else the value mod 2^w. -/
def fitted (o : VOp) (x : Int) : Nat :=
  let w := width o.type.toNat
  let y := if o.sat then
    (if o.type.toNat % 2 = 0 then min (max x (-(2 ^ (w - 1)))) (2 ^ (w - 1) - 1) else min (max x 0) (2 ^ w - 1)) else x
  (y % 2 ^ w).toNat

/-- What each integer instruction makes of elements A, B and Dv of width w, with its latency (R157, R158). -/
def vectorInt : Instr → Option (VOp × Nat × (Nat → Nat → Nat → Nat))
  | .vadd o => some (o, 2, fun a b _ => fitted o (valueOf o.type.toNat a + valueOf o.type.toNat b))
  | .vsub o => some (o, 2, fun a b _ => fitted o (valueOf o.type.toNat a - valueOf o.type.toNat b))
  | .vmul o => some (o, 3, fun a b _ => fitted o (valueOf o.type.toNat a * valueOf o.type.toNat b))
  | .vmulh o => some (o, 3, fun a b _ =>
      ((valueOf o.type.toNat a * valueOf o.type.toNat b / 2 ^ width o.type.toNat) % 2 ^ width o.type.toNat).toNat)
  | .vmad o => some (o, 3, fun a b d =>
      fitted o (valueOf o.type.toNat d + valueOf o.type.toNat a * valueOf o.type.toNat b))
  | .vabs o => some (o, 2, fun a _ _ => fitted o (max (valueOf o.type.toNat a) (-(valueOf o.type.toNat a))))
  | .vmin o => some (o, 2, fun a b _ => if valueOf o.type.toNat b < valueOf o.type.toNat a then b else a)
  | .vmax o => some (o, 2, fun a b _ => if valueOf o.type.toNat a < valueOf o.type.toNat b then b else a)
  | .vand o => some (o, 2, fun a b _ => a &&& b)
  | .vor o => some (o, 2, fun a b _ => a ||| b)
  | .vxor o => some (o, 2, fun a b _ => a ^^^ b)
  | .vshl o => some (o, 2, fun a b _ => fitted o (valueOf o.type.toNat a * 2 ^ b))
  | .vshr o => some (o, 2, fun a b _ => a / 2 ^ b)
  | .vsar o => some (o, 2, fun a b _ =>
      ((if 2 ^ (width o.type.toNat - 1) ≤ a then (a : Int) - 2 ^ width o.type.toNat else a) / 2 ^ b %
        2 ^ width o.type.toNat).toNat)
  | .vpopc o => some (o, 2, fun a _ _ => (List.range (width o.type.toNat)).countP fun k => a.testBit k)
  | .vclz o => some (o, 2, fun a _ _ =>
      ((List.range (width o.type.toNat)).takeWhile fun k => !a.testBit (width o.type.toNat - 1 - k)).length)
  | _ => none

/-- Has an integer instruction a second source? -/
def hasSource2 : Instr → Bool
  | .vabs _ | .vpopc _ | .vclz _ => false
  | _ => true

/-- Lane l of cluster cl of a named register (R20, R22). -/
def Regs.lane (r : Regs) (cl n l : Nat) : Word := Store.get 0#32 r.v (vKey cl (r.physical n) l)

/-- Every operand a slot names may be named: registers of the task, bound streams, bypass registers (R24, R28). -/
def State.named (s : State) (l : List (Nat × Nat)) : Prop := ∀ e ∈ l, s.act.badName e.1 = false

/-- The lanes read for source 1 and source 2, and what the reads leave (R153). -/
def State.operands (s : State) (o : VOp) (two : Bool) :
    (Nat → List Word) × (Nat → List Word) × State :=
  let r1 := s.readField o.slotOf 22 o.src1.toNat (clustersOf o)
  let r2 := if two then r1.2.readSrc2 o (clustersOf o) else ([], r1.2)
  (clLanes r1.1, clLanes r2.1, r2.2)

/-- Lanes given for each cluster of a mask, in ascending order. -/
def perCluster (o : VOp) (v : Nat → List Word) : List (Nat × List Word) := (clustersOf o).map fun cl => (cl, v cl)

/-- The value of a lane in flight for a register: the cells of a landing. -/
def cellOf (l : List (Nat × Word)) (k : Nat) : Option Word := (l.find? fun e => decide (e.1 = k)).map fun e => e.2

/-- What each floating-point arithmetic instruction computes on elements A, B and Dv, with its latencies for .bf and
.f32, and for .f64 (R160 to R162). -/
def vectorFloat : Instr → Option (VOp × Nat × Nat × (Nat → Nat → Nat → FRes))
  | .fadd o => some (o, 4, 6, fun a b _ => fAdd o.type.toNat o.rnd.toNat a b)
  | .fsub o => some (o, 4, 6, fun a b _ => fSub o.type.toNat o.rnd.toNat a b)
  | .fmul o => some (o, 4, 6, fun a b _ => fMul o.type.toNat o.rnd.toNat a b)
  | .ffma o => some (o, 4, 6, fun a b d => fFma o.type.toNat o.rnd.toNat a b d)
  | .fmin o => some (o, 2, 6, fun a b _ => fMinMax o.type.toNat false a b)
  | .fmax o => some (o, 2, 6, fun a b _ => fMinMax o.type.toNat true a b)
  | .fclass o => some (o, 2, 6, fun a _ _ => (fClass o.type.toNat a, FFlags.none))
  | .fdiv o => some (o, 24, 40, fun a b _ => fDiv o.type.toNat o.rnd.toNat a b)
  | .fsqrt o => some (o, 24, 40, fun a _ _ => fSqrt o.type.toNat o.rnd.toNat a)
  | .frcp o => some (o, 12, 12, fun a _ _ => fRcp a)
  | .fexp2 o => some (o, 12, 12, fun a _ _ => fExp2 a)
  | .flog2 o => some (o, 12, 12, fun a _ _ => fLog2 a)
  | .fsin o => some (o, 12, 12, fun a _ _ => fSinCos false a)
  | .fcos o => some (o, 12, 12, fun a _ _ => fSinCos true a)
  | .frnd o => some (o, 4, 6, fun a _ _ => fRnd o.type.toNat o.rnd.toNat a)
  | _ => none

/-- The flags of R55. -/
def ieeeFlags : List (FFlags → Bool) := [FFlags.nv, FFlags.dz, FFlags.of, FFlags.uf, FFlags.nx]

/-- Has a floating-point instruction a second source? -/
def floatSource2 : Instr → Bool
  | .fadd _ | .fsub _ | .fmul _ | .ffma _ | .fmin _ | .fmax _ | .fdiv _ => true
  | _ => false

/-- The 64 bits of lanes 2j and 2j + 1 of a register (R23). -/
def Regs.pairLane (r : Regs) (cl n j : Nat) : Nat :=
  (r.lane cl n (2 * j)).toNat + 2 ^ 32 * (r.lane cl n (2 * j + 1)).toNat

/-- The exact value of an encoding that is neither a NaN nor an infinity. -/
def Val.exact : Val → Option Rat
  | .num n m e => some ((if n then -1 else 1) * (m : Rat) * (2 : Rat) ^ e)
  | _ => none

/-- The comparisons of VCMP, codes 0 to 5 (R91, R159): signed for .i32, unsigned for .n32. -/
def vectorCompare (o : VOp) (c : BitVec 3) (a b : Word) : Bool :=
  let lt (x y : Word) : Bool := if o.type = 4#4 then x.slt y else x.ult y
  match c.toNat with
  | 0 => a == b
  | 1 => a != b
  | 2 => lt a b
  | 3 => !(lt b a)
  | 4 => lt b a
  | _ => !(lt a b)

/-- The comparisons of FCMP on operands that are numbers (R91, R161): eq, ne, lt, le, gt, ge, un, or. -/
def ratCompare (c : BitVec 3) (a b : Rat) : Bool :=
  match c.toNat with
  | 0 => decide (a = b)
  | 1 => decide (a ≠ b)
  | 2 => decide (a < b)
  | 3 => decide (a ≤ b)
  | 4 => decide (b < a)
  | 5 => decide (b ≤ a)
  | 6 => false
  | _ => true

/-- The exact value of lane l of a .f32 operand, or of its lane pair of a .f64 operand (R23). -/
def operandValue (t : BitVec 4) (x : List Word) (l : Nat) : Val :=
  if t = 10#4 then decodeVal 10 ((nth0 x (2 * (l / 2))).toNat + 2 ^ 32 * (nth0 x (2 * (l / 2) + 1)).toNat)
  else decodeVal 9 (nth0 x l).toNat

/-- A .f64 form holds the floating-point unit of its slot in the next cycle (R156). -/
def State.holdFpu (s : State) (slot : Slot) (f64 : Bool) : State :=
  if f64 then s.onAct fun x => { x with fpuHold := x.fpuHold ++ [(slot, s.cycle + 1)] } else s

/-- A unit of CVT: a lane pair or a lane (R163). -/
def unitOf (pair : Bool) (x : List Word) (u : Nat) : Nat :=
  if pair then (nth0 x (2 * u)).toNat + 2 ^ 32 * (nth0 x (2 * u + 1)).toNat else (nth0 x u).toNat

/-- What the movement instructions of latency 2 write to lane l of cluster cl, from the lanes a of source 1 and the
control value c (R167 to R169). -/
def movedLane (r : Regs) (c cl l : Nat) (a : List Word) : Instr → Option Word
  | .vimm o =>
    let imm := o.src1.toNat * 1024 + o.src2.toNat
    if o.type = 9#4 then some (BitVec.ofNat 32 (imm * 2 ^ 12))
    else if o.type = 10#4 then some (if l % 2 = 0 then 0#32 else BitVec.ofNat 32 (imm * 2 ^ 12))
    else none
  | .vmov _ => some (nth0 a l)
  | .vbcast o => some (if o.type = 10#4 then nth0 a (c % 16 + l % 2) else nth0 a (c % 16))
  | .vmovs o => some (if o.kind = 1#2 then r.readS (o.src2.toNat % 64) else o.src2.signExtend 32)
  | .vshuf _ => some (match c / 16 with
    | 0 => nth0 a ((l + c % 16) % 16)
    | 1 => nth0 a (l ^^^ (c % 16))
    | 2 => nth0 a (15 - l)
    | 3 => if l < 8 then nth0 a (2 * l % 16) else nth0 a (2 * (l - 8) + 1)
    | _ => nth0 a (l / 2 + 8 * (l % 2)))
  | .vlane _ => some (BitVec.ofNat 32 (if c = 0 then l else if c = 1 then cl else 16 * cl + l))
  | _ => none

/-- The operands of a movement instruction, whether it reads source 1, and whether it takes a control value. -/
def movement : Instr → Option (VOp × Bool × Bool)
  | .vimm o => some (o, false, false)
  | .vmov o => some (o, true, false)
  | .vbcast o => some (o, true, true)
  | .vmovs o => some (o, false, false)
  | .vshuf o => some (o, true, true)
  | .vlane o => some (o, false, true)
  | _ => none

/-- No other slot of the bundle has written a vector register (R102). -/
def State.clearVectors (s : State) (slot : Slot) : Prop :=
  ∀ o ∈ s.act.pend, o.seq = s.act.seq → (o.eng = false ∨ o.slot = .c) → o.slot ≠ slot → ∀ c, o.eff ≠ .v c

/-- A group operation has put every lane of its registers in flight for six cycles later, in every cluster of its mask, and
no other register's; bypass value and flags beside them (R164 to R166; which value the bypass takes: log 7). -/
def State.groupWritten (s t : State) (o : VOp) (regs : List (Nat × (Nat → List Word))) : Prop :=
  t.act.regs = s.act.regs ∧ s.sameOutside t ∧
    (∀ e ∈ regs, ∃ cells, s.flight o.slotOf (s.cycle + 6) (.v cells) ∈ t.act.pend ∧
      ∀ cl l, o.has cl → l < 16 → cellOf cells (vKey cl (s.act.regs.physical e.1) l) = some (nth0 (e.2 cl) l)) ∧
    ∀ f ∈ t.act.pend, f ∈ s.act.pend ∨ (f.due = s.cycle + 6 ∧ f.slot = o.slotOf ∧ f.seq = s.act.seq ∧
      ∀ cells, f.eff = .v cells → ∀ c ∈ cells, ∃ e ∈ regs, ∃ cl l, o.has cl ∧ l < 16 ∧
        c.1 = vKey cl (s.act.regs.physical e.1) l)

/-- The sum of two values of which one or both may be absent (R60): .i32 wraps, the others round to nearest. -/
def sumOf (t : Nat) (a b : Option Nat) : Option Nat := match a, b with
  | some x, some y => some (if t = 4 then (x + y) % 2 ^ 32 else (fAdd t 0 x y).1)
  | some x, none => some x
  | none, y => y

/-- The root of the balanced tree over 2^n values (R60, R61). -/
def sumTree (t : Nat) : Nat → (Nat → Option Nat) → Option Nat
  | 0, f => f 0
  | n + 1, f => sumTree t n fun k => sumOf t (f (2 * k)) (f (2 * k + 1))

/-- Element e of lanes: a lane, or a lane pair of .f64 (R23). -/
def laneOrPair (t : BitVec 4) (x : List Word) (e : Nat) : Nat :=
  if t = 10#4 then (nth0 x (2 * e)).toNat + 2 ^ 32 * (nth0 x (2 * e + 1)).toNat else (nth0 x e).toNat

/-- Byte b of a register's lanes (R164). -/
def byteOf (x : List Word) (b : Nat) : Nat := elemOf 8 (b % 4) (nth0 x (b / 4))

/-- Is a slot free of the hold that a .f64 form put on its floating-point unit in the cycle before (R156)? -/
def State.fpuFree (s : State) (slot : Slot) : Prop := ¬ ∃ h ∈ s.act.fpuHold, h.1 = slot ∧ h.2 = s.cycle

/-! ## The memory slot -/

/-- No pane run holds a bank, no access waits at one, and nothing was served while the bundle was held: a load reads the
pool as it stands. -/
def State.plainBanks (s : State) : Prop :=
  s.here.pane.run = none ∧ s.here.pane.busy = none ∧ s.here.pane.accesses = [] ∧ s.act.svc = Service.none

/-- No other slot of the bundle has written the address register or the scalar register that a memory slot writes. -/
def State.clearMemory (s : State) (a d : Nat) : Prop :=
  ∀ o ∈ s.act.pend, o.seq = s.act.seq → (o.eng = false ∨ o.slot = .c) → o.slot ≠ Slot.m →
    (∀ x, o.eff ≠ .a a x) ∧ (∀ x, o.eff ≠ .s d x) ∧ ∀ p op x k, o.eff ≠ .amo p op x k d

/-- The effective address of R174. -/
def State.ea (s : State) (base : BitVec 4) (off : BitVec 16) (pi : Bool) : Nat :=
  (if pi then s.act.regs.readA base.toNat else s.act.regs.readA base.toNat + off.signExtend 32).toNat

/-- The post-increment in flight (R174). -/
def State.increment (s : State) (base : BitVec 4) (off : BitVec 16) (pi : Bool) : List Landing :=
  if pi then [s.flight .m (s.cycle + 1) (.a base.toNat (s.act.regs.readA base.toNat + off.signExtend 32))] else []

/-- An `n`-byte value extended by the signedness of its type (R180). -/
def extended (t : BitVec 4) (n x : Nat) : Word :=
  if t.toNat % 2 = 0 then (BitVec.ofNat (8 * n) x).signExtend 32 else BitVec.ofNat 32 x

/-- The gate entry of a store of the M slot issued now: its bytes are written two cycles later (R176, R177). -/
def State.storeEntry (s : State) (cells : List (Nat × Byte)) : Gated :=
  ⟨s.act.seq, 0, s.cycle + 2, false, false, cells, [], none, none, none, s.cycle + 2, [], false, (0, 0)⟩

/-- The instructions of formats MV, MS and MM with the head, the effective address, the alignment, and the extents the
masked clusters touch: R180, R184. -/
def extents (s : State) : Instr → Option (MHead × Nat × Nat × List (Nat × Nat))
  | .ldv o => some (o.head, s.ea o.base o.off o.pi, 64,
      (maskClusters o.head.mask.toNat).map fun c => (s.ea o.base o.off o.pi + 64 * c, 64))
  | .stv o => some (o.head, s.ea o.base o.off o.pi, 64,
      (maskClusters o.head.mask.toNat).map fun c => (s.ea o.base o.off o.pi + 64 * c, 64))
  | .lds o => some (o.head, s.ea o.base o.off o.pi, width o.type.toNat / 8,
      [(s.ea o.base o.off o.pi, width o.type.toNat / 8)])
  | .sts o => some (o.head, s.ea o.base o.off o.pi, width o.type.toNat / 8,
      [(s.ea o.base o.off o.pi, width o.type.toNat / 8)])
  | .ldm o => some (o.head, s.ea o.base o.off false, 64, [(s.ea o.base o.off false, 256)])
  | .stm o => some (o.head, s.ea o.base o.off false, 64, [(s.ea o.base o.off false, 256)])
  | .amo o => some (o.head, (s.act.regs.readA o.addr.toNat).toNat, 4, [((s.act.regs.readA o.addr.toNat).toNat, 4)])
  | .bind o => some (o.head, (s.act.regs.readA o.addr.toNat).toNat, 64, [((s.act.regs.readA o.addr.toNat).toNat, 64)])
  | .cbset o => some (o.head, (s.act.regs.readA o.addr.toNat).toNat, 64, [((s.act.regs.readA o.addr.toNat).toNat, 64)])
  | .copy o => some (o.head, (s.act.regs.readA o.addr.toNat).toNat, 64, [((s.act.regs.readA o.addr.toNat).toNat, 64)])
  | .copyo o => some (o.head, (s.act.regs.readA o.addr.toNat).toNat, 64, [((s.act.regs.readA o.addr.toNat).toNat, 64)])
  | .gatherp o => some (o.head, (s.act.regs.readA o.addr.toNat).toNat, 64, [((s.act.regs.readA o.addr.toNat).toNat, 64)])
  | .mpost o => some (o.head, (s.act.regs.readA o.addr.toNat).toNat, 64, [((s.act.regs.readA o.addr.toNat).toNat, 64)])
  | .tqpush o => some (o.head, (s.act.regs.readA o.addr.toNat).toNat, 64, [((s.act.regs.readA o.addr.toNat).toNat, 64)])
  | _ => none

/-- The word an AMO writes, by its operation code (R96, R185). -/
def amoValue (op : BitVec 4) (old s c : Word) : Word :=
  match op.toNat with
  | 0 => old + s
  | 1 => old &&& s
  | 2 => old ||| s
  | 3 => old ^^^ s
  | 4 => if s.slt old then s else old
  | 5 => if old.slt s then s else old
  | 6 => if s.ult old then s else old
  | 7 => if old.ult s then s else old
  | 8 => s
  | _ => if old = c then s else old

/-- Where bit b of packed element j of lane l of cluster c of a transposed field at pool address p lies: byte and bit
(R183). -/
def fieldPlace (p w c l j b : Nat) : Nat × Nat :=
  let e := (16 * c + l) * (32 / w) + j
  (p + 128 * b + e / 8, e % 8)

/-- The registers that a memory instruction names may be named (R24, R28). -/
def State.plainNames (s : State) : Instr → Prop
  | .ldv o | .stv o | .ldt o | .stt o => s.named [(o.v.toNat, 32)]
  | .ldx o | .stx o => s.named [(o.index.toNat, 22), (o.data.toNat, 32)]
  | .ldm o | .stm o => o.m.toNat < s.act.mBound
  | _ => True

/-- The limits of a transposed field (R183). -/
def fieldFits (x : Ctx) (ea w : Nat) : Prop :=
  (ea % 128 * 8) % 128 = 0 ∧ ea % 128 * 8 + 128 * (32 / w) ≤ 1024 ∧ ea % 32768 / 128 + w ≤ 256 ∧ ea < x.window

/-! ## The control slot -/

/-- The fall-through PC of the bundle at p (R126). -/
def State.after (s : State) (p : Nat) : Nat := if s.act.index p = 0xFFFF then p + 25 else p + 1

/-- A transfer to a PC: the next bundle issues no earlier than 3 + STALL cycles after this one (R127). -/
def State.transferTo (s : State) (t : Nat) : State :=
  s.onIss fun i => { i with target := some t, bound := max i.bound (s.cycle + 3 + i.stall) }

/-- Does the condition of a wait hold (R138, R186)? A barrier's ends with its release. -/
def Ctx.conditionHolds (x : Ctx) : Wait → Prop
  | .count tl n _ => n ≤ (x.timeline tl).c
  | .outstanding tl n => (x.timeline tl).out.length ≤ n
  | .barrier _ => False
  | .stores seq => ∀ g ∈ x.gate, g.written = true ∨ seq ≤ g.seq

/-- Is `e` the settle cycle of a shutter: this cycle, or the first in which the sums of every matrix operation that runs
into it are final (R141)? -/
def State.settledAt (s : State) (h e : Nat) : Prop :=
  let into (u : MxUse) : Prop := u ∈ s.here.mx.uses ∧ u.kind = 0 ∧ 32 + h ∈ u.regs ∧ u.cid = s.act.cid
  s.cycle ≤ e ∧ (∀ u, into u → u.final ≤ e) ∧ (e = s.cycle ∨ ∃ u, into u ∧ u.final = e)

/-- The numbers of R39. -/
def knownSystem (r : Nat) : Prop := r ≤ 8 ∨ (0x10 ≤ r ∧ r ≤ 0x17) ∨ (0x20 ≤ r ∧ r ≤ 0x2F)

/-- The content of a system register (R39, R40); of the drain status, while no entry has changed in the last cycles
(R27). -/
def State.systemValue (s : State) (r : Nat) : Option Word :=
  let x := s.act
  if r = 0 then some (Config.pkgNumber ++ BitVec.ofNat 9 s.cur ++ 0#17)
  else if r = 1 then some x.taskBlk
  else if r = 2 then some x.partition
  else if r = 3 then some x.codeWin
  else if r = 4 then some x.cstat
  else if r = 5 then some x.bcnt
  else if r = 6 then some x.fmtSel
  else if r = 7 then (if x.dlog = [] then some x.dnan else none)
  else if r = 8 then (if x.dlog = [] then some x.dpend else none)
  else if 0x10 ≤ r ∧ r ≤ 0x17 then some (Store.get 0#32 x.fstat (r - 0x10))
  else if 0x20 ≤ r ∧ r ≤ 0x2F then some (Store.get 0#32 x.fmt (r - 0x20))
  else none

/-! ## The sequencer -/

/-- Nothing holds the next bundle of a core's active context in this cycle, and no request is pending (R78, R138, R236,
R242). -/
def State.issuable (s : State) (core : Nat) : Prop :=
  let x := (s.core core).act
  x.phase = .running ∧ x.held = false ∧ x.trap = none ∧ x.fp = [] ∧ x.tried = false ∧ x.nextAt ≤ s.cycle ∧ x.waits = [] ∧
    x.yield = false ∧ (s.core core).swapWanted = none

/-- Nothing outside one core changes, but for the model's own number of the core whose slots execute. -/
def State.onlyCore (s t : State) (core : Nat) : Prop :=
  t.cycle = s.cycle ∧ (∀ n, n ≠ core → t.core n = s.core n) ∧ t.dies = s.dies ∧ t.hbm = s.hbm ∧ t.host = s.host ∧
    t.pod = s.pod ∧ t.roots = s.roots ∧ t.images = s.images ∧ t.ops = s.ops ∧ t.reps = s.reps ∧ t.dist = s.dist ∧
    t.inputs = s.inputs

/-- Position of a slot in the order C, S0, S1, M, V0, V1, E (R235). -/
def Slot.order : Slot → Nat
  | .c => 0
  | .s0 => 1
  | .s1 => 2
  | .m => 3
  | .v0 => 4
  | .v1 => 5
  | .e => 6

/-- Is a landing trap decided before another of the same cycle (R235)? -/
def FpRaise.first (f g : FpRaise) : Prop :=
  f.seq < g.seq ∨ f.seq = g.seq ∧ (f.slot.order < g.slot.order ∨ f.slot = g.slot ∧
    (f.cluster < g.cluster ∨ f.cluster = g.cluster ∧ f.order ≤ g.order))

/-! ## The matrix engine -/

/-- The E slot finds the matrix engine free and no trap of an earlier slot (R103, R199). -/
def State.engineFree (s : State) : Prop := s.here.mx.busyTo ≤ s.cycle ∧ s.here.iss.trap = none

/-- No engine command has still a matrix register to write (R199). -/
def Ctx.noEngineRows (x : Ctx) : Prop := ∀ l ∈ x.pend, l.eng = true → ∀ c, l.eff ≠ .m c

/-- Widths of the format codes (R66). -/
def formatWidth (c : Nat) : Nat := if c = 7 then 16 else if c = 2 ∨ c = 3 ∨ c = 5 ∨ c = 9 then 4 else 8

/-- The integer that bits stand for under a format code: INT8, UINT8, INT4, UINT4 (R66). -/
def formatInt (c x : Nat) : Int :=
  if c = 0 ∧ 128 ≤ x then (x : Int) - 256 else if c = 2 ∧ 8 ≤ x then (x : Int) - 16 else x

/-- Stored elements of A in one issue: two in a beat of two 4-bit operands, one in two beats of BF16 (R59, R202, R203). -/
def storedElements (a b beats : Nat) : Nat :=
  if a = 7 then beats / 2 else if formatWidth a = 4 ∧ formatWidth b = 4 then 2 * beats else beats

/-- Elements of A in one word of a read, dense or sparse (R202, R203). -/
def perWord (mode a : Nat) : Nat := if mode = 0 then 32 / formatWidth a else 16 / formatWidth a

/-- K positions that an issue covers: a sparse A stores 32 or 16 of 64 (R202, R203). -/
def positionsOf (mode a b beats : Nat) : Nat :=
  storedElements a b beats * (if mode = 0 then 1 else if mode = 1 then 2 else 4)

/-- Stored elements of A in 64 K positions (R202, R203). -/
def perGroup (mode : Nat) : Nat := if mode = 0 then 64 else if mode = 1 then 32 else 16

/-- Reads of A in one issue: a block-scaled A has one more for each 64 K positions (R202 to R204). -/
def readsOf (mode a b beats : Nat) : Nat :=
  storedElements a b beats / perWord mode a + if 8 ≤ a then positionsOf mode a b beats / 64 else 0

/-- Lines of B in one issue: a block-scaled B has one more for each 64 K positions (R202, R204). -/
def linesOf (mode a b beats : Nat) : Nat :=
  positionsOf mode a b beats / (32 / formatWidth b) + if 8 ≤ b then positionsOf mode a b beats / 64 else 0

/-- The read or line that holds element n of an operand of code c, whose groups of `grp` elements stand `per` in a word,
each with its scale behind it where the code is block-scaled (R202 to R204). -/
def dataAt (c grp per n : Nat) : Nat := n / grp * (grp / per + if 8 ≤ c then 1 else 0) + n % grp / per

/-- The E8M0 scale of element n: the low byte of the word behind its group, or 127, a factor of one (R50, R204). -/
def scaleAt (c grp per : Nat) (word : Nat → Word) (n : Nat) : Nat :=
  if 8 ≤ c then (word (n / grp * (grp / per + 1) + grp / per)).toNat % 256 else 127

/-- The K position of stored element n of a word, and its bits (R202, R203). -/
def elementOf (mode a n : Nat) (x : Word) : Nat × Nat :=
  let w := formatWidth a
  if mode = 0 then (n, elemOf w (n % (32 / w)) x)
  else
    let f := elemOf (2 * w) (n % (16 / w)) x
    (4 * (if mode = 1 then n / 2 else n) + f / 2 ^ w % 4, f % 2 ^ w)

/-- An accumulator element after one issue, from the A reads and the B lines by number: the sum of the products of R59,
integer modulo 2^32, or with one rounding for each group of g stored elements, each operand under its block scale. An
empty sum is taken as -0 (log 122). -/
def matrixSum (mode a b beats : Nat) (rd ln : Nat → Word) (start : Word) : Word :=
  let eb := 32 / formatWidth b
  let elem (n : Nat) : Nat × Nat := elementOf mode a n (rd (dataAt a (perGroup mode) (perWord mode a) n))
  let other (k : Nat) : Nat := elemOf (formatWidth b) (k % eb) (ln (dataAt b 64 eb k))
  if a ≤ 3 then
    start + BitVec.ofInt 32
      (((List.range (storedElements a b beats)).map fun n => formatInt a (elem n).2 * formatInt b (other (elem n).1)).sum)
  else
    let g := (if formatWidth a = 4 ∧ formatWidth b = 4 then 2 else 1) * (64 / perGroup mode)
    let product (n : Nat) : Val := elemProduct
      (scaleVal (codeVal a (elem n).2) (scaleAt a (perGroup mode) (perWord mode a) rd n))
      (scaleVal (codeVal b (other (elem n).1)) (scaleAt b 64 eb ln (elem n).1))
    (List.range (storedElements a b beats / g)).foldl (fun acc q =>
      accStep acc ((List.range g).foldl (fun v k => addExact v (product (g * q + k))) (.num true 0 0))) start

/-- A pair of codes that an issue accepts, and a beat count that fits it (R66, R202, R203). -/
def matrixFits (mode a b beats : Nat) : Prop :=
  let small (c : Nat) : Prop := (4 ≤ c ∧ c ≤ 6) ∨ (8 ≤ c ∧ c ≤ 10)
  ((a ≤ 3 ∧ b ≤ 3) ∨ (small a ∧ small b) ∨ (mode = 0 ∧ a = 7 ∧ b = 7 ∧ beats % 2 = 0)) ∧
    positionsOf mode a b beats %
      (if mode = 0 ∧ a < 8 ∧ b < 8 then 32 / min (formatWidth a) (formatWidth b) else 64) = 0

/-- Word i of A read t after k0 (R25, R201). -/
def Regs.aRead (r : Regs) (o : EmOp) (k0 t i : Nat) : Word :=
  let e := mElem o.dir.toNat ((k0 + t) % 64) i
  r.readM o.areg.toNat e.1 e.2

/-- Column j of B line t after l0 (R37, R201). -/
def Core.bRead (c : Core) (l0 t j : Nat) : Word := Memory.word c.bstore (256 * ((l0 + t) % 65536) + 4 * j)

/-- The fixed-point number of a split accumulator, modulo 2^160 (R63, R205). -/
def Regs.splitBits (r : Regs) (c i j : Nat) : Nat :=
  ((List.range 5).map fun w => (r.readM (c + w) i j).toNat * 2 ^ (32 * w)).sum

/-- Slice n of position k of a split operand, as a signed byte (R205). -/
def signedSlice (rd : Nat → Word) (k n : Nat) : Int :=
  formatInt 0 (elemOf 8 (n % 4) (rd (1 + 2 * k + n / 4)))

/-- The kept pairs of slices (R63, R205). -/
def keptPairs (s : Nat) (tri : Bool) : List (Nat × Nat) :=
  (List.range (s * s)).filterMap fun n => if tri = true ∧ s - 1 < n / s + n % s then none else some (n / s, n % s)

/-- What MDRAIN makes of an INT32 accumulator element (R209). -/
def drainedInt (t : Nat) (x : Word) : Word :=
  match t with
  | 0 => BitVec.ofInt 32 (max (-128) (min 127 x.toInt))
  | 2 => BitVec.ofInt 32 (max (-32768) (min 32767 x.toInt))
  | 1 => BitVec.ofInt 32 (max 0 (min 255 x.toInt))
  | 3 => BitVec.ofInt 32 (max 0 (min 65535 x.toInt))
  | 9 => BitVec.ofNat 32 (roundInt 9 0 x.toInt 0 false).1
  | _ => x

/-! ## The panes -/

/-- Nothing waits at or holds a bank of a core in this cycle (R34, R183, R246). -/
def Core.quiet (c : Core) : Prop :=
  c.pane.accesses = [] ∧ c.pane.done = [] ∧ c.pane.busy = none ∧ c.ports = [] ∧ c.reserved = []

/-- No store of either context waits for its release, nor a restore for its bank, so every accessor sees the pool as it
stands (R177, R229, R255). -/
def Core.noStores (c : Core) : Prop :=
  c.act.gate = [] ∧ c.shadow.gate = [] ∧ c.act.ghosts = [] ∧ c.shadow.ghosts = [] ∧
    ∀ q ∈ c.pane.accesses, ∀ l, q ≠ .restore l

/-- Column k of row r of a bank (R183, R248). -/
def Core.column (c : Core) (bank r k : Nat) : Bool := (Memory.read c.pool (32768 * bank + 128 * r + k / 8)).getLsbD (k % 8)

/-- The bank a run works in (R213). -/
def PaneRun.inBank (r : PaneRun) : Nat := match r.entry.cmd with
  | .run b _ => b
  | .load _ _ => 0

/-- What a WWB writes to a column, from its AND, NOR and carry latches (R99); none for CUPD. -/
def columnValue (fn : Nat) (a n c : Bool) : Option Bool :=
  match fn with
  | 0 => some a
  | 1 => some n
  | 2 => some !n
  | 3 => some !(a || n)
  | 4 => some (a || n)
  | 5 => some (!(a || n) != c)
  | 6 => none
  | _ => some c

/-- A run after a half-step (R100, R245). -/
def PaneRun.moved (r : PaneRun) (wact : Bool) : PaneRun :=
  { r with index := r.index + 1, at_ := r.at_ + 2, count := r.count + 1, afterWact := wact, half := true, spin := 0 }

/-- Is a run between two half-steps, where a WBR or a WEND executes (R245)? -/
def PaneRun.atBoundary (r : PaneRun) (cycle : Nat) : Prop :=
  if r.half = true then r.at_ ≤ cycle + 1 else r.at_ ≤ cycle

/-! ## The facet engine -/

/-- The opcode of each facet and SSQ command (R94). -/
def facetOpcode : Instr → Option (ExOp × Nat)
  | .fsel o => some (o, 0x20)
  | .fselm o => some (o, 0x21)
  | .fins o => some (o, 0x22)
  | .fupd o => some (o, 0x23)
  | .fdel o => some (o, 0x24)
  | .fspill o => some (o, 0x25)
  | .ffill o => some (o, 0x26)
  | .fclr o => some (o, 0x27)
  | .ssq o => some (o, 0x30)
  | _ => none

/-- A facet command stands at the head of its engine's queue and can start its array work (R217); no killed task's record
is still kept (R360). -/
def State.facetDue (s : State) (core : Nat) (k : FacetCmd) (rest : List FacetCmd) : Prop :=
  let c := s.core core
  core < 512 ∧ c.facet.queue = k :: rest ∧ c.facet.sel = none ∧ c.facet.freeAt ≤ s.cycle ∧ k.at_ < s.cycle ∧
    c.ssqQueue = [] ∧ c.act.phase ≠ .killed ∧ c.shadow.phase ≠ .killed

/-- The score of a signature: agreeing bits, summed over the queries (R261). -/
def FacetCmd.agreement (k : FacetCmd) (sig : BitVec 128) : Nat :=
  (k.queries.map fun q => (List.range k.width).countP fun b => q.getLsbD b == sig.getLsbD b).sum

/-- The window pages of a select (R263). -/
def FacetCmd.windowed (k : FacetCmd) (p : Nat) : Prop :=
  p < min (dw k.desc 5) k.pages ∨ (k.pages - dw k.desc 6 ≤ p ∧ p < k.pages)

/-- Is a page of the logical set a candidate (R263)? -/
def FacetCmd.candidate (k : FacetCmd) (l : List (Nat × BitVec 128)) (e : Nat × BitVec 128) : Prop :=
  e ∈ l ∧ e.1 < k.pages ∧ ¬ k.windowed e.1

/-- Does one candidate rank before another (R263)? -/
def FacetCmd.ranksBefore (k : FacetCmd) (e f : Nat × BitVec 128) : Prop :=
  k.agreement f.2 < k.agreement e.2 ∨ (k.agreement e.2 = k.agreement f.2 ∧ e.1 < f.1)

/-- The pages a select returns: the windows, and the candidates with fewer than K candidates before them (R263). -/
def FacetCmd.selects (k : FacetCmd) (l : List (Nat × BitVec 128)) (p : Nat) : Prop :=
  k.windowed p ∨ ∃ e, k.candidate l e ∧ e.1 = p ∧
    ∃ b : List (Nat × BitVec 128), b.Nodup ∧ b.length < k.k ∧ ∀ f, f ∈ b ↔ k.candidate l f ∧ k.ranksBefore f e

/-- The lowest invalid logical row of the rows a command acts on (R219, R268). -/
def FacetCmd.lowestFree (k : FacetCmd) (c : Core) (key : Nat) : Prop :=
  k.inRegion c key = true ∧ (c.facetRow key).valid = false ∧
    ∀ j, k.inRegion c j = true → (c.facetRow j).valid = false → key ≤ j

/-- One logical row of the array changed, every other as it was. -/
def Core.rowIs (c d : Core) (key : Nat) (r : FacetRow) : Prop :=
  d.facetRow key = r ∧ ∀ j, j ≠ key → d.facetRow j = c.facetRow j

/-- Nothing of a core but its facet engine and array changes; a die may keep translations (R330). -/
def State.facetOnly (s t : State) (core : Nat) : Prop :=
  (t.core core).act = (s.core core).act ∧ (t.core core).shadow = (s.core core).shadow ∧
    (t.core core).pool = (s.core core).pool ∧ (∀ n, n ≠ core → t.core n = s.core n) ∧ t.hbm = s.hbm ∧ t.host = s.host

/-- No far-line buffer holds a line, and no trace is live. -/
def State.plainMemory (s : State) : Prop := (∀ d, (s.die d).far = []) ∧ s.dist.traces = []

/-- A memory with consecutive bytes written, every other byte as it was. -/
def bytesWritten (m n : Memory) (a : Nat) (l : List Byte) : Prop :=
  ∀ b, Memory.read n b = if a ≤ b ∧ b < a + l.length then nth0 l (b - a) else Memory.read m b

/-! ## The controllers and the package -/

/-- Offset of a register of a core's block in the control window of its die (R239). -/
def blockAt (core off : Nat) : Nat := 0x10000 + 0x100 * (core % 32) + off

/-- Nothing but the controller of one die changes. -/
def State.onlyDie (s t : State) (die : Nat) : Prop :=
  t.cycle = s.cycle ∧ t.cores = s.cores ∧ (∀ d, d ≠ die → t.die d = s.die d) ∧ t.hbm = s.hbm ∧ t.host = s.host ∧
    t.pod = s.pod ∧ t.roots = s.roots ∧ t.images = s.images ∧ t.ops = s.ops ∧ t.reps = s.reps ∧ t.dist = s.dist ∧
    t.inputs = s.inputs ∧
    t.hwbase = s.hwbase ∧ t.hasid = s.hasid ∧ t.hstat = s.hstat

/-- Nothing of the cores and of the memories changes, and no clock. -/
def State.noMemory (s t : State) : Prop :=
  t.cycle = s.cycle ∧ t.cores = s.cores ∧ t.hbm = s.hbm ∧ t.host = s.host ∧ t.pod = s.pod ∧ t.roots = s.roots ∧
    t.images = s.images ∧ t.reps = s.reps ∧ t.inputs = s.inputs

/-! ## Copies and writes on their way -/

/-- An operation of a copy engine may act now (R194, R335), and its block's record in a trace is not VALID yet (R360). -/
def State.opDue (s : State) (o : CopyOp) : Prop :=
  s.op o.id = some o ∧ o.stage = .ready ∧ o.notBefore ≤ s.cycle ∧ o.kind ≤ 2 ∧ o.core < 512 ∧
    ∀ k, s.trace o.trace = some k → (k.record o.blk).valid = false

/-- The leaf that an operation's engine uses for an address: its TLB's, or, of an entry that is being changed, the table's
(R330; which of the two is free: log 2). -/
def State.mayUse (s : State) (o : CopyOp) (va : Nat) (l : Leaf) : Prop :=
  ∃ e, (s.die o.die).tlbEntry (engineOf o.core) o.asid va = some e ∧
    if Config.keepsOld s.free (va / 65536) = true then l = e.leaf
    else ∃ level, s.walk o.die (engineOf o.core) o.asid va = .leaf l level

/-- A walk of an engine is under way, or waits for one of its walkers (R330). -/
def Die.walking (d : Die) (eng asid unit : Nat) : Prop :=
  (∃ k ∈ d.walkers, k.eng = eng ∧ k.asid = asid ∧ k.unit = unit) ∨ (eng, asid, unit) ∈ d.walkQueue

/-- An operation became another, and no other operation changed. -/
def State.opBecomes (s t : State) (o p : CopyOp) : Prop := t.op o.id = some p ∧ ∀ id, id ≠ o.id → t.op id = s.op id

/-- What an operation is after a row: the next row's turn, or, after the last one, only its writes to wait for (R193,
R195, R337). -/
def CopyOp.afterRow (o p : CopyOp) (cycle status : Nat) (sent : List Nat) : Prop :=
  p.row = o.row + 1 ∧ p.data = none ∧ p.todo = [] ∧ p.status = status ∧ p.unseen = o.unseen ++ sent ∧
    (o.row + 1 = o.rows → p.stage = .landing) ∧ (o.row + 1 ≠ o.rows → p.stage = .ready ∧ cycle < p.notBefore)

/-- The blocks that a write of consecutive bytes is sent as: each within 64 aligned bytes (R313), all of one identity; a
stamped write's are numbered on from the last number of the sending die and carry a clock (R316). -/
def State.blocksOf (s : State) (l : List Stamped) (die space a : Nat) (bytes : List Byte) (clock : Option (Store Nat)) : Prop :=
  (l.map fun w => cellsAt w.addr w.bytes).flatten = cellsAt a bytes ∧
    (∀ w ∈ l, w.id = s.nextWrite ∧ w.src = die ∧ w.home = true ∧ w.space = space ∧ w.watched = true ∧ s.cycle < w.due ∧
      w.bytes ≠ [] ∧ w.addr % 64 + w.bytes.length ≤ 64) ∧
    (∀ v, clock = some v → (∀ w ∈ l, w.clock = v) ∧
      l.map (fun w => w.num) = (List.range l.length).map fun k => (s.die die).sent + 1 + k) ∧
    (clock = none → ∀ w ∈ l, w.num = 0 ∧ w.clock = [])

/-- The blocks of a write join what is on its way: to the homes of their addresses, or, for memory that is no stack of the
package, at the sending die. -/
def State.sent (s t : State) (l : List Stamped) (die space : Nat) : Prop :=
  ∀ k, (t.die k).incoming = (s.die k).incoming ++ l.filter fun w => decide ((if space = 0 then homeDie w.addr else die) = k)

/-- The 64 bytes of a message in its ring slot: LEN and the sender, LEN payload words, zeros (R304). -/
def Message.written (w : Message) (bytes : List Byte) : Prop :=
  let len := (nth0 w.words 0).toNat % 16
  bytes.length = 64 ∧ ofBytes (bytes.take 4) = len + 65536 * w.sender ∧
    ∀ j, j < 15 → ofBytes ((bytes.drop (4 * j + 4)).take 4) = if j < len ∧ j < 12 then (nth0 w.words (j + 1)).toNat else 0

/-! ## Launches and traces -/

/-- An operation of the distributor completed with a status (R30, R144, R193): STATUS is delivered to word 15 behind other
bytes of its packet, its number counts from the next cycle, and it is gone. -/
def State.opFinished (s t : State) (o : CopyOp) (other : List (Nat × Byte)) (status : Nat) : Prop :=
  t.op o.id = none ∧ (∀ id, id ≠ o.id → t.op id = s.op id) ∧
    (t.core o.core).late = (s.core o.core).late ++ [⟨21, s.cycle, other ++
      cellsAt (((s.core o.core).ctx o.cid).poolAddr (o.addr + 60)) (toBytes (BitVec.ofNat 32 status).toNat 4)⟩] ∧
    ((t.core o.core).ctx o.cid).comps = ((s.core o.core).ctx o.cid).comps ++ [⟨o.tl, o.num, s.cycle⟩] ∧
    ((t.core o.core).ctx o.cid).regs = ((s.core o.core).ctx o.cid).regs ∧ (t.core o.core).pool = (s.core o.core).pool ∧
    (∀ n, n ≠ o.core → t.core n = s.core n)

/-- The checks of R368 in their order: whether each fails, and its STATUS. -/
def State.launchChecks (s : State) (d : List Word) (asid : Nat) (re : Bool) : List (Bool × Nat) :=
  let image := dw d 0 + 2 ^ 32 * dw d 1
  let tile := s.readRange asid (dw d 2 + 2 ^ 32 * dw d 3) 16384
  let head := s.readRange asid image 64
  let w (k : Nat) : Nat := match head with
    | some b => ofBytes ((b.drop (4 * k)).take 4)
    | none => 0
  let code := s.readRange asid (image + w 5) (32 * w 4)
  let dict := s.readRange asid (image + w 7) (48 * w 6)
  let pre := s.readRange asid (image + w 9) (w 8)
  [(!descriptorOk d, 7), (tile.isNone || head.isNone, 6), (!headerOk ((List.range 16).map w) ||
     (match Store.get none s.images (2 ^ 52 * asid + image) with
      | some e => decide (e < w 5 + 32 * w 4 ∨ e < w 7 + 48 * w 6 ∨ e < w 9 + w 8)
      | none => false), 1),
   (code.isNone || dict.isNone || pre.isNone, 6), (!partitionOk (w 2), 2),
   (match dict with
    | some b => (badEntry (dictOf (w 6) b)).isSome
    | none => false, 3),
   (decide (w 4 < field (dw d 5) 16 12), 7), (s.layoutRefused d, 4), (decide (s.traceStatus d asid re = 5), 5),
   (decide (s.traceStatus d asid re = 8), 8), (decide (s.traceStatus d asid re = 13), 13), (placementBad d, 9),
   (s.queuesBad d, 10),
   (match tile with
    | some b => (blockTable d b).isNone
    | none => false, 11)]

/-- A tile of a set of runs. -/
def inRuns (runs : List (Nat × Nat)) (x : Nat) : Prop := ∃ r ∈ runs, r.1 ≤ x ∧ x < r.1 + r.2

/-- The tiles that count as dirty at a relaunch (R352, R362 to R364): a set bit of a watched tile, and the recorded tile of
PARAM when its bit is set or the new PARAM differs. -/
def Trace.isDirty (t : Trace) (map : List Byte) (param x : Nat) : Prop :=
  let bit (b : Nat) : Bool := (nth0 map (b / 8)).getLsbD (b % 8)
  (∃ b, b < t.tileCount ∧ bit b = true ∧ tileOfBit t.windows b = some x) ∨
    (x ∈ t.paramTile ∧ (bit t.tileCount = true ∨ x ≠ param / 16384))

/-- A set of blocks obeys the choice of R363: it holds every block that must run, and the closure of the descriptor's block
table; a gang runs whole. -/
def Launch.closed (l : Launch) (t : Trace) (map : List Byte) (p : Nat → Prop) : Prop :=
  (∀ b, b < l.blocks → (t.lost = true ∨ (t.record b).valid = false ∨ (t.record b).rovf = true ∨ (t.record b).ext = true ∨
      (t.record b).loc = true ∨ (t.record b).kill = true ∨
      ∃ x, t.isDirty map l.param x ∧ inRuns (t.record b).reads x) → p b) ∧
    (∀ r ∈ l.prepared, p r.blk → ∀ c ∈ r.succ, c < l.blocks → p c) ∧
    (l.gang = true → ∀ b, p b → ∀ c, c < l.blocks → p c)

end Sys2Proof.Machine
end

