-- ==== Sys2Proof/Certificates/Slice0/Obligations.lean ====
section
/-! DEFINITION. The statements for the provers. Each name says what it states; its docstring names the rules. -/

open Sys2Proof Sys2Proof.Machine

/-! ## Encoding -/

/-- Words that the spec writes out decode to the instructions it gives for them (R129, R130, R138, R148 to R151, R158).
A sanity statement. -/
def Obligations.SpecWordsDecode : Prop :=
  decodeSlot 0 0x05400040 = some (.br ⟨2#3, true⟩ 0x40#15) ∧
  decodeSlot 0 0x14002001 = some (.loop ⟨0#3, false⟩ 2#10 1#12) ∧
  decodeSlot 0 0x280A1800 = some (.wait ⟨0#3, false⟩ 5#5 6#6) ∧
  decodeSlot 1 0x12070E05 = some (.shlImm ⟨.s0, 0#3⟩ 7#6 3#6 5#5) ∧
  decodeSlot 1 0x44021005 = some (.cmp ⟨.s0, 0#3⟩ 2#3 2#3 4#6 5#6) ∧
  decodeSlot 1 0x2E021200 = some (.movaD ⟨.s0, 0#3⟩ 2#4 4#6 0#3) ∧
  decodeSlot 1 0x34022503 = some (.bext ⟨.s0, 0#3⟩ 2#6 9#6 8#5 3#5) ∧
  decodeSlot 4 0xFF00040301005040 =
    some (.vadd ⟨.v0, 0xFF#8, 0#4, false, 3#10, 4#10, 5#10, false, 0#4, true, 0#2, 0#2⟩)

/-- Decoding the word of a well-formed instruction gives it back, in its slot, with every operand (R84 to R101). -/
def Obligations.DecodeEncode : Prop :=
  ∀ (i : Instr) (k w : Nat), wf i = true → microOk i = true → encode i = some (k, w) → decodeSlot k w = some i

/-- A word that a slot accepts is the encoding of a well-formed instruction: no two words mean the same and no reserved
bit passes (R74, R104). -/
def Obligations.EncodeDecode : Prop :=
  ∀ (i : Instr) (k w : Nat), decodeSlot k w = some i → encode i = some (k, w) ∧ wf i = true

/-- The fault of a bundle that is refused is one of those that the checks of its slots and across them find, and none of
them names a lower syllable (R74, R238). -/
def Obligations.RefusedBundleNamesLowestSyllable : Prop :=
  ∀ (bits : Nat) (f : BundleFault), decodeBundle bits = .error f →
    let faults := crossFaults bits ++ slotFaults 1 (decodeC (field bits 32 32)) ++
      slotFaults 2 (decodeS .s0 (field bits 64 32)) ++ slotFaults 3 (decodeS .s1 (field bits 96 32)) ++
      slotFaults 4 (decodeE (field bits 128 64)) ++ slotFaults 6 (decodeV .v0 (field bits 192 64)) ++
      slotFaults 8 (decodeV .v1 (field bits 256 64)) ++ slotFaults 10 (decodeM (field bits 320 64))
    f ∈ faults ∧ ∀ g ∈ faults, f.syllable ≤ g.syllable

/-! ## A step -/

/-- A step runs the step of the machine that is due, on its core: exec of it; with none due the cycle ends (log 1). -/
def Obligations.StepRunsWhatIsDue : Prop :=
  ∀ s : State,
    (∀ core i, nextEvent s = .event core i → step s = exec i { s with cur := core }) ∧
    (∀ i rest, nextEvent s = .input i rest → step s = exec i { s with inputs := rest }) ∧
    (nextEvent s = .idle → s.stopped = false → step s = .next s.tick) ∧
    (nextEvent s = .idle → s.stopped = true → step s = .next s)

/-- The slots of a bundle that decodes are run by exec, one after the other in the order C, S0, S1, M, V0, V1, E, each on
what the one before leaves (R83, R102); a bundle is executed by that run, after the check of its ports and before those of
its operands (R103, R225). -/
def Obligations.BundleSlotsRunExec : Prop :=
  ∀ (bits : Nat) (b : Bundle) (s : State), decodeBundle bits = .ok b →
    s.execute b = (((s.enter b).checkPorts b).runSlots b).checkOperands (s.enter b) b ∧
    s.runSlots b = [some b.c, b.s0, b.s1, b.m, b.v0, b.v1, b.e].foldl (fun s o =>
      match o with
      | none => s
      | some i => stateOf s (exec i s)) s

/-- A slot whose guard is false changes no register, memory, counter or status: a control, scalar or memory slot with a false
scalar guard, a vector or memory slot guarded by p0 with sense 1 (VSEL apart, whose guard only selects), an E slot. SYSRD
and SYSWR are meant with a known number; another number faults whatever the guard. What may change is the hold of an engine
or of a floating-point unit (R81, R156, R199). -/
def Obligations.GuardFalse : Prop :=
  ∀ (i : Instr) (s : State), wf i = true →
    (∀ g, i.controlGuard = some g → g.holds s.act.regs = false →
      (∀ h n r, i = .sysrd h n r ∨ i = .syswr h n r → knownSystem r.toNat) → exec i s = .next s) ∧
    (∀ g, i.scalarHead = some g → s.act.regs.readSp g.sp.toNat = false → exec i s = .next s) ∧
    (∀ h, i.memoryHead = some h → h.never s.act.regs = true → s.plainNames i → exec i s = .next s) ∧
    (∀ r o, vRule i = some (r, o) → ¬ o.runs → (∀ v, i ≠ .vsel v) → ∃ t, exec i s = .next t ∧
      t.act = { s.act with fpuHold := t.act.fpuHold } ∧ t.here.pool = s.here.pool ∧ s.sameOutside t) ∧
    (∀ h, i.engineHead = some h → h.guard.holds s.act.regs = false → ∃ t, exec i s = .next t ∧ t.act = s.act ∧
      t.here.pool = s.here.pool ∧ t.here.bstore = s.here.bstore ∧ t.here.pane = s.here.pane ∧
      t.here.facet = s.here.facet ∧ t.here.ssqQueue = s.here.ssqQueue ∧ s.sameOutside t)

/-! ## The scalar slots -/

/-- Every scalar operation with a true guard completes and puts its result in flight, readable after its latency; a write
to s0 or sp0 is discarded (R21, R146 to R151). -/
def Obligations.ScalarResults : Prop :=
  ∀ (i : Instr) (s : State) (g : SHead) (lat : Nat) (e : Eff),
    scalarEffect s.act.regs i = some (g, lat, e) → g.holds s.act.regs = true →
    (e.discarded = true → exec i s = .next s) ∧
    (e.discarded = false → s.clear g.slotOf e →
      exec i s = .next (s.inFlight [s.flight g.slotOf (s.cycle + lat) e]))

/-- A scalar result lands in the cycle it is due and not before; then its register reads it, no other register of its
kind changes, and s0 and sp0 read 0 and true whatever lands (R8, R21, R152). Two slots of a bundle that write one register:
the earlier slot's result is taken out of flight, the later slot's stands, and DW is set in CSTAT; with the checking
scoreboard on, the bundle raises a dual-write trap instead (R102). So for scalar registers and predicates, address
registers, address deltas and format entries; for lanes of vector registers, predicate bits and matrix elements it is what
both write that is taken from the earlier result, a shutter's copy among them. The model's choice (log 99): the trap names
the later slot, and the first register that both write. -/
def Obligations.ScalarLandings : Prop :=
  ((∀ (x : Ctx) (cycle : Nat) (l : Landing),
      Store.wf 0#32 x.regs.s = true → Store.wf false x.regs.sp = true → Store.wf 0#32 x.regs.a = true →
      (∀ n v, l.eff = .s n v → ∀ k, (x.landOne cycle l).regs.readS k =
        if k = 0 then 0#32 else if k = n then v else x.regs.readS k) ∧
      (∀ n v, l.eff = .sp n v → ∀ k, (x.landOne cycle l).regs.readSp k =
        if k = 0 then true else if k = n then v else x.regs.readSp k) ∧
      (∀ n v, l.eff = .a n v → ∀ k, (x.landOne cycle l).regs.readA k = if k = n then v else x.regs.readA k)) ∧
    (∀ (x : Ctx) (cycle : Nat) (l : Landing) (n : Nat) (v : Word), l.eff = .s n v → x.pend = [l] →
      Store.wf 0#32 x.regs.s = true →
      (cycle < l.due → (x.landAll cycle).pend = [l] ∧ (x.landAll cycle).regs = x.regs) ∧
      (l.due ≤ cycle → (x.landAll cycle).pend = [] ∧
        (x.landAll cycle).regs.readS n = if n = 0 then 0#32 else v))) ∧
  (∀ (s : State) (d a b : BitVec 6) (due n : Nat) (x : Word), d ≠ 0#6 →
      s.act.pend = [s.flight .s0 due (.s d.toNat x)] → n = d.toNat →
      (s.act.chk = false →
        ∃ t, exec (.add ⟨.s1, 0#3⟩ d a b) s = .next t ∧
          t.act.pend = [s.flight .s1 (s.cycle + 1) (.s n (s.act.regs.readS a.toNat + s.act.regs.readS b.toNat))] ∧
          t.act.cstat = s.act.cstat ||| 1#32) ∧
      (s.act.chk = true → s.here.iss.trap = none →
        ∃ t, exec (.add ⟨.s1, 0#3⟩ d a b) s = .next t ∧ t.act.pend = s.act.pend ∧
          t.here.iss.trap = some ⟨0xD, 2, 0, s.here.iss.pc, n⟩)) ∧
  (∀ (s : State) (slot : Slot) (due : Nat) (old : Landing) (e : Eff), s.act.pend = [old] → old.seq = s.act.seq →
      old.slot ≠ slot →
      let t := s.land slot due e
      let dual (n : Nat) (left : List Landing) : Prop :=
        (s.act.chk = false → t.act.pend = left ++ [s.flight slot due e] ∧ t.act.cstat = s.act.cstat ||| 1#32) ∧
        (s.act.chk = true → s.here.iss.trap = none →
          t.act.pend = s.act.pend ∧ t.here.iss.trap = some ⟨0xD, slot.code, 0, s.here.iss.pc, n⟩)
      (old.eng = false →
        (∀ n x y, old.eff = .s n x → e = .s n y → dual n []) ∧
        (∀ n x y, old.eff = .sp n x → e = .sp n y → dual n []) ∧
        (∀ n x y, old.eff = .a n x → e = .a n y → dual n []) ∧
        (∀ n x y, old.eff = .fmt n x → e = .fmt n y → dual n []) ∧
        (∀ n x y, old.eff = .aut n x → e = .aut n y → dual (n / 6) []) ∧
        (∀ n x p op y k, n ≠ 0 → old.eff = .s n x → e = .amo p op y k n → dual n []) ∧
        (∀ n x p op y k, n ≠ 0 → old.eff = .amo p op y k n → e = .s n x → dual n [{ old with eff := .amo p op y k 0 }]) ∧
        (∀ l k c, old.eff = .v l → e = .v k → l.find? (fun c => (cellOf k c.1).isSome) = some c →
          dual (c.1 / 16 % 768) [{ old with eff := .v (l.filter fun c => (cellOf k c.1).isNone) }]) ∧
        (∀ l k c, old.eff = .m l → e = .m k → l.find? (fun c => (cellOf k c.1).isSome) = some c →
          dual (c.1 / 4096) [{ old with eff := .m (l.filter fun c => (cellOf k c.1).isNone) }]) ∧
        (∀ l k c, old.eff = .p l → e = .p k → l.find? (fun c => k.any fun d => decide (d.1 = c.1)) = some c →
          dual (c.1 / 16 % 16) [{ old with eff := .p (l.filter fun c => !(k.any fun d => decide (d.1 = c.1))) }])) ∧
      (∀ h m drop k, old.slot = .c → old.eff = .shut h true m drop → e = .m k →
        (∃ c ∈ k, c.1 / 4096 = m ∧ c.1 ∉ drop) → dual m [{ old with
          eff := .shut h true m (drop ++ (k.map fun c => c.1).filter fun a => decide (a / 4096 = m) && !drop.contains a) }]))

/-! ## The vector slots -/

/-- Every integer vector instruction completes, whatever its operands are (registers, streams, bypass registers, a scalar
register or an immediate): each element of the result, in every lane of every cluster of the mask, is what R158 gives for
the elements of its sources, and it is written to the destination after the latency of R157. -/
def Obligations.VectorIntegerResults : Prop :=
  ∀ (i : Instr) (o : VOp) (lat : Nat) (f : Nat → Nat → Nat → Nat) (s : State),
    vectorInt i = some (o, lat, f) → wf i = true → s.named (namesOf o true (hasSource2 i) true) → o.runs →
    ∃ v : Nat → List Word,
      exec i s = .next ((s.operands o (hasSource2 i)).2.2.writeVector o.slotOf 32 o.dst.toNat (s.cycle + lat)
        (slotBypass o.slotOf) (s.guardOf o false) (perCluster o v)) ∧
      ∀ cl l k, o.has cl → l < 16 → k < 32 / width o.type.toNat →
        let a := elemOf (width o.type.toNat) k (nth0 ((s.operands o (hasSource2 i)).1 cl) l)
        let b := elemOf (width o.type.toNat) k (nth0 ((s.operands o (hasSource2 i)).2.1 cl) l)
        let d := elemOf (width o.type.toNat) k (s.act.regs.lane cl o.dst.toNat l)
        elemOf (width o.type.toNat) k (nth0 (v cl) l) = f a b d

/-- Every floating-point arithmetic instruction on .bf or .f32 completes: each element of the result is what its function
gives under the rounding of the instruction; of the flags NV, DZ, OF, UF and NX a cluster raises those that an element with
a true guard raises and no other; result and flags land after the latency of R160 and R162 (R55, R161). -/
def Obligations.VectorFloatResults : Prop :=
  ∀ (i : Instr) (o : VOp) (lat lat64 : Nat) (f : Nat → Nat → Nat → FRes) (s : State),
    vectorFloat i = some (o, lat, lat64, f) → wf i = true → o.type ≠ 10#4 →
    s.named (namesOf o true (floatSource2 i) true) → o.runs → s.fpuFree o.slotOf →
    ∃ (v : Nat → List Word) (g : Nat → FFlags),
      exec i s = .next ((s.operands o (floatSource2 i)).2.2.writeFloat o lat false (perCluster o v)
        ((clustersOf o).map fun cl => (cl, g cl))) ∧
      (∀ cl l k, o.has cl → l < 16 → k < 32 / width o.type.toNat →
        let a := elemOf (width o.type.toNat) k (nth0 ((s.operands o (floatSource2 i)).1 cl) l)
        let b := elemOf (width o.type.toNat) k (nth0 ((s.operands o (floatSource2 i)).2.1 cl) l)
        let d := elemOf (width o.type.toNat) k (s.act.regs.lane cl o.dst.toNat l)
        elemOf (width o.type.toNat) k (nth0 (v cl) l) = (f a b d).1 % 2 ^ width o.type.toNat) ∧
      (∀ cl, o.has cl → ∀ φ ∈ ieeeFlags, φ (g cl) = true ↔
        ∃ l k, l < 16 ∧ k < 32 / width o.type.toNat ∧ o.active s.act.regs cl l = true ∧
          φ (f (elemOf (width o.type.toNat) k (nth0 ((s.operands o (floatSource2 i)).1 cl) l))
            (elemOf (width o.type.toNat) k (nth0 ((s.operands o (floatSource2 i)).2.1 cl) l))
            (elemOf (width o.type.toNat) k (s.act.regs.lane cl o.dst.toNat l))).2 = true)

/-- The same for .f64: elements are lane pairs guarded by bit 2j, with the latencies of .f64, and the unit of the slot is
held for the next cycle (R23, R55, R156, R160). -/
def Obligations.VectorDoubleResults : Prop :=
  ∀ (i : Instr) (o : VOp) (lat lat64 : Nat) (f : Nat → Nat → Nat → FRes) (s : State),
    vectorFloat i = some (o, lat, lat64, f) → wf i = true → o.type = 10#4 →
    s.named (namesOf o true (floatSource2 i) true) → o.runs → s.fpuFree o.slotOf →
    let s1 := s.onAct fun x => { x with fpuHold := x.fpuHold ++ [(o.slotOf, s.cycle + 1)] }
    ∃ (v : Nat → List Word) (g : Nat → FFlags),
      exec i s = .next ((s1.operands o (floatSource2 i)).2.2.writeFloat o lat64 true (perCluster o v)
        ((clustersOf o).map fun cl => (cl, g cl))) ∧
      let r (cl j : Nat) : FRes := f (laneOrPair 10#4 ((s1.operands o (floatSource2 i)).1 cl) j)
        (laneOrPair 10#4 ((s1.operands o (floatSource2 i)).2.1 cl) j) (s.act.regs.pairLane cl o.dst.toNat j)
      (∀ cl j, o.has cl → j < 8 → laneOrPair 10#4 (v cl) j = (r cl j).1 % 2 ^ 64) ∧
      (∀ cl, o.has cl → ∀ φ ∈ ieeeFlags, φ (g cl) = true ↔
        ∃ j, j < 8 ∧ o.active s.act.regs cl (2 * j) = true ∧ φ (r cl j).2 = true)

/-- What a vector result is written to: a register gets, in flight, the lanes whose guard bits are true and no other; a
stream gets one element for each cluster of the mask whatever the guards; and each cluster in which anything is written
leaves the result, lanes with false guards zero, in the bypass register of its source. A comparison writes only the
predicate bits of the lanes whose guard bit is true, and none of p0 (R21, R152, R154, R155, R159). The model's choice
(log 12): a register result with no true lane in a cluster leaves no bypass value there. -/
def Obligations.VectorDestinations : Prop :=
  (∀ (s : State) (slot : Slot) (bit n due src : Nat) (on : Nat → List Bool) (vals : List (Nat × List Word)),
    s.clearVectors slot →
    (n < 768 → ∃ cells,
      (s.writeVector slot bit n due src on vals).act.pend =
        s.act.pend ++ s.flight slot due (.v cells) ::
          ((vals.filter fun e => (on e.1).any id).map fun e =>
            s.flight slot due (.bx src e.1 (guardedLanes (on e.1) e.2))) ∧
      ((vals.map fun e => e.1).Nodup → ∀ e ∈ vals, ∀ l, l < 16 →
        cellOf cells (vKey e.1 (s.act.regs.physical n) l) =
          if (on e.1).getD l false then some (nth0 e.2 l) else none)) ∧
    (768 ≤ n → s.writeVector slot bit n due src on vals =
      (s.pushAll slot bit (n - 768) due vals).landBypass slot due src on vals)) ∧
  (∀ (s : State) (slot : Slot) (due n : Nat) (on : Nat → List Bool) (vals : List (Nat × List Bool)),
    (∀ o ∈ s.act.pend, o.seq = s.act.seq → (o.eng = false ∨ o.slot = .c) → o.slot ≠ slot → ∀ c, o.eff ≠ .p c) → n < 16 →
    (n = 0 → s.writePreds slot due n on vals = s) ∧
    (n ≠ 0 → ∃ cells, s.writePreds slot due n on vals = s.inFlight [s.flight slot due (.p cells)] ∧
      ((vals.map fun e => e.1).Nodup → ∀ e ∈ vals, ∀ l, l < 16 →
        (cells.find? fun c => decide (c.1 = 16 * (16 * e.1 + n) + l)) =
          if (on e.1).getD l false then some (16 * (16 * e.1 + n) + l, e.2.getD l false) else none)))

/-- Operand forms: a register is read whole; a bypass register gives what its source wrote in the cycle before, else zero
with BE set; a field that names a stream pops one element for each cluster (R29, R82, R153). -/
def Obligations.OperandForms : Prop :=
  ∀ (s : State) (slot : Slot) (bit n cl : Nat),
    (n < 768 → s.readField slot bit n [cl] = ([(cl, s.act.regs.readV cl n)], s)) ∧
    (784 ≤ n → ∀ lanes, (∃ b ∈ s.act.bx, b = (n - 784, cl, lanes)) →
      (∀ b ∈ s.act.bx, b.1 = n - 784 → b.2.1 = cl → b.2.2 = lanes) →
      s.readField slot bit n [cl] = ([(cl, lanes)], s)) ∧
    (784 ≤ n → (∀ b ∈ s.act.bx, ¬(b.1 = n - 784 ∧ b.2.1 = cl)) →
      ∃ t, s.readField slot bit n [cl] = ([(cl, List.replicate 16 0#32)], t) ∧
        t.act.cstat = s.act.cstat ||| 2#32 ∧ t.act.regs = s.act.regs) ∧
    (∀ b base dims wrap, 768 ≤ n → n < 784 → s.act.binding (n - 768) = some b → b.push = false →
      b.src = .affine base dims wrap → b.pos < affineTotal dims →
      affineAddr base b.pos dims + ewBytes b.ew ≤ s.act.window → s.act.svc.bytes = [] →
      ∃ lanes t, s.readField slot bit n [cl] = ([(cl, lanes)], t) ∧
        (∀ l, l < ewLanes b.ew → nth0 lanes l =
          Memory.word s.here.pool (s.act.poolAddr (affineAddr base b.pos dims) + 4 * l)) ∧
        t.act.regs.q = Store.set none s.act.regs.q (n - 768) (some { b with pos := affineNext b.pos dims wrap }) ∧
        t.here.iss.trap = s.here.iss.trap ∧ t.here.pool = s.here.pool)

/-- VCMP and FCMP write, in the lanes whose guard bit is true, whether the comparison holds; a comparison with a NaN is
false but for ne and un (R159, R161). VSEL, whatever its guard, writes every lane of every cluster of its mask: source 1
where the guard bit is true, source 2 where it is false, for .f64 by the guard bit of the lane pair (R81, R159); so does the
bypass register, which in the lanes of false guard is the model's choice (log 120). -/
def Obligations.VectorComparisons : Prop :=
  ((∀ (c : BitVec 3) (o : VOp) (s : State), wf (.vcmp c o) = true → s.named (namesOf o true true false) → o.runs →
      ∃ v : Nat → List Bool,
        exec (.vcmp c o) s = .next ((s.operands o true).2.2.writePreds o.slotOf (s.cycle + 2) o.dst.toNat
          (s.guardOf o false) ((clustersOf o).map fun cl => (cl, v cl))) ∧
        ∀ cl l, o.has cl → l < 16 → (v cl).getD l false =
          vectorCompare o c (nth0 ((s.operands o true).1 cl) l) (nth0 ((s.operands o true).2.1 cl) l)) ∧
    (∀ (c : BitVec 3) (o : VOp) (s : State), wf (.fcmp c o) = true → s.named (namesOf o true true false) → o.runs →
      s.fpuFree o.slotOf →
      let f64 := decide (o.type = 10#4)
      let due := s.cycle + if f64 then 6 else 2
      let r := (s.holdFpu o.slotOf f64).operands o true
      ∃ (v : Nat → List Bool) (g : Nat → FFlags),
        let t := r.2.2.writePreds o.slotOf due o.dst.toNat (s.guardOf o f64) ((clustersOf o).map fun cl => (cl, v cl))
        exec (.fcmp c o) s = .next (if s.anyLane o f64 then
          t.landFlags o.slotOf due ((clustersOf o).map fun cl => (cl, g cl)) else t) ∧
        ∀ cl l, o.has cl → l < 16 →
          let a := operandValue o.type (r.1 cl) l
          let b := operandValue o.type (r.2.1 cl) l
          (∀ x y, a.exact = some x → b.exact = some y → (v cl).getD l false = ratCompare c x y) ∧
          (a.isNan = true ∨ b.isNan = true → (v cl).getD l false = (decide (c = 1#3) || decide (c = 6#3))))) ∧
  (∀ (o : VOp) (s : State), wf (.vsel o) = true → s.named (namesOf o true true true) →
      ∃ v : Nat → List Word,
        exec (.vsel o) s = .next ((s.operands o true).2.2.writeVector o.slotOf 32 o.dst.toNat (s.cycle + 2)
          (slotBypass o.slotOf) (fun _ => List.replicate 16 true) (perCluster o v)) ∧
        ∀ cl l, o.has cl → l < 16 → nth0 (v cl) l =
          if o.active s.act.regs cl (if o.type = 10#4 then 2 * (l / 2) else l) then nth0 ((s.operands o true).1 cl) l
          else nth0 ((s.operands o true).2.1 cl) l)

/-- The immediate and movement instructions of latency 2 complete: each lane of the result is what R167 and R168 give for
it; VIMM of another type writes its immediate to every element. VXCL writes, in each cluster of its mask, the register of
the cluster that its control value names, 6 cycles later and to bx3 (R169). -/
def Obligations.MovementResults : Prop :=
  (∀ (i : Instr) (o : VOp) (src1 ctl : Bool) (s : State), movement i = some (o, src1, ctl) → wf i = true →
    s.named (namesOf o src1 false true) → o.runs → (ctl = true → controlOk i (s.control o) = true) →
    let r := s.readField o.slotOf 22 o.src1.toNat (clustersOf o)
    ∃ v : Nat → List Word,
      exec i s = .next ((if src1 then r.2 else s).writeVector o.slotOf 32 o.dst.toNat (s.cycle + 2)
        (slotBypass o.slotOf) (s.guardOf o (decide (o.type = 10#4))) (perCluster o v)) ∧
      (∀ cl l w, o.has cl → l < 16 → movedLane s.act.regs (s.control o) cl l (clLanes r.1 cl) i = some w →
        nth0 (v cl) l = w) ∧
      (∀ cl l k, i = .vimm o → o.type ≠ 9#4 → o.type ≠ 10#4 → o.has cl → l < 16 → k < 32 / width o.type.toNat →
        elemOf (width o.type.toNat) k (nth0 (v cl) l) =
          ((o.src1 ++ o.src2).toInt % 2 ^ width o.type.toNat).toNat)) ∧
  (∀ (o : VOp) (s : State), wf (.vxcl o) = true → s.named (namesOf o true false true) → o.runs →
    controlOk (.vxcl o) (s.control o) = true →
    let c := s.control o
    exec (.vxcl o) s = .next (s.writeVector o.slotOf 32 o.dst.toNat (s.cycle + 6) 3 (s.guardOf o false)
      (perCluster o fun cl => s.act.regs.readV (if c / 8 % 2 = 1 then cl ^^^ (c % 8) else (cl + c % 8) % 8) o.src1.toNat)))

/-- A control value from a register that stands for nothing raises an illegal-operand fault, and the instruction does
nothing else (R153, R168, R169). -/
def Obligations.BadControlValues : Prop :=
  ∀ (i : Instr) (o : VOp) (src1 : Bool) (s : State), (movement i = some (o, src1, true) ∨ (i = .vxcl o ∧ src1 = true)) →
    wf i = true → s.named (namesOf o src1 false true) → o.runs → s.here.iss.trap = none →
    controlOk i (s.control o) = false →
    ∃ t, exec i s = .next t ∧ t.act = s.act ∧
      (∃ k, t.here.iss.trap = some k ∧ k.cause = 4 ∧ k.slot = o.slotOf.code ∧ k.pc = s.here.iss.pc)

/-- DSPLIT, QPACK and QUNPACK complete. The sliced value of an element lies within 2^(E − 7s) of it, with every slice of
magnitude 127 at most, and E in lane 0 of the companion register; with a NaN or an infinity among the elements E is 0x7FFF
and every slice 0. QPACK writes the code of each element rounded under its scale; QUNPACK writes each code's value times its
scale. All lanes of the registers written land after 6 cycles, and no other register's (R62, R164 to R166). The model's
choice (log 7): the bypass register takes one of the registers written. -/
def Obligations.GroupResults : Prop :=
  (∀ (o : VOp) (s : State), wf (.dsplit o) = true → o.runs → s.fpuFree o.slotOf →
    s.named [(o.src1.toNat, 22), (o.dst.toNat, 32), (o.dst.toNat + 1, 32)] → s.clearVectors o.slotOf →
    controlOk (.dsplit o) (s.control o) = true →
    let n := 6 + s.control o
    ∃ (t : State) (slices exps : Nat → List Word),
      exec (.dsplit o) s = .next t ∧ s.groupWritten t o [(o.dst.toNat, slices), (o.dst.toNat + 1, exps)] ∧
      ((∃ cl j, o.has cl ∧ j < 8 ∧ (decodeVal 10 (s.act.regs.pairLane cl o.src1.toNat j)).exact = none) →
        ∀ cl, o.has cl → nth0 (exps cl) 0 = 0x7FFF#32 ∧ ∀ b, b < 64 → byteOf (slices cl) b = 0) ∧
      ((∀ cl j, o.has cl → j < 8 → ((decodeVal 10 (s.act.regs.pairLane cl o.src1.toNat j)).exact).isSome = true) →
        ∃ e : Int, ∀ cl j, o.has cl → j < 8 →
          nth0 (exps cl) 0 = BitVec.ofNat 32 (e % 2 ^ 16).toNat ∧
          (∀ p, p < n → -127 ≤ (BitVec.ofNat 8 (byteOf (slices cl) (8 * p + j))).toInt ∧
            (BitVec.ofNat 8 (byteOf (slices cl) (8 * p + j))).toInt ≤ 127) ∧
          ∀ x, (decodeVal 10 (s.act.regs.pairLane cl o.src1.toNat j)).exact = some x →
            |x - (2 : Rat) ^ e * ((List.range n).map fun p =>
              ((BitVec.ofNat 8 (byteOf (slices cl) (8 * p + j))).toInt : Rat) * (2 : Rat) ^ (-(7 * (p + 1) : Int))).sum|
              < (2 : Rat) ^ (e - 7 * n))) ∧
  (∀ (o : VOp) (s : State), wf (.qpack o) = true → o.runs → s.fpuFree o.slotOf →
    s.named ([(o.src1.toNat, 22), (o.src1.toNat + 1, 22), (o.src1.toNat + 2, 22), (o.src1.toNat + 3, 22),
      (o.dst.toNat, 32), (o.dst.toNat + 1, 32)]) → s.clearVectors o.slotOf → controlOk (.qpack o) (s.control o) = true →
    let f := s.control o % 16
    let ns := (s.control o).testBit 4
    let x (cl t : Nat) : Val := decodeVal 9 (s.act.regs.lane cl (o.src1.toNat + t / 16) (t % 16)).toNat
    ∃ (t : State) (codes scales : Nat → List Word),
      exec (.qpack o) s = .next t ∧
      s.groupWritten t o ((o.dst.toNat, codes) :: (if ns then [] else [(o.dst.toNat + 1, scales)])) ∧
      ∀ cl, o.has cl →
        let k := if ns then 127 else scaleOf f ((List.range 64).map fun t => x cl t)
        (ns = false → nth0 (scales cl) 0 = BitVec.ofNat 32 k) ∧
        ∀ t, t < 64 → elemOf (width f) (t % (32 / width f)) (nth0 (codes cl) (t / (32 / width f))) =
          if k = 255 then 0 else (roundVal f o.rnd.toNat ((x cl t).scale (127 - (k : Int)))).1 % 2 ^ width f) ∧
  (∀ (o : VOp) (s : State), wf (.qunpack o) = true → o.runs → s.fpuFree o.slotOf →
    s.named ([(o.src1.toNat, 22), (o.src1.toNat + 1, 22), (o.dst.toNat, 32), (o.dst.toNat + 1, 32),
      (o.dst.toNat + 2, 32), (o.dst.toNat + 3, 32)]) → s.clearVectors o.slotOf →
    controlOk (.qunpack o) (s.control o) = true →
    let f := s.control o % 16
    ∃ (t : State) (v : Nat → Nat → List Word),
      exec (.qunpack o) s = .next t ∧ s.groupWritten t o ((List.range 4).map fun n => (o.dst.toNat + n, v n)) ∧
      ∀ cl n l, o.has cl → n < 4 → l < 16 →
        let k := if (s.control o).testBit 4 then 127 else (s.act.regs.lane cl (o.src1.toNat + 1) 0).toNat % 256
        let t := 16 * n + l
        let y := decodeVal f (elemOf (width f) (t % (32 / width f)) (s.act.regs.lane cl o.src1.toNat (t / (32 / width f))))
        nth0 (v n cl) l = if k = 255 ∨ y.isNan = true then 0x7FC00000#32
          else BitVec.ofNat 32 (roundVal 9 o.rnd.toNat (y.scale ((k : Int) - 127))).1)

/-- CVT converts element k of each unit, a lane, or a lane pair when either type is .f64, from element k of the source,
and writes 0 beyond the source's elements; latency 4, or 6 for the .f64 forms (R163). The model's choice (log 14): a form
with .f64 on either side is guarded by the even lane of each pair. -/
def Obligations.ConversionResults : Prop :=
  ∀ (o : VOp) (s : State), wf (.cvt o) = true → s.named (namesOf o true false true) → o.runs → s.fpuFree o.slotOf →
    let ts := o.type.toNat
    let td := o.src2.toNat
    let pair := decide (ts = 10 ∨ td = 10)
    let bits := if pair then 64 else 32
    let r := (s.holdFpu o.slotOf pair).operands o false
    ∃ (v : Nat → List Word) (g : Nat → FFlags),
      exec (.cvt o) s = .next (r.2.2.writeFloat o (if pair then 6 else 4) pair (perCluster o v)
        ((clustersOf o).map fun cl => (cl, g cl))) ∧
      ∀ cl u k, o.has cl → u < 512 / bits → k < bits / width td →
        unitOf pair (v cl) u / 2 ^ (width td * k) % 2 ^ width td =
          if k < bits / width ts then
            (convert ts td o.rnd.toNat o.sat (unitOf pair (r.1 cl) u / 2 ^ (width ts * k) % 2 ^ width ts)).1 % 2 ^ width td
          else 0

/-- VRED adds to each lane of the latch, or lane pair for .f64, the sum of the clusters' values in the tree of R60, a value
being absent where the guard bit is false; an empty lane takes the sum as it is, and a lane to which nothing comes stays.
RDRAIN gives the sum of the latch's values in the tree of R61, or +0 of none, to every lane or lane pair after 10 cycles and
empties the latch; with no true lane guard it does nothing (R60, R61, R170). -/
def Obligations.ReductionResults : Prop :=
  (∀ (o : VOp) (s : State) (k : Latch), wf (.vred o) = true → s.named (namesOf o true false false) → o.runs →
    k = Store.get Latch.empty s.act.regs.ps (o.dst.toNat % 4) → (k.type = 0 ∨ k.type = o.type.toNat) →
    Store.wf 0#32 (k.lanes.map fun e => (e.1, 1#32)) = true →
    let r := s.operands o false
    let pair := decide (o.type = 10#4)
    ∃ t z, exec (.vred o) s = .next t ∧ t.act.regs.ps = Store.set Latch.empty r.2.2.act.regs.ps (o.dst.toNat % 4) z ∧
      z.type = o.type.toNat ∧
      ∀ e, e < (if pair then 8 else 16) → z.value pair e = (sumOf o.type.toNat (k.value pair e)
        (sumTree o.type.toNat 3 fun cl =>
          if o.active s.act.regs cl (if pair then 2 * e else e) then some (laneOrPair o.type (r.1 cl) e) else none)).map
        fun x => x % 2 ^ width o.type.toNat) ∧
  (∀ (o : VOp) (s : State) (k : Latch), wf (.rdrain o) = true → s.named (namesOf o false false true) → o.runs →
    k = Store.get Latch.empty s.act.regs.ps (o.src1.toNat % 4) → (k.type = 0 ∨ k.type = o.type.toNat) →
    let pair := decide (o.type = 10#4)
    (s.anyLane o pair = false → exec (.rdrain o) s = .next s) ∧
    (s.anyLane o pair = true → ∃ (v : List Word) (f : FFlags),
      let t := (s.onAct fun x => { x with regs :=
          { x.regs with ps := Store.set Latch.empty x.regs.ps (o.src1.toNat % 4) Latch.empty } }).writeVector
        o.slotOf 32 o.dst.toNat (s.cycle + 10) 4 (s.guardOf o pair) (perCluster o fun _ => v)
      exec (.rdrain o) s = .next (if o.type = 4#4 then t
        else t.landFlags o.slotOf (s.cycle + 10) [(firstCluster o.mask.toNat, f)]) ∧
      ∀ e, e < (if pair then 8 else 16) → laneOrPair o.type v e =
        (sumTree o.type.toNat (if pair then 3 else 4) fun n => k.value pair n).getD 0 % 2 ^ width o.type.toNat))

/-- VMRD writes the element of the matrix operand that each lane handles, 4 cycles later and to bx5; VMWR writes the
elements whose lane guard is true, 2 cycles later (R172). A VMRD that names a register the matrix engine still uses, but
for a drain's accumulator, and a VMWR that names one, raise a schedule fault; one that names an accumulator whose sums
are not final yet holds its bundle (R173, R207). -/
def Obligations.MatrixMoves : Prop :=
  ((∀ (o : VOp) (s : State), wf (.vmrd o) = true → s.named (namesOf o false false true) → o.runs →
      o.src1.toNat % 32 < s.act.mBound → s.here.mx.uses = [] → s.here.iss.uses = [] →
      exec (.vmrd o) s = .next (s.writeVector o.slotOf 32 o.dst.toNat (s.cycle + 4) 5 (s.guardOf o false)
        (perCluster o fun cl => lanes16.map fun l =>
          let e := mElem (o.src1.toNat / 256) (s.matrixIndex o) (16 * (cl % 4) + l)
          s.act.regs.readM (o.src1.toNat % 32) e.1 e.2))) ∧
    (∀ (o : VOp) (s : State), wf (.vmwr o) = true → s.named (namesOf o true false false) → o.runs →
      o.dst.toNat % 32 < s.act.mBound → s.here.mx.uses = [] → s.here.iss.uses = [] →
      let r := s.operands o false
      ∃ cells, exec (.vmwr o) s = .next (r.2.2.land o.slotOf (s.cycle + 2) (.m cells)) ∧
        ∀ cl l, o.has cl → l < 16 →
          let e := mElem (o.dst.toNat / 256) (s.matrixIndex o) (16 * (cl % 4) + l)
          cellOf cells (mKey (o.dst.toNat % 32) e.1 e.2) =
            if o.active s.act.regs cl l then some (nth0 (r.1 cl) l) else none)) ∧
  (∀ (o : VOp) (s : State) (u : MxUse) (reg : Nat), o.runs → reg < s.act.mBound → s.here.mx.uses = [u] →
      s.here.iss.uses = [] → s.here.iss.trap = none → reg ∈ u.regs →
      (wf (.vmrd o) = true → s.named (namesOf o false false true) → o.src1.toNat % 32 = reg →
        (s.cycle ≤ u.last → u.kind ≠ 2 →
          ∃ t, exec (.vmrd o) s = .next t ∧ t.act = s.act ∧
            t.here.iss.trap = some ⟨6, o.slotOf.code, 0, s.here.iss.pc, 0⟩) ∧
        (u.kind = 0 → u.last < s.cycle → s.cycle < u.final →
          ∃ t, exec (.vmrd o) s = .next t ∧ t.here.iss.held = true)) ∧
      (wf (.vmwr o) = true → s.named (namesOf o true false false) → o.dst.toNat % 32 = reg → s.cycle ≤ u.last →
        ∃ t, exec (.vmwr o) s = .next t ∧ t.act = s.act ∧
          t.here.iss.trap = some ⟨6, o.slotOf.code, 0, s.here.iss.pc, 0⟩))

/-! ## Rounding (R52, R53, R161) -/

/-- A value that a format holds rounds to itself under every mode and raises nothing (R52, R55). The edge cases of R161
and R162 for .f32: the exact sum of unlike-signed zeros is +0, or -0 under RDN; infinities of unlike sign do not add; an
infinity times 0, 0/0 and the root of a negative number are invalid; x/0 raises DZ. -/
def Obligations.RoundingCases : Prop :=
  (∀ (t mode x : Nat) (n : Bool) (m : Nat) (e : Int), 8 ≤ t → t ≤ 13 → mode < 4 → x < 2 ^ width t →
      decodeVal t x = .num n m e → m ≠ 0 → roundVal t mode (.num n m e) = (x, FFlags.none)) ∧
  (∀ mode, mode < 4 →
      fAdd 9 mode 0x00000000 0x80000000 = (if mode = 2 then 0x80000000 else 0x00000000, FFlags.none) ∧
      fAdd 9 mode 0x7F800000 0xFF800000 = (0x7FC00000, FFlags.invalid) ∧
      fMul 9 mode 0x7F800000 0x00000000 = (0x7FC00000, FFlags.invalid) ∧
      fDiv 9 mode 0x00000000 0x00000000 = (0x7FC00000, FFlags.invalid) ∧
      fDiv 9 mode 0x3F800000 0x80000000 = (0xFF800000, FFlags.divZero) ∧
      fSqrt 9 mode 0xBF800000 = (0x7FC00000, FFlags.invalid) ∧
      fSqrt 9 mode 0x80000000 = (0x80000000, FFlags.none))

/-- Rounding to nearest: no finite value of an IEEE format lies nearer to the exact value than the result, when that is
finite (R52). -/
def Obligations.RoundsToNearest : Prop :=
  ∀ (t : Nat) (n : Bool) (m : Nat) (e : Int) (x r : Rat), t = 8 ∨ t = 9 ∨ t = 10 →
    (Val.num n m e).exact = some x → (decodeVal t (roundVal t 0 (.num n m e)).1).exact = some r →
    ∀ (y : Nat) (z : Rat), y < 2 ^ width t → (decodeVal t y).exact = some z → |x - r| ≤ |x - z|

/-! ## The memory slot -/

/-- LDS, LDV, LDX and LDM complete: the value at the address of each element, extended for LDS and LDX, is readable 5
cycles later, in the lanes whose guard is true; a post-increment is readable in the next cycle (R174, R180, R181, R184). -/
def Obligations.LoadResults : Prop :=
  (∀ (o : MsOp) (s : State), wf (.lds o) = true → o.head.never s.act.regs = false → s.plainBanks →
    s.clearMemory o.base.toNat o.s.toNat →
    let n := width o.type.toNat / 8
    let ea := s.ea o.base o.off o.pi
    ea % n = 0 → ea + n ≤ s.act.window →
    ∃ t, exec (.lds o) s = .next t ∧
      t.act.pend = s.act.pend ++ (if o.s = 0#6 then [] else
        [s.flight .m (s.cycle + 5) (.s o.s.toNat (extended o.type n (Memory.num s.here.pool (s.act.poolAddr ea) n)))]) ++
        s.increment o.base o.off o.pi ∧
      t.act.loadAt = max s.act.loadAt (s.cycle + 5) ∧ s.sameOutside t ∧ s.sameHere t) ∧
  (∀ (o : MvOp) (s : State), wf (.ldv o) = true → o.head.never s.act.regs = false → s.plainBanks →
    s.named [(o.v.toNat, 32)] →
    let ea := s.ea o.base o.off o.pi
    let cls := maskClusters o.head.mask.toNat
    ea % 64 = 0 → (∀ c ∈ cls, ea + 64 * c + 64 ≤ s.act.window) →
    ∃ (v : Nat → List Word) (rows : List Nat),
      exec (.ldv o) s = .next ((((s.access rows false 0).writeVector .m 32 o.v.toNat (s.cycle + 5) 2
        (s.memLanes o.head) (cls.map fun c => (c, v c))).postIncrement o.base.toNat (o.off.signExtend 32) o.pi).loadBy
        (s.cycle + 5)) ∧
      ∀ c ∈ cls, ∀ l, l < 16 → nth0 (v c) l = if o.head.laneOn s.act.regs c l
        then Memory.word s.here.pool (s.act.poolAddr (ea + 64 * c) + 4 * l) else 0#32) ∧
  (∀ (o : MxOp) (s : State), wf (.ldx o) = true → o.head.never s.act.regs = false → s.plainBanks →
    s.named [(o.index.toNat, 22), (o.data.toNat, 32)] →
    let n := width o.type.toNat / 8
    let cls := maskClusters o.head.mask.toNat
    let r := s.readField .m 22 o.index.toNat cls
    let at_ (c l : Nat) : Nat :=
      ((s.act.regs.readA o.base.toNat).toNat + (nth0 (clLanes r.1 c) l).toNat * n) % 2 ^ 32
    (∀ c ∈ cls, ∀ l, l < 16 → o.head.laneOn s.act.regs c l = true → at_ c l % n = 0 ∧ at_ c l + n ≤ s.act.window) →
    ∃ (v : Nat → List Word) (rows : List Nat),
      exec (.ldx o) s = .next ((({ r.2.access rows false 0 with free := s.free + 128 }).writeVector .m 32 o.data.toNat
        (s.cycle + 5) 2 (s.memLanes o.head) (cls.map fun c => (c, v c))).loadBy (s.cycle + 5)) ∧
      ∀ c ∈ cls, ∀ l, l < 16 → o.head.laneOn s.act.regs c l = true →
        nth0 (v c) l = extended o.type n (Memory.num s.here.pool (s.act.poolAddr (at_ c l)) n)) ∧
  (∀ (o : MmOp) (s : State), wf (.ldm o) = true → o.head.never s.act.regs = false → s.plainBanks →
    o.m.toNat < s.act.mBound → s.here.mx.uses = [] → s.here.iss.uses = [] →
    let ea := s.ea o.base o.off false
    ea % 64 = 0 → ea + 256 ≤ s.act.window →
    ∃ (cells : List (Nat × Word)) (rows : List Nat),
      exec (.ldm o) s = .next (((s.access rows false 0).land .m (s.cycle + 5) (.m cells)).loadBy (s.cycle + 5)) ∧
      cells.length = 64 ∧ ∀ t, t < 64 →
        let e := mElem o.dir.toNat (s.mmIndex o) t
        cellOf cells (mKey o.m.toNat e.1 e.2) = some (Memory.word s.here.pool (s.act.poolAddr ea + 4 * t)))

/-- STS, STV, STX and STM complete: one gate entry holds the bytes of exactly the elements whose guard is true, at their
addresses, to be written two cycles later; no byte of memory and no register changes at issue (R176, R177, R180, R181,
R184). The pool when a store is written: the bits its entry gives, and every byte outside its cells as before; the bytes
overwritten are kept while it is unreleased (R176, R177, R234). -/
def Obligations.StoreResults : Prop :=
  ((∀ (o : MsOp) (s : State), wf (.sts o) = true → o.head.never s.act.regs = false → s.plainBanks →
      s.clearMemory o.base.toNat 64 →
      let n := width o.type.toNat / 8
      let ea := s.ea o.base o.off o.pi
      ea % n = 0 → ea + n ≤ s.act.window →
      ∃ t, exec (.sts o) s = .next t ∧
        t.act.gate = s.act.gate ++ [s.storeEntry (cellsAt (s.act.poolAddr ea) (toBytes (s.act.regs.readS o.s.toNat).toNat n))] ∧
        t.act.pend = s.act.pend ++ s.increment o.base o.off o.pi ∧ s.sameOutside t ∧ s.sameHere t) ∧
    (∀ (o : MvOp) (s : State), wf (.stv o) = true → o.head.never s.act.regs = false → s.plainBanks →
      s.named [(o.v.toNat, 32)] →
      let ea := s.ea o.base o.off o.pi
      let cls := maskClusters o.head.mask.toNat
      let r := s.readField .m 32 o.v.toNat cls
      ea % 64 = 0 → (∀ c ∈ cls, ea + 64 * c + 64 ≤ s.act.window) →
      ∃ t cells, exec (.stv o) s = .next t ∧ t.act.gate = r.2.act.gate ++ [s.storeEntry cells] ∧
        (∀ a, lookup cells a = (((cls.map fun c => (List.range 16).map fun l => (c, l)).flatten).find? fun e =>
            o.head.laneOn s.act.regs e.1 e.2 &&
              decide (s.act.poolAddr (ea + 64 * e.1) + 4 * e.2 ≤ a ∧ a < s.act.poolAddr (ea + 64 * e.1) + 4 * e.2 + 4)).map
          fun e => BitVec.ofNat 8 ((nth0 (clLanes r.1 e.1) e.2).toNat /
            256 ^ (a - (s.act.poolAddr (ea + 64 * e.1) + 4 * e.2)))) ∧
        (o.v.toNat < 768 → s.clearMemory o.base.toNat 64 →
          t.act.pend = s.act.pend ++ s.increment o.base o.off o.pi ∧ s.sameOutside t ∧ s.sameHere t)) ∧
    (∀ (o : MxOp) (s : State), wf (.stx o) = true → o.head.never s.act.regs = false → s.plainBanks →
      s.named [(o.index.toNat, 22), (o.data.toNat, 32)] →
      let n := width o.type.toNat / 8
      let cls := maskClusters o.head.mask.toNat
      let r := s.readField .m 22 o.index.toNat cls
      let d := r.2.readField .m 32 o.data.toNat cls
      let at_ (c l : Nat) : Nat :=
        ((s.act.regs.readA o.base.toNat).toNat + (nth0 (clLanes r.1 c) l).toNat * n) % 2 ^ 32
      (∀ c ∈ cls, ∀ l, l < 16 → o.head.laneOn s.act.regs c l = true → at_ c l % n = 0 ∧ at_ c l + n ≤ s.act.window) →
      ∃ t cells, exec (.stx o) s = .next t ∧ t.act.gate = d.2.act.gate ++ [s.storeEntry cells] ∧
        (∀ c ∈ cls, ∀ l, l < 16 → o.head.laneOn s.act.regs c l = true →
          (∀ c' ∈ cls, ∀ l', l' < 16 → o.head.laneOn s.act.regs c' l' = true → 16 * c + l < 16 * c' + l' →
            at_ c' l' ≠ at_ c l) →
          ∀ k, k < n → lookup cells (s.act.poolAddr (at_ c l) + k) =
            some (BitVec.ofNat 8 ((nth0 (clLanes d.1 c) l).toNat / 256 ^ k))) ∧
        (∀ a, (∀ c ∈ cls, ∀ l, l < 16 → o.head.laneOn s.act.regs c l = true →
          a < s.act.poolAddr (at_ c l) ∨ s.act.poolAddr (at_ c l) + n ≤ a) → lookup cells a = none) ∧
        (o.index.toNat < 768 → o.data.toNat < 768 → s.sameOutside t ∧ s.sameHere t)) ∧
    (∀ (o : MmOp) (s : State), wf (.stm o) = true → o.head.never s.act.regs = false → s.plainBanks →
      o.m.toNat < s.act.mBound → s.here.mx.uses = [] → s.here.iss.uses = [] →
      let ea := s.ea o.base o.off false
      ea % 64 = 0 → ea + 256 ≤ s.act.window →
      ∃ t cells, exec (.stm o) s = .next t ∧ t.act.gate = s.act.gate ++ [s.storeEntry cells] ∧
        (∀ e k, e < 64 → k < 4 → lookup cells (s.act.poolAddr ea + 4 * e + k) = some (BitVec.ofNat 8
          ((s.act.regs.readM o.m.toNat (mElem o.dir.toNat (s.mmIndex o) e).1 (mElem o.dir.toNat (s.mmIndex o) e).2).toNat /
            256 ^ k))) ∧
        (∀ a, a < s.act.poolAddr ea ∨ s.act.poolAddr ea + 256 ≤ a → lookup cells a = none) ∧
        s.sameOutside t ∧ s.sameHere t)) ∧
  (∀ (g : Gated) (cycle : Nat) (m : Memory), m.wf = true → g.masks = [] → g.stream = none →
      (g.cells.map fun e => e.1).Nodup →
      let r := g.writeInto cycle m
      (∀ e ∈ g.cells, Memory.read r.2 e.1 = e.2) ∧
      (∀ a, (∀ e ∈ g.cells, e.1 ≠ a) → Memory.read r.2 a = Memory.read m a) ∧ r.1.written = true ∧
      (∀ e ∈ g.cells, ∃ u ∈ r.1.old, u.addr = e.1 ∧ u.byte = Memory.read m e.1 ∧ u.mask = 0xFF#8) ∧ r.2.wf = true)

/-- A misaligned address, or an extent that leaves the window, raises a scratchpad-range fault at issue; nothing is read,
written, advanced or numbered (R174, R180, R184, R185, R187, R192, R193). LDX and STX name the address of the first lane of
true guard that breaks the rule, in the order of cluster, then lane (R181); LDT and STT fault on a field that breaks the
limits of R183. -/
def Obligations.RangeFaults : Prop :=
  (∀ (i : Instr) (o : MxOp) (s : State) (c l : Nat), i = .ldx o ∨ i = .stx o → wf i = true →
    o.head.never s.act.regs = false → s.named [(o.index.toNat, 22), (o.data.toNat, 32)] → s.here.iss.trap = none →
    let n := width o.type.toNat / 8
    let cls := maskClusters o.head.mask.toNat
    let r := s.readField .m 22 o.index.toNat cls
    let at_ (c l : Nat) : Nat :=
      ((s.act.regs.readA o.base.toNat).toNat + (nth0 (clLanes r.1 c) l).toNat * n) % 2 ^ 32
    let bad (c l : Nat) : Prop :=
      o.head.laneOn s.act.regs c l = true ∧ (at_ c l % n ≠ 0 ∨ s.act.window < at_ c l + n)
    c ∈ cls → l < 16 → bad c l → (∀ c' ∈ cls, ∀ l', l' < 16 → 16 * c' + l' < 16 * c + l → ¬ bad c' l') →
    ∃ t, exec i s = .next t ∧ t.here.iss.trap = some ⟨5, 6, 0, s.here.iss.pc, at_ c l⟩ ∧ t.act = s.act ∧
      t.here.pool = s.here.pool ∧ s.sameOutside t) ∧
  (∀ (i : Instr) (o : MvOp) (s : State), i = .ldt o ∨ i = .stt o → wf i = true →
    o.head.never s.act.regs = false → s.named [(o.v.toNat, 32)] → s.here.iss.trap = none →
    ¬ fieldFits s.act (s.ea o.base o.off o.pi) (width o.type.toNat) →
    ∃ t, exec i s = .next t ∧ t.here.iss.trap = some ⟨5, 6, 0, s.here.iss.pc, s.ea o.base o.off o.pi⟩ ∧ t.act = s.act ∧
      t.here.pool = s.here.pool ∧ s.sameOutside t) ∧
  ∀ (i : Instr) (s : State) (h : MHead) (ea al : Nat) (l : List (Nat × Nat)), extents s i = some (h, ea, al, l) →
    wf i = true → h.never s.act.regs = false → s.here.iss.trap = none → s.here.mx.uses = [] → s.here.iss.uses = [] →
    (∀ o, i = .ldv o ∨ i = .stv o → s.named [(o.v.toNat, 32)]) →
    (∀ o, i = .ldm o ∨ i = .stm o → o.m.toNat < s.act.mBound) →
    (ea % al ≠ 0 ∨ ∃ e ∈ l, s.act.window < e.1 + e.2) →
    ∃ t, exec i s = .next t ∧ t.here.iss.trap = some ⟨5, 6, 0, s.here.iss.pc, ea⟩ ∧ t.act = s.act ∧ t.ops = s.ops ∧
      t.here.pool = s.here.pool ∧ s.sameOutside t

/-- LDT and STT complete, away from pane runs. LDT writes its destination w + 4 cycles after issue; of a register, bit 0 of
each element is in flight at issue from row 0, and row b is read in the b-th cycle. STT writes row b in cycle i + 2 + b, the
bits of the elements whose guard is true (R183). -/
def Obligations.TransposedTransfers : Prop :=
  (∀ (o : MvOp) (s : State), wf (.ldt o) = true → o.head.never s.act.regs = false → s.plainBanks →
    s.named [(o.v.toNat, 32)] →
    let ea := s.ea o.base o.off o.pi
    let w := width o.type.toNat
    let p := s.act.poolAddr ea
    fieldFits s.act ea w →
    ∃ t rows vals, exec (.ldt o) s = .next t ∧
      t.act.gate = ((s.access rows false 0).writeVector .m 32 o.v.toNat (s.cycle + w + 4) 2 (s.memLanes o.head) vals).act.gate ∧
      t.act.loadAt = max s.act.loadAt (s.cycle + w + 4) ∧
      (o.v.toNat < 768 → (∀ q ∈ s.act.pend, q.seq ≠ s.act.seq) →
        ∃ cells, s.flight .m (s.cycle + w + 4) (.v cells) ∈ t.act.pend ∧
        (∀ c l j, c < 8 → l < 16 → j < 32 / w → o.head.laneOn s.act.regs c l = true →
          ∃ x, cellOf cells (vKey c (s.act.regs.physical o.v.toNat) l) = some x ∧
            x.getLsbD (w * j) = (Memory.read s.here.pool (fieldPlace p w c l j 0).1).getLsbD (fieldPlace p w c l j 0).2 ∧
            ∀ b, 0 < b → b < w → ∃ bits, s.flight .m (s.cycle + b) (.ldtRow bits) ∈ t.act.pend ∧
              (vKey c (s.act.regs.physical o.v.toNat) l, w * j + b, (fieldPlace p w c l j b).1,
                (fieldPlace p w c l j b).2) ∈ bits) ∧
        s.sameOutside t ∧ t.act.regs = s.act.regs ∧ t.here.pool = s.here.pool)) ∧
  (∀ (o : MvOp) (s : State), wf (.stt o) = true → o.head.never s.act.regs = false → s.plainBanks →
    s.named [(o.v.toNat, 32)] →
    let ea := s.ea o.base o.off o.pi
    let w := width o.type.toNat
    let p := s.act.poolAddr ea
    let r := s.readField .m 32 o.v.toNat (maskClusters o.head.mask.toNat)
    fieldFits s.act ea w →
    ∃ t entries, exec (.stt o) s = .next t ∧ t.act.gate = r.2.act.gate ++ entries ∧ entries.length = w ∧
      (∀ b g, entries[b]? = some g → g.wcycle = s.cycle + 2 + b ∧ g.seq = s.act.seq ∧ g.released = false ∧
        g.part = decide (0 < b) ∧
        (∀ c l j, c < 8 → l < 16 → j < 32 / w → o.head.laneOn s.act.regs c l = true →
          ∃ x m, lookup g.cells (fieldPlace p w c l j b).1 = some x ∧ lookup g.masks (fieldPlace p w c l j b).1 = some m ∧
            m.getLsbD (fieldPlace p w c l j b).2 = true ∧
            x.getLsbD (fieldPlace p w c l j b).2 = (nth0 (clLanes r.1 c) l).getLsbD (w * j + b)) ∧
        (∀ c l j, c < 8 → l < 16 → j < 32 / w → o.head.laneOn s.act.regs c l = false →
          ∀ m, lookup g.masks (fieldPlace p w c l j b).1 = some m → m.getLsbD (fieldPlace p w c l j b).2 = false)) ∧
      (o.v.toNat < 768 → s.sameOutside t ∧ t.act.regs = s.act.regs ∧ t.here.pool = s.here.pool))

/-- AMO completes: its access takes place two cycles later; at pkg scope or wider it takes the next number of the die's
writes (R316). That access writes the word of the operation, leaves every other byte, and gives the old word to sD three
cycles after (R185). FENCE completes: the next bundle waits until every earlier load is readable (SET all and ld), and until
every earlier store's bytes are written (SET all and st) (R186). The model's choice (log 115): the access is not held for
the clock of the die. -/
def Obligations.AtomicsAndFences : Prop :=
  ((∀ (o : MaOp) (s : State), wf (.amo o) = true → o.head.never s.act.regs = false → s.plainBanks →
      let a := (s.act.regs.readA o.addr.toNat).toNat
      let e : Eff := .amo (s.act.poolAddr a) o.aop.toNat (s.act.regs.readS o.src.toNat) (s.act.regs.readS o.cmp.toNat)
        o.dst.toNat
      a % 4 = 0 → a + 4 ≤ s.act.window → s.clear .m e →
      ∃ t, exec (.amo o) s = .next t ∧ t.act.pend = s.act.pend ++ [s.flight .m (s.cycle + 2) e] ∧
        t.act.loadAt = max s.act.loadAt (s.cycle + 5) ∧ s.sameHere t ∧ (∀ n, n ≠ s.cur → t.core n = s.core n) ∧
        t.hbm = s.hbm ∧ t.host = s.host ∧ t.pod = s.pod ∧
        (s.here.iss.scope < 3 → s.sameOutside t) ∧
        (3 ≤ s.here.iss.scope → (t.die (s.cur / 32)).sent = (s.die (s.cur / 32)).sent + 1 ∧
          ∀ d, d ≠ s.cur / 32 → t.die d = s.die d)) ∧
    (∀ (c : Core) (l : Landing) (a d : Nat) (op : BitVec 4) (x k : Word), l.eff = .amo a op.toNat x k d → op.toNat ≤ 9 →
      let old := Memory.word c.pool a
      (c.landAccess l).late = c.late ++ [⟨0, l.due, cellsAt a (toBytes (amoValue op old x k).toNat 4)⟩] ∧
      (c.landAccess l).pool = c.pool ∧
      (c.landAccess l).act.pend = c.act.pend ++ (if d = 0 then [] else [{ l with due := l.due + 3, eff := .s d old }]))) ∧
  (∀ (h : MHead) (set : BitVec 2) (s : State), wf (.fence h set) = true → h.never s.act.regs = false →
      ∃ t, exec (.fence h set) s = .next t ∧
        t.here.iss.bound = (if set = 2#2 then s.here.iss.bound else max s.here.iss.bound s.act.loadAt) ∧
        t.here.iss.waits = s.here.iss.waits ++ (if set = 1#2 then [] else [.stores s.act.seq]) ∧ t.act = s.act ∧
        s.sameOutside t)

/-- BIND completes: from the next cycle the register is bound to what its descriptor names, at position 0; a descriptor that
names nothing raises an illegal-operand fault, and the earlier binding stands. An affine descriptor of one dimension names
its base, stride, count and WRAP. UNBIND leaves the register unbound from the next cycle. CBSET leaves every slot of the
buffer free and none filled (R187, R188, R192). The model's choice (log 25): the fault names the upper syllable of the slot.
-/
def Obligations.StreamBindings : Prop :=
  (∀ (o : MbOp) (s : State), wf (.bind o) = true → o.head.never s.act.regs = false → s.plainBanks →
    let a := (s.act.regs.readA o.addr.toNat).toNat
    let d := (List.range 16).map fun k => Memory.word s.here.pool (s.act.poolAddr (a + 4 * k))
    let w (k : Nat) : Nat := (nth0 d k).toNat
    a % 64 = 0 → a + 64 ≤ s.act.window →
    (∀ src, w 0 % 4 = o.kind.toNat → w 0 < 2048 →
      s.act.sourceOf d (w 0 / 4 % 4) (decide (w 0 / 16 % 2 = 1)) = some src →
      (∀ num nb nbp, src = .pipe num nb nbp → s.pipeBindable (s.act.gang.getD 0) num (w 0 / 4 % 4) (decide (w 0 / 16 % 2 = 1)) = true) →
      ∃ t, exec (.bind o) s = .next t ∧ t.act.pend = s.act.pend ++ [s.flight .m (s.cycle + 1) (.bindQ o.q.toNat (some
        ⟨src, w 0 / 4 % 4, decide (w 0 / 16 % 2 = 1), 0, s.act.binds⟩))] ∧ t.act.regs = s.act.regs ∧ s.sameOutside t) ∧
    (w 0 % 4 ≠ o.kind.toNat ∨ 2048 ≤ w 0 ∨ s.act.sourceOf d (w 0 / 4 % 4) (decide (w 0 / 16 % 2 = 1)) = none →
      s.here.iss.trap = none → ∃ t, exec (.bind o) s = .next t ∧ t.act = s.act ∧
        t.here.iss.trap = some ⟨4, 6, 0, s.here.iss.pc, 11⟩)) ∧
  (∀ (x : Ctx) (d : List Word) (ew : Nat) (dir : Bool), d.length = 16 →
    let w (k : Nat) : Nat := (nth0 d k).toNat
    w 0 % 4 = 0 → w 0 / 32 % 32 = 0 → w 1 % 4 = 0 → w 2 % 4 = 0 → 0 < w 3 → w 3 < 65536 → (∀ k, 4 ≤ k → w k = 0) →
    x.sourceOf d ew dir = some (.affine (w 1) [(w 2, w 3)] (decide (w 0 / 1024 % 2 = 1)))) ∧
  (∀ (o : MbOp) (s : State), wf (.unbind o) = true → o.head.never s.act.regs = false →
    exec (.unbind o) s = .next (s.inFlight [s.flight .m (s.cycle + 1) (.bindQ o.q.toNat none)])) ∧
  (∀ (o : MbOp) (s : State), wf (.cbset o) = true → o.head.never s.act.regs = false → s.plainBanks →
    let a := (s.act.regs.readA o.addr.toNat).toNat
    let w (k : Nat) : Nat := (Memory.word s.here.pool (s.act.poolAddr (a + 4 * k))).toNat
    a % 64 = 0 → a + 64 ≤ s.act.window → w 0 % 4 = 0 → w 1 % 4 = 0 → 0 < w 1 → 0 < w 2 → w 2 ≤ 4096 →
    w 0 + w 1 * w 2 ≤ s.act.window → s.act.bufferBound o.q.toNat = false →
    (∀ c ∈ s.ops, c.core = s.cur → c.cid = s.act.cid → c.namesBuffer o.q.toNat = false) →
    ∃ t, exec (.cbset o) s = .next t ∧ t.act.regs = { s.act.regs with
      cb := Store.set CBuf.unset s.act.regs.cb o.q.toNat ⟨w 0, w 1, w 2, w 2, 0, 0, 0, 0, 0, 0, 0⟩ } ∧ s.sameOutside t)

/-- COPY, COPYO, GATHERP, MPOST and TQPUSH complete: the operation takes the next number of its counter, which sN receives
in the next cycle, and goes to its engine with the sixteen words of its packet as they stand (R30, R193). -/
def Obligations.CopyIssue : Prop :=
  ∀ (i : Instr) (o : McOp) (kind : Nat) (s : State),
    ((i = .copy o ∧ kind = 0) ∨ (i = .copyo o ∧ kind = 1) ∨ (i = .gatherp o ∧ kind = 2) ∨ (i = .mpost o ∧ kind = 3) ∨
      (i = .tqpush o ∧ kind = 4)) → wf i = true → o.head.never s.act.regs = false → s.plainBanks →
    s.clearMemory 16 o.s.toNat →
    let a := (s.act.regs.readA o.addr.toNat).toNat
    a % 64 = 0 → a + 64 ≤ s.act.window → s.here.act.outstanding + s.here.shadow.outstanding < 8192 →
    let packet := (List.range 16).map fun k => Memory.word s.here.pool (s.act.poolAddr (a + 4 * k))
    (isTimed kind packet = true → (s.ops.filter fun p => decide (p.core = s.cur) && isTimed p.kind p.packet).length < 16) →
    let num := (s.act.timeline o.tl.toNat).i + 1
    ∃ t op, exec i s = .next t ∧ t.ops = s.ops ++ [op] ∧
      op.kind = kind ∧ op.core = s.cur ∧ op.cid = s.act.cid ∧ op.tl = o.tl.toNat ∧ op.num = num ∧ op.issued = s.cycle ∧
      op.scope = s.here.iss.scope ∧ op.stage = .ready ∧ op.row = 0 ∧ op.id = s.nextOp ∧
      op.packet = packet ∧
      t.act.timeline o.tl.toNat = ⟨num, (s.act.timeline o.tl.toNat).out ++ [num]⟩ ∧
      t.act.pend = s.act.pend ++
        (if o.s = 0#6 then [] else [s.flight .m (s.cycle + 1) (.s o.s.toNat (BitVec.ofNat 32 num))]) ∧
      t.act.regs = s.act.regs ∧ t.here.pool = s.here.pool ∧ s.sameOutside t

/-! ## The control slot -/

/-- NOP with any guard is well-formed and does nothing (R134). Transfers complete: the bundle goes on at the target, no
earlier than 3 + STALL cycles after it; CALL leaves the fall-through PC in s63; BREAK empties the innermost level, and
without one raises a loop-stack fault. No other register and no memory changes (R126, R127, R129, R133). -/
def Obligations.ControlTransfers : Prop :=
  (∀ (g : SGuard) (s : State), wf (.nop g) = true ∧ exec (.nop g) s = .next s) ∧
  ∀ (g : SGuard) (s : State), g.holds s.act.regs = true →
    (∀ t, exec (.br g t) s = .next (s.transferTo t.toNat)) ∧
    (∀ n, exec (.brx g n) s = .next (s.transferTo ((s.act.regs.readS n.toNat).toNat % 2 ^ 15))) ∧
    (∀ t, s.clear .c (.s 63 (BitVec.ofNat 32 (s.after s.here.iss.pc))) → exec (.call g t) s = .next
      ((s.inFlight [s.flight .c (s.cycle + 1) (.s 63 (BitVec.ofNat 32 (s.after s.here.iss.pc)))]).transferTo t.toNat)) ∧
    exec (.ret g) s = .next (s.transferTo ((s.act.regs.readS 63).toNat % 2 ^ 15)) ∧
    (∀ l, s.act.regs.loops.getLast? = some l →
      exec (.brk g) s = .next ((s.transferTo (s.after l.fin)).onIss fun i => { i with pop := true })) ∧
    (s.act.regs.loops = [] → s.here.iss.trap = none →
      exec (.brk g) s = .next (s.onIss fun i => { i with trap := some ⟨7, 0, 0, i.pc, 0⟩ }))

/-- LOOP, LOOPS and LOOPS.W ask for a new level with count c and the body from the fall-through PC to END; a count of zero
skips the body of a LOOPS; more than six levels, a body beyond the enclosing END and a count above 65,535 fault. LOOPS.W
also declares or removes the rotation window (R130, R131). The model's choice (log 124): a full stack is found before a body
that is too long. The sequencer's step after a bundle. Of a level whose END it is and which has iterations left: its index
rises, control goes to BEG, its rotation window turns by one register, and every address register gets its delta, added
after what the bundle itself writes. On the last iteration the level becomes empty, and the enclosing level is asked whether
the bundle is its END too. A taken transfer wins over both (R19, R20, R132). -/
def Obligations.HardwareLoops : Prop :=
  (∀ (g : SGuard) (s : State) (n : BitVec 6) (e : BitVec 12), g.holds s.act.regs = true →
      let beg := s.after s.here.iss.pc
      let k := (s.act.regs.readS n.toNat).toNat
      let d := (s.act.regs.readS (n.toNat + 1)).toNat
      let fits := ∀ l, s.act.regs.loops.getLast? = some l → beg + e.toNat ≤ l.fin
      let window (level : Option Nat) : Option Rotation :=
        if d.testBit 31 then some ⟨d % 1024, d / 1024 % 256 + 1, 0, level⟩ else none
      let legal := d.testBit 31 = true → d / 2 ^ 18 % 2 ^ 13 = 0 ∧ d % 1024 + d / 1024 % 256 + 1 ≤ s.act.vBound
      (∀ c : BitVec 10, s.act.regs.loops.length < 6 → fits →
        exec (.loop g c e) s = .next (s.onIss fun i => { i with push := some ⟨0, c.toNat + 1, beg, beg + e.toNat⟩ })) ∧
      (0 < k → k ≤ 65535 → s.act.regs.loops.length < 6 → fits →
        exec (.loops g n e) s = .next (s.onIss fun i => { i with push := some ⟨0, k, beg, beg + e.toNat⟩ }) ∧
        (legal → exec (.loopsW g n e) s = .next (s.onIss fun i => { i with
          push := some ⟨0, k, beg, beg + e.toNat⟩, rotate := some (window (some s.act.regs.loops.length)) }))) ∧
      (k = 0 → exec (.loops g n e) s = .next (s.transferTo (s.after (beg + e.toNat))) ∧
        (legal → exec (.loopsW g n e) s = .next
          ((s.transferTo (s.after (beg + e.toNat))).onIss fun i => { i with rotate := some (window none) }))) ∧
      (s.here.iss.trap = none →
        (∀ c : BitVec 10, 6 ≤ s.act.regs.loops.length →
          exec (.loop g c e) s = .next (s.onIss fun i => { i with trap := some ⟨7, 0, 0, i.pc, 0⟩ })) ∧
        (∀ c : BitVec 10, s.act.regs.loops.length < 6 → ¬ fits →
          exec (.loop g c e) s = .next (s.onIss fun i => { i with trap := some ⟨4, 0, 0, i.pc, 1⟩ })) ∧
        (0 < k → k ≤ 65535 → 6 ≤ s.act.regs.loops.length →
          exec (.loops g n e) s = .next (s.onIss fun i => { i with trap := some ⟨7, 0, 0, i.pc, 0⟩ }) ∧
          (legal → ∃ t, exec (.loopsW g n e) s = .next t ∧ t.act = s.act ∧
            t.here.iss.trap = some ⟨7, 0, 0, s.here.iss.pc, 0⟩)) ∧
        (0 < k → k ≤ 65535 → s.act.regs.loops.length < 6 → ¬ fits →
          exec (.loops g n e) s = .next (s.onIss fun i => { i with trap := some ⟨4, 0, 0, i.pc, 1⟩ }) ∧
          (legal → ∃ t, exec (.loopsW g n e) s = .next t ∧ t.act = s.act ∧
            t.here.iss.trap = some ⟨4, 0, 0, s.here.iss.pc, 1⟩)) ∧
        (65535 < k → exec (.loops g n e) s = .next (s.onIss fun i => { i with trap := some ⟨4, 0, 0, i.pc, 1⟩ }) ∧
          (legal → ∃ t, exec (.loopsW g n e) s = .next t ∧ t.act = s.act ∧
            t.here.iss.trap = some ⟨4, 0, 0, s.here.iss.pc, 1⟩)) ∧
        (¬ legal → exec (.loopsW g n e) s = .next (s.onIss fun i => { i with trap := some ⟨4, 0, 0, i.pc, 1⟩ })))) ∧
  (∀ (x : Ctx) (p : Nat) (ls : List Level) (l : Level), x.regs.loops = ls ++ [l] →
      (∀ w k, x.regs.rot = some w → w.level = some k → k ≤ ls.length) → Store.wf 0#32 x.regs.a = true →
      let next := if x.index p = 0xFFFF then p + 25 else p + 1
      let delta (n : Nat) : Word := (Store.get 0#24 x.regs.aut (6 * n + ls.length)).signExtend 32
      (l.fin = p → l.idx + 1 < l.cnt →
        let y := (x.advance p none).1
        (x.advance p none).2 = true ∧ y.regs.pc = l.beg ∧ y.regs.loops = ls ++ [{ l with idx := l.idx + 1 }] ∧
        y.regs.rot = x.regs.rot.map (fun w =>
          if w.level = some ls.length then { w with wo := (w.wo + w.wl - 1) % w.wl } else w) ∧
        (∀ n, y.regs.readA n = if n < 16 then x.regs.readA n + delta n else x.regs.readA n) ∧
        (∀ o ∈ x.pend, o.seq = x.seq → o.eng = false → ∀ n v, n < 16 → o.eff = .a n v →
          { o with eff := .a n (v + delta n) } ∈ y.pend) ∧
        y.regs.s = x.regs.s ∧ y.regs.v = x.regs.v ∧ y.regs.aut = x.regs.aut) ∧
      (l.fin = p → l.cnt ≤ l.idx + 1 → (∀ k, ls.getLast? = some k → k.fin ≠ p) →
        (x.advance p none).2 = false ∧ (x.advance p none).1.regs.pc = next ∧
        (x.advance p none).1.regs.loops = ls ∧ (x.advance p none).1.regs.a = x.regs.a) ∧
      (l.fin = p → l.cnt ≤ l.idx + 1 → x.advance p none = ({ x with regs := x.regs.setLoops ls }).advance p none) ∧
      (l.fin ≠ p → (x.advance p none).2 = false ∧ (x.advance p none).1.regs.pc = next ∧
        (x.advance p none).1.regs.loops = x.regs.loops ∧ (x.advance p none).1.regs.a = x.regs.a) ∧
      (∀ t, (x.advance p (some t)).2 = false ∧ (x.advance p (some t)).1.regs = { x.regs with pc := t }))

/-- WAIT and WAITO hold the next bundle on the threshold that the form gives; C is the largest number up to which every
operation has completed; a wait that holds no longer is over, and nothing else of the core changes below pkg scope. BAR is
an arrival at the next instance of its scope and holds the next bundle on it; without membership it faults. The release of
an instance, its latency after the last arrival, frees every member (R30, R138, R139). -/
def Obligations.WaitsAndBarriers : Prop :=
  (∀ (g : SGuard) (s : State) (t : BitVec 5) (n : BitVec 6) (e : BitVec 10), g.holds s.act.regs = true →
    let lo := (s.act.regs.readS n.toNat).toNat
    exec (.wait g t n) s = .next (s.onIss fun i => { i with
      waits := i.waits ++ [.count t.toNat ((s.act.regs.readS (n.toNat + 1)).toNat * 2 ^ 32 + lo) i.scope] }) ∧
    exec (.waitRel g t e) s = .next (s.onIss fun i => { i with
      waits := i.waits ++ [.count t.toNat ((s.act.timeline t.toNat).i - e.toNat) i.scope] }) ∧
    exec (.waito g t n) s = .next (s.onIss fun i => { i with waits := i.waits ++ [.outstanding t.toNat lo] }) ∧
    exec (.waitoImm g t e) s = .next (s.onIss fun i => { i with waits := i.waits ++ [.outstanding t.toNat e.toNat] })) ∧
  (∀ (t : Timeline) (n : Nat), (∀ o ∈ t.out, 1 ≤ o) → (n ≤ t.c ↔ n ≤ t.i ∧ ∀ o ∈ t.out, n < o)) ∧
  (∀ (s : State) (core : Nat) (w : Wait), core < 512 → w ∈ (s.core core).act.waits → (s.core core).act.conditionHolds w →
    ∃ v ∈ (s.core core).act.waits, (s.core core).act.conditionHolds v ∧
      ∃ t, exec (.waitSatisfied core) s = .next t ∧
        (t.core core).act.waits = (s.core core).act.waits.erase v ∧
        (t.core core).act.regs = (s.core core).act.regs ∧ (t.core core).act.pend = (s.core core).act.pend ∧
        (∀ m, m ≠ core → t.core m = s.core m) ∧ t.hbm = s.hbm ∧ t.host = s.host ∧
        ((∀ tl n scope, v = .count tl n scope → scope < 3) → t.dies = s.dies)) ∧
  (∀ (g : SGuard) (s : State) (c : BitVec 3), g.holds s.act.regs = true →
    (∀ key, s.group s.cur s.act c.toNat = some key → ∃ t inst, exec (.bar g c) s = .next t ∧
      t.here.iss.waits = s.here.iss.waits ++ [.barrier inst] ∧
      t.act.barriers = Store.insert s.act.barriers key.1 (Store.get 0 s.act.barriers key.1 + 1) ∧
      (∃ b ∈ t.dist.barriers, b.id = inst ∧ b.scope = key.1 ∧ b.key = key.2.1 ∧
        b.inst = Store.get 0 s.act.barriers key.1 + 1 ∧ (s.cur, s.act.cid) ∈ b.arrived) ∧ s.sameOutside t ∧ s.sameHere t) ∧
    (s.group s.cur s.act c.toNat = none → s.here.iss.trap = none →
      exec (.bar g c) s = .next (s.onIss fun i => { i with trap := some ⟨4, 0, 0, i.pc, 1⟩ }))) ∧
  (∀ (s : State) (b : Barrier) (a : Nat), s.dist.barriers.find? (fun e => decide (e.id = b.id)) = some b → b.full = some a →
    a + (if b.scope = 1 then 8 else if b.scope = 2 then 40 else if b.scope = 3 then 220 else 1300) ≤ s.cycle →
    (b.scope = 4 → ∀ d, (s.die d).routesDown = []) →
    ∃ t, exec (.barrierRelease b.id) s = .next t ∧
      (∀ n, (t.core n).act.waits = (s.core n).act.waits.filter (fun w => !decide (w = .barrier b.id)) ∧
        (t.core n).shadow.waits = (s.core n).shadow.waits.filter (fun w => !decide (w = .barrier b.id)) ∧
        (t.core n).act.regs = (s.core n).act.regs ∧ (t.core n).pool = (s.core n).pool) ∧
      (∀ e ∈ t.dist.barriers, e.id ≠ b.id) ∧ t.hbm = s.hbm ∧ t.host = s.host ∧ (b.scope < 3 → t.dies = s.dies))

/-- HALT asks the sequencer to end the task's issue; YIELD sets the yield request; TRAP raises a software trap with its
code. SHUTC, with no repeat running into its shutter, leaves the shutter empty and its contents on their way to its target,
readable after the settle cycle; SHUTD leaves it empty; either holds the next bundle until after that cycle (R135, R136,
R137, R141). -/
def Obligations.ControlEffects : Prop :=
  ∀ (g : SGuard) (s : State), g.holds s.act.regs = true →
    exec (.halt g) s = .next (s.onIss fun i => { i with halt := true }) ∧
    exec (.yield g) s = .next (s.onAct fun x => { x with yield := true }) ∧
    (∀ k : BitVec 16, s.here.iss.trap = none →
      exec (.trap g k) s = .next (s.onIss fun i => { i with trap := some ⟨0xA, 0, 0, i.pc, k.toNat⟩ })) ∧
    (∀ (h : BitVec 1) (e : Nat), s.here.mx.rep = none → s.settledAt h.toNat e →
      (∀ o ∈ s.act.pend, o.seq ≠ s.act.seq) →
      (∃ t, exec (.shutd g h) s = .next t ∧ t.act.shutter h.toNat = none ∧ t.act.regs = s.act.regs ∧
        t.act.pend = s.act.pend ∧ t.act.shutter (1 - h.toNat) = s.act.shutter (1 - h.toNat) ∧
        t.here.iss.bound = max s.here.iss.bound (max (e + 1) (s.cycle + 1 + s.here.iss.stall)) ∧ s.sameOutside t) ∧
      (∀ k, s.act.shutter h.toNat = some k → ∃ t cells, exec (.shutc g h) s = .next t ∧ t.act.shutter h.toNat = none ∧
        t.act.regs = s.act.regs ∧ t.act.shutter (1 - h.toNat) = s.act.shutter (1 - h.toNat) ∧
        t.act.pend = s.act.pend ++ [⟨e + 1, s.act.seq, .c, s.here.iss.pc, true, true, .m cells⟩] ∧
        (∀ i j, i < 64 → j < 64 → cellOf cells (mKey k.target i j) = some (Store.get 0#32 k.cells (64 * i + j))) ∧
        t.here.iss.bound = max s.here.iss.bound (max (e + 1) (s.cycle + 1 + s.here.iss.stall)) ∧ s.sameOutside t) ∧
      (s.act.shutter h.toNat = none → exec (.shutc g h) s = exec (.shutd g h) s))

/-- SYSRD puts the register's value in flight to sN, readable 2 cycles later. SYSWR is seen from the next cycle on: a W1C bit
clears where sN holds 1, a field that is RW takes the value, a read-only register and a reserved field stay. An unknown
number raises an illegal-operand fault, whatever the guard (R11, R39, R40, R81, R142). -/
def Obligations.SystemRegisters : Prop :=
  (∀ (g : SGuard) (s : State) (n : BitVec 6) (r : BitVec 12) (v : Word), g.holds s.act.regs = true →
    s.cur < 512 → s.systemValue r.toNat = some v → n ≠ 0#6 → s.clear .c (.s n.toNat v) →
    exec (.sysrd g n r) s = .next (s.inFlight [s.flight .c (s.cycle + 2) (.s n.toNat v)])) ∧
  (∀ (g : SGuard) (s : State) (n : BitVec 6) (r : BitVec 12), g.holds s.act.regs = true → knownSystem r.toNat →
    let w := s.act.regs.readS n.toNat
    let e : Eff := if 0x20 ≤ r.toNat then .fmt (r.toNat - 0x20) w else .sysw r.toNat w
    s.clear .c e → exec (.syswr g n r) s = .next (s.inFlight [s.flight .c (s.cycle + 1) e])) ∧
  (∀ (g : SGuard) (s : State) (n : BitVec 6) (r : BitVec 12), ¬ knownSystem r.toNat → s.here.iss.trap = none →
    exec (.sysrd g n r) s = .next (s.onIss fun i => { i with trap := some ⟨4, 0, 0, i.pc, 1⟩ }) ∧
    exec (.syswr g n r) s = .next (s.onIss fun i => { i with trap := some ⟨4, 0, 0, i.pc, 1⟩ })) ∧
  (∀ (x : Ctx) (cycle : Nat) (l : Landing) (r : Nat) (w : Word), l.eff = .sysw r w → x.fresh = [] →
    Store.wf 0#32 x.fstat = true →
    let y := x.landOne cycle l
    (r = 4 → y.cstat = x.cstat &&& ~~~w) ∧ (r = 6 → y.fmtSel = w &&& 7#32) ∧
    (0x10 ≤ r → r ≤ 0x17 → ∀ k, k < 32 → (y.fstatOf (r - 0x10)).getLsbD k =
      if k < 5 ∨ k = 14 ∨ k = 15 then (x.fstatOf (r - 0x10)).getLsbD k && !w.getLsbD k
      else if k < 11 then w.getLsbD k else false) ∧
    (r < 4 ∨ r = 5 ∨ r = 7 ∨ r = 8 → y = x) ∧ y.regs = x.regs) ∧
  (∀ (x : Ctx) (cycle : Nat) (l : Landing) (e : Nat) (w : Word), l.eff = .fmt e w → Store.wf 0#32 x.fmt = true →
    ∀ k, Store.get 0#32 (x.landOne cycle l).fmt k =
      if k = e then (w >>> 16) <<< 16 else Store.get 0#32 x.fmt k)

/-- LAUNCH, RELAUNCH and TRACE complete: the operation takes the next number of its counter and goes to the distributor with
the sixteen words of its descriptor as they stand. A descriptor address that is not aligned or leaves the window raises a
scratchpad-range fault, and nothing is numbered (R30, R143). -/
def Obligations.LaunchIssue : Prop :=
  ∀ (i : Instr) (g : SGuard) (n : BitVec 6) (tl : BitVec 5) (kind : Nat) (s : State),
    ((i = .launch g n tl ∧ kind = 5) ∨ (i = .relaunch g n tl ∧ kind = 6) ∨ (i = .trace g n tl ∧ kind = 7)) →
    g.holds s.act.regs = true →
    let a := (s.act.regs.readS n.toNat).toNat
    let num := (s.act.timeline tl.toNat).i + 1
    (a % 64 = 0 → a + 64 ≤ s.act.window → s.act.svc.bytes = [] →
      ∃ t op, exec i s = .next t ∧ t.ops = s.ops ++ [op] ∧ op.kind = kind ∧ op.core = s.cur ∧ op.cid = s.act.cid ∧
        op.tl = tl.toNat ∧ op.num = num ∧ op.stage = .ready ∧ op.id = s.nextOp ∧
        op.packet = ((List.range 16).map fun k => Memory.word s.here.pool (s.act.poolAddr (a + 4 * k))) ∧
        t.dist = { s.dist with waiting := s.dist.waiting ++ [s.nextOp] } ∧
        t.act.timeline tl.toNat = ⟨num, (s.act.timeline tl.toNat).out ++ [num]⟩ ∧ t.act.pend = s.act.pend ∧
        t.act.regs = s.act.regs ∧ t.here.pool = s.here.pool ∧ s.sameOutside t) ∧
    (a % 64 ≠ 0 ∨ s.act.window < a + 64 → s.here.iss.trap = none →
      exec i s = .next (s.onIss fun i => { i with trap := some ⟨5, 0, 0, i.pc, a⟩ }))

/-! ## The sequencer, marks and traps -/

/-- Device reset leaves every register of every core at the value R41 gives, the distributor's and the controllers' at the
values of R287, R316 and R347 to R349, every memory of the cores zero and every logical row invalid; all memories are in
their canonical form. What HBM, host memory and other packages hold is the model's choice (log 3). -/
def Obligations.ResetState : Prop :=
  (∀ n, let c := State.reset.core n
    ∀ x, x = c.act ∨ x = c.shadow →
      x.regs.pc = 0 ∧ x.regs.loops = [] ∧ x.regs.rot = none ∧ (∀ k, x.regs.readS k = 0#32) ∧ (∀ k, x.regs.readA k = 0#32) ∧
      (∀ k, Store.get 0#24 x.regs.aut k = 0#24) ∧ (∀ k, 0 < k → x.regs.readSp k = false) ∧
      (∀ cl k l, x.regs.lane cl k l = 0#32) ∧ (∀ cl k, 0 < k → x.regs.readP cl k = 0#16) ∧
      (∀ m i j, x.regs.readM m i j = 0#32) ∧ x.shutter 0 = none ∧ x.shutter 1 = none ∧ x.dnan = 0#32 ∧ x.dpend = 0#32 ∧
      (∀ q, Store.get none x.regs.q q = none) ∧ (∀ k, Store.get Latch.empty x.regs.ps k = Latch.empty) ∧ x.bx = [] ∧
      (∀ k, (x.timeline k).i = 0 ∧ (x.timeline k).c = 0) ∧ (∀ k, Store.get 0#32 x.fmt k = 0#32) ∧ x.fmtSel = 0#32 ∧
      (∀ k, x.fstatOf k = 0#32) ∧ x.cstat = 0#32 ∧ x.bcnt = 0#32 ∧ x.micro = none ∧ (∀ k, Store.get 0#16 x.code k = 0#16) ∧
      (∀ k, Store.get none x.dict k = none) ∧ x.partition = 0#32 ∧ x.codeWin = 0#32 ∧ x.taskBlk = 0#32) ∧
  (∀ n a, Memory.read (State.reset.core n).pool a = 0#8 ∧ Memory.read (State.reset.core n).bstore a = 0#8 ∧
    (Store.get FacetRow.reset (State.reset.core n).facets a).valid = false ∧ (State.reset.core n).trap0 = 0#32 ∧
    (State.reset.core n).trap1 = 0#32 ∧ (State.reset.core n).mpc = 0 ∧ (State.reset.core n).trapCount = 0) ∧
  (∀ d, (State.reset.die d).stage = 0 ∧ (State.reset.die d).pwrcap = 3200 ∧ (State.reset.die d).diecap = 150 ∧
    (State.reset.die d).tcap = 105 ∧ (State.reset.die d).af = 0 ∧ (∀ k, Store.get 0 (State.reset.die d).vc k = 0)) ∧
  State.reset.dist.ticklen = 3300 ∧ State.reset.dist.tick = 0 ∧ State.reset.dist.slips = [] ∧
  Memory.wf State.reset.hbm = true ∧ Memory.wf State.reset.host = true ∧ Memory.wf State.reset.pod = true ∧
  (∀ n, Memory.wf (State.reset.core n).pool = true ∧ Memory.wf (State.reset.core n).bstore = true)

/-- Every step keeps HBM, the host's memory and the other packages' memory in the model's canonical form (log 3): addresses
rising, no byte listed that reads as an unlisted one does. -/
def Obligations.MemoryStaysCanonical : Prop :=
  ∀ s t : State, Memory.wf s.hbm = true → Memory.wf s.host = true → Memory.wf s.pod = true → step s = .next t →
    Memory.wf t.hbm = true ∧ Memory.wf t.host = true ∧ Memory.wf t.pod = true

/-- Fetch: index 0x0000 is the empty bundle, an index of the dictionary its entry, 0xFFFF the literal bundle of the 24
indices behind it; a PC beyond the window, an index with no entry and a bundle that does not decode are traps (R18, R70,
R71). The empty bundle issues: the PC moves by one index, the next bundle may issue in the next cycle, and nothing outside
the core changes. Of any other bundle without a mark, whose slots find nothing that holds or traps them: control goes to the
target of a taken transfer, the next bundle issues no earlier than STALL asks, and the state is otherwise what the slots
left (R78, R126 to R128, R132); with MARK = 1 the mark falls in its cycle, before it (R228). A committing bundle waits for
every flag-pending operation of an earlier bundle; its end is a mark that commits in its cycle and releases every store
written by then, and a HALT releases every store (R135, R178, R229). A skipped bundle passes in the cycle and does nothing
(R226, R227). -/
def Obligations.BundleSequencing : Prop :=
  (∀ x : Ctx, let k := x.index x.regs.pc
    (x.windowEnd ≤ x.regs.pc → x.fetch = .error ⟨2, 7, 0, x.transferred.getD x.regs.pc, 0⟩) ∧
    (x.regs.pc < x.windowEnd → k = 0 → x.fetch = .ok Bundle.empty) ∧
    (x.regs.pc < x.windowEnd → 0 < k → k < 0x800 →
      (∀ d, Store.get none x.dict k = some d →
        (∀ b, decodeBundle d.toNat = .ok b → x.fetch = .ok b) ∧
        (∀ f, decodeBundle d.toNat = .error f → x.fetch = .error ⟨3, 7, 0, x.regs.pc, f.syllable⟩)) ∧
      (Store.get none x.dict k = none → x.fetch = .error ⟨1, 7, 0, x.regs.pc, k⟩)) ∧
    (x.regs.pc < x.windowEnd → 0x800 ≤ k → k < 0xFFFF → x.fetch = .error ⟨1, 7, 0, x.regs.pc, k⟩) ∧
    (k = 0xFFFF → x.regs.pc + 24 < x.windowEnd → ∀ b,
      decodeBundle (ofWords 16 ((List.range 24).map fun i => x.index (x.regs.pc + 1 + i))) = .ok b → x.fetch = .ok b)) ∧
  (∀ (s : State) (core : Nat), core < 512 → s.issuable core → (s.core core).act.sinceMark < 4096 →
    let x := (s.core core).act
    (x.regs.pc < x.windowEnd → x.index x.regs.pc = 0 → x.regs.loops = [] → x.regs.rot = none → x.gateCount ≤ 64 →
      ∃ t, exec (.bundleIssue core) s = .next t ∧ s.onlyCore t core ∧
        (t.core core).act = { x with
          regs := { x.regs with pc := x.regs.pc + 1 }, seq := x.seq + 1, sinceMark := x.sinceMark + 1,
          nextAt := s.cycle + 1, svc := Service.none, heldPop := none, heldSince := s.cycle + 1, tried := true,
          transferred := none } ∧ (t.core core).pool = (s.core core).pool) ∧
    (∀ b, x.fetch = .ok b → committing b = false → x.regs.skippable b = false →
      let v := if b.head.mark then ({ s with cur := core }).mark core else { s with cur := core }
      let u := v.execute b
      u.here.iss.held = false → u.here.iss.trap = none → u.here.iss.rows = [] → u.here.iss.halt = false →
      u.act.gateCount ≤ 64 → u.cur = core → u.act.regs.loops = [] → u.here.iss.push = none →
      ∃ t, exec (.bundleIssue core) s = .next t ∧ u.onlyCore t core ∧ (t.core core).pool = u.here.pool ∧
        (t.core core).act.regs.pc = u.here.iss.target.getD (u.after u.here.iss.pc) ∧
        (t.core core).act.nextAt = max (s.cycle + 1 + u.here.iss.stall) u.here.iss.bound ∧
        (t.core core).act.waits = u.here.iss.waits ∧ (t.core core).act.pend = u.act.pend ∧
        (t.core core).act.seq = u.act.seq + 1 ∧ (t.core core).act.regs.s = u.act.regs.s ∧
        (t.core core).act.regs.v = u.act.regs.v ∧ (t.core core).act.regs.a = u.act.regs.a ∧
        (t.core core).act.marks = u.act.marks) ∧
    (∀ b, x.fetch = .ok b → committing b = true → x.regs.skippable b = false →
      (x.flagPendingBefore x.seq = true → exec (.bundleIssue core) s = .next (({ s with cur := core }).onCore core fun c =>
        { c with act := { c.act with tried := true } })) ∧
      (∀ v marked, ({ s with cur := core }).attempt core b = .issues v marked →
        exec (.bundleIssue core) s = .next (v.finish core b)))) ∧
  (∀ (v : State) (core : Nat) (b : Bundle), committing b = true →
    let i := (v.core core).iss
    let x := (v.core core).act
    let y := ((v.finish core b).core core).act
    x.yield = false → x.regs.loops = [] → i.push = none → (∀ g ∈ x.gate, g.pipe = none ∧ g.fills = none) →
    (∀ o ∈ x.pend, o.eff.flagPending = true → o.seq = x.seq) → (∀ k ∈ x.marks, k.seq ≤ x.seq) →
    y.marks.map (fun k => (k.seq, k.cycle, k.committed)) = [(x.seq + 1, v.cycle, true)] ∧ y.sinceMark = 0 ∧
    y.seq = x.seq + 1 ∧ y.pend = x.pend ∧ y.regs.s = x.regs.s ∧ y.regs.v = x.regs.v ∧ y.regs.a = x.regs.a ∧
    (i.halt = false → y.regs.pc = i.target.getD (x.fallThrough i.pc) ∧
      (∀ g ∈ y.gate, g.released = false → ¬ (g.whole ≤ v.cycle ∧ g.seq ≤ x.seq ∧ g.stream = none)) ∧
      (∀ g ∈ x.gate, g.released = false → ¬ (g.whole ≤ v.cycle ∧ g.seq ≤ x.seq ∧ g.stream = none) → g ∈ y.gate)) ∧
    (i.halt = true → y.phase = .halted ∧ y.regs.pc = x.regs.pc ∧ (∀ g ∈ y.gate, g.released = true))) ∧
  (∀ (s : State) (core : Nat) (b : Bundle), core < 512 → s.issuable core →
    let x := (s.core core).act
    x.fetch = .ok b → x.regs.skippable b = true → b.head.mark = false → x.skips < 4 → x.regs.loops = [] →
    x.regs.rot = none →
    ∃ t, exec (.nullifierSkip core) s = .next t ∧ s.onlyCore t core ∧
      (t.core core).act = { x with
        regs := { x.regs with pc := x.fallThrough x.regs.pc }, seq := x.seq + 1, skips := x.skips + 1, svc := Service.none,
        heldPop := none, transferred := none } ∧ (t.core core).pool = (s.core core).pool)

/-- Marks: a mark that falls with no flag-pending operation before it commits in its cycle. The first mark that can commit
does: it becomes the oldest, and every store before it whose bytes were written by its cycle is released, while memory and
the registers stay (R229, R231). -/
def Obligations.MarksCommit : Prop :=
  (∀ (s : State) (core : Nat), let x := (s.core core).act
    (∀ o ∈ x.pend, o.eff.flagPending = false) →
    ((s.mark core).core core).act.marks.map (fun k => (k.seq, k.cycle, k.committed)) = [(x.seq, s.cycle, true)] ∧
    ((s.mark core).core core).act.sinceMark = 0) ∧
  (∀ (s : State) (core : Nat) (k : Mark) (l r : List Mark), core < 512 →
    let x := (s.core core).act
    x.marks = l ++ k :: r → k.committed = false → (∀ o ∈ x.pend, o.eff.flagPending = true → k.seq ≤ o.seq) →
    (∀ j ∈ l, j.committed = true ∨ ∃ o ∈ x.pend, o.eff.flagPending = true ∧ o.seq < j.seq) →
    (∀ j ∈ r, j.committed = false ∧ j.seq ≠ k.seq) →
    x.gang = none → (∀ g ∈ x.gate, g.pipe = none ∧ g.fills = none) →
    ∃ t, exec (.markCommit core) s = .next t ∧ (∀ n, n ≠ core → t.core n = s.core n) ∧
      (t.core core).act.marks.map (fun j => (j.seq, j.committed)) =
        (k.seq, true) :: r.map (fun j => (j.seq, j.committed)) ∧
      (∀ g ∈ (t.core core).act.gate, g.released = false →
        ¬ (g.whole ≤ k.cycle ∧ g.seq < k.seq ∧ g.stream = none)) ∧
      (∀ g ∈ x.gate, g.released = false → ¬ (g.whole ≤ k.cycle ∧ g.seq < k.seq ∧ g.stream = none) →
        g ∈ (t.core core).act.gate) ∧
      (t.core core).pool = (s.core core).pool ∧ (t.core core).act.regs.s = x.regs.s ∧
      (t.core core).act.regs.v = x.regs.v ∧ (t.core core).act.regs.a = x.regs.a ∧ (t.core core).act.regs.m = x.regs.m ∧
      (t.core core).act.regs.p = x.regs.p ∧ (t.core core).act.regs.pc = x.regs.pc ∧ (t.core core).act.pend = x.pend ∧
      t.hbm = s.hbm ∧ t.host = s.host)

/-- A trap: issue stops; every operation behind the rollback mark is cancelled; what precedes it keeps landing; the rollback
is complete 12 cycles after the last of that (R232, R233). A bundle that cannot be fetched, and the 4,097th bundle since the
last mark, trap at issue; of the landing traps of a cycle the earliest operation's is kept (R56, R235, R241). -/
def Obligations.TrapsAreTaken : Prop :=
  (∀ (x : Ctx) (cycle seq : Nat) (post : Bool) (c : TrapCause) (l r : List Mark) (k : Mark), x.marks = l ++ k :: r →
    (∀ j ∈ l ++ [k], j.seq ≤ if post then seq + 1 else seq) → (∀ j ∈ r, (if post then seq + 1 else seq) < j.seq) →
    let y := x.raiseTrap cycle seq post c
    y.marks = l ++ [k] ∧ y.regs = x.regs ∧ (∀ o, o ∈ y.pend ↔ o ∈ x.pend ∧ (o.eng = true ∨ o.seq < k.seq)) ∧
    (∀ g, g ∈ y.gate ↔ ∃ h ∈ x.gate, ((h.written = true ∨ h.seq < k.seq) ∧ g = h) ∨
      (h.written = false ∧ k.seq ≤ h.seq ∧ h.old ≠ [] ∧ g = { h with cells := [], stream := none, written := true })) ∧
    ∃ t, y.trap = some t ∧ t.cause = c ∧ t.raised = cycle ∧ t.seq = seq ∧ t.post = post ∧ cycle + 12 ≤ t.due ∧
      (∀ o ∈ y.pend, o.eng = false → o.lastDue + 12 ≤ t.due) ∧
      (t.due = cycle + 12 ∨ ∃ o ∈ y.pend, o.eng = false ∧ t.due = o.lastDue + 12)) ∧
  (∀ (s : State) (core : Nat) (c : TrapCause), core < 512 → s.issuable core → (s.core core).act.fetch = .error c →
    exec (.bundleIssue core) s = .next (({ s with cur := core }).onCore core fun e =>
      { e with act := e.act.raiseTrap s.cycle e.act.seq false c })) ∧
  (∀ (s : State) (core : Nat), core < 512 → s.issuable core → let x := (s.core core).act
    4096 ≤ x.sinceMark → x.regs.pc < x.windowEnd → x.index x.regs.pc = 0 → x.gateCount ≤ 64 →
    exec (.markDistanceTrap core) s = .next (s.onCore core fun e =>
      { e with act := e.act.raiseTrap s.cycle e.act.seq false ⟨0xE, 7, 0, x.regs.pc, 0⟩ })) ∧
  (∀ (s : State) (core : Nat), core < 512 → let x := (s.core core).act
    x.fp ≠ [] → (∀ f ∈ x.fp, f.cluster < 8 ∧ f.order < 8) →
    ∃ f ∈ x.fp, (∀ g ∈ x.fp, f.first g) ∧ exec (.fpTrap core) s = .next (s.onCore core fun e =>
      { e with act := { (e.act.raiseTrap s.cycle f.seq f.post ⟨0xB, f.slot.code, f.cluster, f.pc, f.order⟩) with
        fp := [] } }))

/-- The rollback: the registers stand at the mark, no unreleased store is left and every byte reads as it was before them,
the trap record holds cause, slot, cluster, PC and detail, and the core is held (R230, R233, R234, R236, R237). A resume, in
the cycle after it is written, lets the core issue again from the rolled-back PC (R236, R239). -/
def Obligations.RollbackAndResume : Prop :=
  (∀ (s : State) (core : Nat) (t : PendingTrap) (k : Mark), core < 512 →
    let c := s.core core
    c.act.trap = some t → t.due ≤ s.cycle → c.act.marks.getLast? = some k → c.pane.busy = none → c.act.gang = none →
    Memory.wf c.pool = true → t.cause.slot < 8 → t.cause.cluster < 8 → t.cause.pc < 2 ^ 15 →
    ∃ u, exec (.rollback core) s = .next u ∧ s.onlyCore u core ∧
      let d := u.core core
      d.act.regs = k.regs ∧ d.act.held = true ∧ d.act.trap = none ∧ d.act.seq = k.seq ∧ d.act.waits = c.act.waits ∧
      (∀ o, o ∈ d.act.pend ↔ o ∈ c.act.pend ∧ o.eng = true) ∧ (∀ g ∈ d.act.gate, g.released = true) ∧
      (∀ a k, k < 8 →
        let undo (u : Undo) : Prop :=
          ∃ g ∈ c.act.gate, g.released = false ∧ u ∈ g.old ∧ u.addr = a ∧ u.mask.getLsbD k = true
        let bit := (Memory.read d.pool a).getLsbD k
        ((∀ u, ¬ undo u) → bit = (Memory.read c.pool a).getLsbD k) ∧
        (∀ u, undo u → (∀ v, undo v → v = u ∨ u.at_ < v.at_) → bit = u.byte.getLsbD k)) ∧
      d.trap0 = BitVec.ofNat 32 (t.cause.cause * 2 ^ 24 + t.cause.slot * 2 ^ 21 + t.cause.cluster * 2 ^ 18 + t.cause.pc) ∧
      d.trap1 = BitVec.ofNat 32 t.cause.detail ∧ d.mpc = k.regs.pc ∧ d.trapPost = t.post ∧
      d.trapCount = min (c.trapCount + 1) 0xFFFF ∧ d.act.fstat = c.act.fstat ∧ d.act.fmt = c.act.fmt ∧
      d.act.tl = c.act.tl ∧ d.shadow = c.shadow ∧ d.bstore = c.bstore ∧ d.facets = c.facets ∧ d.mx = c.mx) ∧
  (∀ (s : State) (core : Nat), core < 512 → (s.core core).act.held = true →
    exec (.coreResume core) s = .next (s.onCore core fun c => { c with resumeAt := some (s.cycle + 1) })) ∧
  (∀ (s : State) (core : Nat), core < 512 → (s.core core).act.held = false →
    ∃ t, exec (.coreResume core) s = .next t ∧ s.onlyCore t core ∧ t.core core = s.core core) ∧
  (∀ (c : Core) (cycle : Nat), c.resumeAt = some cycle → (∀ q ∈ c.pane.accesses, ∀ l, q ≠ .restore l) →
    (∀ q ∈ c.pane.accesses, ∀ r w, q ≠ .spdat r w) →
    (c.resume cycle).act.held = false ∧ (c.resume cycle).act.nextAt = cycle + 1 ∧ (c.resume cycle).act.regs = c.act.regs ∧
    (c.resume cycle).resumeAt = none ∧ (c.resume cycle).pool = c.pool)

/-! ## The matrix engine -/

/-- An MMA or MMAS adds to every accumulator element the sum of R59 over the A reads from a[X] and the B lines from a[Y],
starting from zero under OVR; both registers advance by what was read; the engine is held for all the bundle's beats and the
command completes after them and the fill. A repeat goes on with the streams where the issues before it ended. Into an empty
shutter the issue copies its target first (R59, R199, R201 to R204, R206, R207). The model's choices: each issue of a repeat
reads its registers in its own cycle (log 29), and the exact sum of a group is -0 only where every product of it is (log
122). -/
def Obligations.MatrixAccumulation : Prop :=
  (∀ (o : EmOp) (i : Instr) (s : State) (a b sb : Nat),
    let x := s.act
    let r := x.regs
    let beats := o.head.beats.toNat + 1
    let mode := o.mode.toNat
    let acc := o.acc.toNat
    let x0 := (r.readA o.ax.toNat).toNat
    let y0 := (r.readA o.ay.toNat).toNat
    let total := (s.here.iss.rpt + 1) * beats
    ((i = .mma o ∧ mode = 0) ∨ (i = .mmas o ∧ (mode = 1 ∨ mode = 2))) → o.head.guard.holds r = true → s.engineFree →
    x.noEngineRows → Store.wf 0#32 r.m = true → x.fmtEntry = (a, b, sb) → (a ≤ 3 ∨ sb ≠ 255) → matrixFits mode a b beats →
    o.areg.toNat < x.mBound → s.clear .e (.a o.ax.toNat 0#32) → s.clear .e (.a o.ay.toNat 0#32) →
    let sum (m j : Nat) : Word → Word :=
      matrixSum mode a b beats (fun t => r.aRead o x0 t m) (fun t => s.here.bRead y0 t j)
    let goes (t : State) : Prop :=
      exec i s = .next t ∧ { t.act.regs with m := r.m } = r ∧ t.here.pool = s.here.pool ∧ t.here.bstore = s.here.bstore ∧
      t.act.timeline 0 = ⟨(x.timeline 0).i + 1, (x.timeline 0).out ++ [(x.timeline 0).i + 1]⟩ ∧
      t.here.mx.busyTo = s.cycle + total ∧
      (∃ p ∈ t.here.mx.pending, ∃ f, p.num = (x.timeline 0).i + 1 ∧ p.cid = x.cid ∧ p.drain = false ∧
        p.done = s.cycle + total + f - 1 ∧ (f = 4 ∨ f = 12) ∧
        (f = 4 ↔ ∃ c, s.here.mx.sel = some (y0 % 65536, c) ∧ c < s.cycle ∧ s.cycle ≤ c + 64)) ∧
      (o.ax ≠ o.ay →
        s.flight .e (s.cycle + 1) (.a o.ax.toNat (r.readA o.ax.toNat + BitVec.ofNat 32 (readsOf mode a b beats)))
          ∈ t.act.pend ∧
        s.flight .e (s.cycle + 1) (.a o.ay.toNat (r.readA o.ay.toNat + BitVec.ofNat 32 (linesOf mode a b beats)))
          ∈ t.act.pend) ∧
      (o.ax = o.ay → s.flight .e (s.cycle + 1) (.a o.ax.toNat (r.readA o.ax.toNat +
        BitVec.ofNat 32 (readsOf mode a b beats + linesOf mode a b beats))) ∈ t.act.pend) ∧
      ∀ n, n ≠ s.cur → t.core n = s.core n
    (acc < 32 → acc < x.mBound → ∃ t, goes t ∧
      (∀ m j, m < 64 → j < 64 → t.act.regs.readM acc m j = sum m j (if o.ovr then 0#32 else r.readM acc m j)) ∧
      (∀ n m j, n ≠ acc → m < 64 → j < 64 → t.act.regs.readM n m j = r.readM n m j)) ∧
    (acc = 32 ∨ acc = 33 →
      let target := x0 / 256 % 32
      (x.shutter (acc - 32) = none → target < x.mBound → ∃ t k, goes t ∧ t.act.regs = r ∧
        t.act.shutter (acc - 32) = some k ∧ k.target = target ∧ ∀ m j, m < 64 → j < 64 →
          Store.get 0#32 k.cells (64 * m + j) = sum m j (if o.ovr then 0#32 else r.readM target m j)) ∧
      (∀ h, x.shutter (acc - 32) = some h → Store.wf 0#32 h.cells = true → ∃ t k, goes t ∧ t.act.regs = r ∧
        t.act.shutter (acc - 32) = some k ∧ k.target = h.target ∧ ∀ m j, m < 64 → j < 64 →
          Store.get 0#32 k.cells (64 * m + j) = sum m j (if o.ovr then 0#32 else Store.get 0#32 h.cells (64 * m + j))))) ∧
  (∀ (s : State) (core : Nat) (p : Repeat) (a b sb : Nat), core < 512 → (s.core core).mx.rep = some p → 0 < p.left →
    p.at_ ≤ s.cycle → 0 < p.count → p.entry = some (a, b, sb) →
    let o := p.op
    let c := s.core core
    let x := c.ctx p.cid
    let beats := o.head.beats.toNat + 1
    let mode := o.mode.toNat
    let acc := o.acc.toNat
    let k0 := p.x0 + p.count * readsOf mode a b beats
    let l0 := p.y0 + p.count * linesOf mode a b beats
    let sum (m j : Nat) : Word → Word :=
      matrixSum mode a b beats (fun n => x.regs.aRead o k0 n m) (fun n => c.bRead l0 n j)
    x.noEngineRows → Store.wf 0#32 x.regs.m = true → mode ≤ 2 → matrixFits mode a b beats → acc < 34 →
    ∃ t, exec (.mmaRepeat core) s = .next t ∧ (let y := (t.core core).ctx p.cid
      (t.core core).mx.rep = some { p with left := p.left - 1, count := p.count + 1, at_ := p.at_ + beats } ∧
      (acc < 32 → ∀ n m j, m < 64 → j < 64 →
        y.regs.readM n m j = if n = acc then sum m j (x.regs.readM n m j) else x.regs.readM n m j) ∧
      (32 ≤ acc → y.regs = x.regs ∧ ∃ k, y.shutter (acc - 32) = some k ∧
        (∀ h, x.shutter (acc - 32) = some h → Store.wf 0#32 h.cells = true → k.target = h.target ∧
          ∀ m j, m < 64 → j < 64 → Store.get 0#32 k.cells (64 * m + j) = sum m j (Store.get 0#32 h.cells (64 * m + j))) ∧
        (x.shutter (acc - 32) = none → k.target = k0 / 256 % 32 ∧
          ∀ m j, m < 64 → j < 64 → Store.get 0#32 k.cells (64 * m + j) = sum m j (x.regs.readM k.target m j))) ∧
      { y.regs with m := x.regs.m } = x.regs ∧ (t.core core).pool = c.pool ∧ s.onlyCore t core))

/-- A split MMA adds every kept product of slices, weighted by its place, to the 160-bit accumulator in five registers, and
keeps the exponent sum of its operands in the sixth, marked SPECIAL where an exponent is special or differs (R63, R205). -/
def Obligations.SplitAccumulation : Prop :=
  ∀ (o : EmOp) (s : State),
    let x := s.act
    let r := x.regs
    let beats := o.head.beats.toNat + 1
    let n := 6 + o.sl.toNat
    let pairs := keptPairs n o.tri
    let kc := beats / pairs.length
    let c := o.acc.toNat
    o.mode = 3#2 → o.sl ≠ 3#2 → o.head.guard.holds r = true → s.engineFree → x.noEngineRows → Store.wf 0#32 r.m = true →
    beats % (if o.tri then n * (n + 1) / 2 else n * n) = 0 → c < 32 → c + 5 < x.mBound → o.areg.toNat < x.mBound →
    s.clear .e (.a o.ax.toNat 0#32) → s.clear .e (.a o.ay.toNat 0#32) →
    ∃ t, exec (.mmaSplit o) s = .next t ∧ { t.act.regs with m := r.m } = r ∧
      (∀ k i j, k < c ∨ c + 5 < k → i < 64 → j < 64 → t.act.regs.readM k i j = r.readM k i j) ∧
      t.here.mx.busyTo = s.cycle + (s.here.iss.rpt + 1) * beats ∧
      ∀ i j, i < 64 → j < 64 →
        let rd (k : Nat) : Word := r.aRead o (r.readA o.ax.toNat).toNat k i
        let ln (k : Nat) : Word := s.here.bRead (r.readA o.ay.toNat).toNat k j
        let sum : Int := ((List.range kc).map fun k =>
          (pairs.map fun e => signedSlice rd k e.1 * signedSlice ln k e.2 * 2 ^ (98 - 7 * (e.1 + e.2))).sum).sum
        let ea := (rd 0).toNat % 65536
        let eb := (ln 0).toNat % 65536
        let special := decide (ea = 0x7FFF) || decide (eb = 0x7FFF)
        let e := (ea + eb) % 65536
        (t.act.regs.splitBits c i j : Int) = ((if o.ovr then 0 else (r.splitBits c i j : Int)) + sum) % 2 ^ 160 ∧
        t.act.regs.readM (c + 5) i j =
          if o.ovr then BitVec.ofNat 32 (e + if special then 65536 else 0)
          else if special = true ∨ (r.readM (c + 5) i j).toNat % 65536 ≠ e then r.readM (c + 5) i j ||| 0x10000#32
          else r.readM (c + 5) i j

/-- MZERO clears a matrix register or empties a shutter; MDRAIN puts the converted rows in flight, one a cycle from the
seventeenth on, each also to bx6, and marks the drain pending; a split drain gives each number of R64 to two registers;
MBSEL opens a line; FMTT writes a format entry for later cycles; each is numbered and completes on tl0. A matrix command
that finds the engine held raises a schedule fault (R27, R64, R103, R199, R207 to R211). The model's choice (log 112): of a
split drain's two registers the first alone takes PEND and NAN. -/
def Obligations.MatrixCommands : Prop :=
  (∀ (h : EHead) (acc : BitVec 6) (s : State), h.guard.holds s.act.regs = true → s.engineFree →
    Store.wf 0#32 s.act.regs.m = true →
    (acc.toNat < 32 → acc.toNat < s.act.mBound → ∃ t, exec (.mzero h acc) s = .next t ∧
      (∀ n i j, i < 64 → j < 64 →
        t.act.regs.readM n i j = if n = acc.toNat then 0#32 else s.act.regs.readM n i j) ∧
      { t.act.regs with m := s.act.regs.m } = s.act.regs ∧ t.here.pool = s.here.pool ∧
      t.act.comps = s.act.comps ++ [⟨0, (s.act.timeline 0).i + 1, s.cycle⟩] ∧ t.here.mx.busyTo = s.cycle + 1) ∧
    (acc = 32#6 ∨ acc = 33#6 → ∃ t, exec (.mzero h acc) s = .next t ∧ t.act.shutter (acc.toNat - 32) = none ∧
      t.act.shutter (33 - acc.toNat) = s.act.shutter (33 - acc.toNat) ∧ t.act.regs = s.act.regs)) ∧
  (∀ (h : EHead) (acc : BitVec 6) (m : BitVec 5) (type : BitVec 4) (rows : BitVec 6) (s : State) (a b sb : Nat) (fp : Bool),
    let x := s.act
    let n := rows.toNat + 1
    h.guard.holds x.regs = true → s.engineFree → x.noEngineRows → acc.toNat < x.mBound → m.toNat < x.mBound →
    x.fmtEntry = (a, b, sb) → entryKind (a, b, sb) = some fp →
    (fp = false → type.toNat ≤ 5 ∨ type = 9#4) → (fp = true → type ∈ [8#4, 9#4, 11#4, 12#4, 13#4]) →
    let out (v : Word) : Word := if fp then BitVec.ofNat 32 (roundVal type.toNat 0 (scaleVal (decodeVal 9 v.toNat) sb)).1
      else drainedInt type.toNat v
    ∃ t, exec (.mdrain h acc m type rows) s = .next t ∧ t.act.regs = x.regs ∧ t.here.pool = s.here.pool ∧
      t.act.dpend = x.dpend ||| BitVec.ofNat 32 (2 ^ m.toNat) ∧ t.here.mx.busyTo = s.cycle + 16 + n ∧
      (∃ p ∈ t.here.mx.pending, p.num = (x.timeline 0).i + 1 ∧ p.drain = true ∧ p.done = s.cycle + 15 + n) ∧
      (∃ o ∈ t.act.pend, o.due = s.cycle + 16 + n ∧ o.eng = true ∧ ∃ nan, o.eff = .drained m.toNat nan ∧
        (nan = true ↔ fp = true ∧ ∃ i j, i < n ∧ j < 64 ∧ (decodeVal 9 (x.regs.readM acc.toNat i j).toNat).isNan = true)) ∧
      ∀ i, i < n →
        (∃ o ∈ t.act.pend, o.due = s.cycle + 16 + i ∧ o.eng = true ∧ ∃ cells, o.eff = .m cells ∧
          ∀ j, j < 64 → cellOf cells (mKey m.toNat i j) = some (out (x.regs.readM acc.toNat i j))) ∧
        ∀ cl, cl < 8 → ∃ o ∈ t.act.pend, o.due = s.cycle + 16 + i ∧ o.eng = true ∧ o.eff = .bx 6 cl
          (lanes16.map fun l => out (x.regs.readM acc.toNat i (16 * (cl % 4) + l)))) ∧
  (∀ (h : EHead) (acc : BitVec 6) (m : BitVec 5) (rows : BitVec 6) (s : State),
    let x := s.act
    let n := rows.toNat + 1
    let c := acc.toNat
    let d := m.toNat
    h.guard.holds x.regs = true → s.engineFree → x.noEngineRows → c + 5 < x.mBound → d + 1 < x.mBound →
    let special (i j : Nat) : Bool := (x.regs.readM (c + 5) i j).getLsbD 16
    let y (i j : Nat) : Nat := if special i j then 0x7FF8000000000000
      else (roundInt 10 0 (toSigned (x.regs.splitBits c i j) 160)
        (toSigned (x.regs.readM (c + 5) i j).toNat 16 - 112) false).1
    ∃ t, exec (.mdrain h acc m 10#4 rows) s = .next t ∧ t.act.regs = x.regs ∧ t.here.pool = s.here.pool ∧
      t.act.dpend = x.dpend ||| BitVec.ofNat 32 (2 ^ d) ∧ t.here.mx.busyTo = s.cycle + 16 + n ∧
      (∃ p ∈ t.here.mx.pending, p.num = (x.timeline 0).i + 1 ∧ p.drain = true ∧ p.done = s.cycle + 15 + n) ∧
      (∃ o ∈ t.act.pend, o.due = s.cycle + 16 + n ∧ o.eng = true ∧ ∃ nan, o.eff = .drained d nan ∧
        (nan = true ↔ ∃ i j, i < n ∧ j < 64 ∧ special i j = true)) ∧
      ∀ i, i < n →
        (∃ o ∈ t.act.pend, o.due = s.cycle + 16 + i ∧ o.eng = true ∧ ∃ cells, o.eff = .m cells ∧ ∀ j, j < 64 →
          cellOf cells (mKey d i j) = some (BitVec.ofNat 32 (y i j)) ∧
          cellOf cells (mKey (d + 1) i j) = some (BitVec.ofNat 32 (y i j / 2 ^ 32))) ∧
        ∀ cl, cl < 8 → ∃ o ∈ t.act.pend, o.due = s.cycle + 16 + i ∧ o.eng = true ∧ o.eff = .bx 6 cl
          (lanes16.map fun l => BitVec.ofNat 32 (y i (16 * (cl % 4) + l)))) ∧
  (∀ (h : EHead) (a : BitVec 4) (s : State), h.guard.holds s.act.regs = true → s.engineFree →
    ∃ t, exec (.mbsel h a) s = .next t ∧ t.here.mx.sel = some ((s.act.regs.readA a.toNat).toNat % 65536, s.cycle) ∧
      t.act.comps = s.act.comps ++ [⟨0, (s.act.timeline 0).i + 1, s.cycle⟩] ∧ t.act.regs = s.act.regs ∧
      t.act.pend = s.act.pend ∧ t.here.pool = s.here.pool) ∧
  (∀ (h : EHead) (e : BitVec 4) (n : BitVec 6) (s : State), h.guard.holds s.act.regs = true → s.engineFree →
    s.clear .e (.fmt e.toNat (s.act.regs.readS n.toNat)) →
    ∃ t, exec (.fmtt h e n) s = .next t ∧ t.act.regs = s.act.regs ∧ t.act.fmt = s.act.fmt ∧ t.here.mx.sel = none ∧
      t.act.pend = s.act.pend ++ [s.flight .e (s.cycle + 1) (.fmt e.toNat (s.act.regs.readS n.toNat))] ∧
      t.act.comps = s.act.comps ++ [⟨0, (s.act.timeline 0).i + 1, s.cycle⟩]) ∧
  (∀ (i : Instr) (h : EHead) (s : State), ((∃ a, i = .mbsel h a) ∨ (∃ e n, i = .fmtt h e n) ∨ (∃ c, i = .mzero h c) ∨
      (∃ c m k r, i = .mdrain h c m k r) ∨ (∃ o, (i = .mma o ∨ i = .mmaSplit o ∨ i = .mmas o) ∧ o.head = h)) →
    s.here.iss.trap = none → s.cycle < s.here.mx.busyTo → exec i s = .next (s.onIss fun k => { k with trap := some ⟨6, 3, 0, k.pc, 0⟩ })) ∧
  (∀ (s : State) (core : Nat) (drain : Bool) (p : MxPending), core < 512 → p ∈ (s.core core).mx.pending →
    p.done ≤ s.cycle → p.drain = drain → ∃ q ∈ (s.core core).mx.pending, q.done ≤ s.cycle ∧ q.drain = drain ∧
      ∃ t, exec (if drain then .mdrainComplete core else .mmaComplete core) s = .next t ∧
        ((t.core core).ctx q.cid).comps = ((s.core core).ctx q.cid).comps ++ [⟨0, q.num, s.cycle⟩] ∧
        (∀ k, k ∈ (t.core core).mx.pending ↔ k ∈ (s.core core).mx.pending ∧ k ≠ q) ∧
        ((t.core core).ctx q.cid).regs = ((s.core core).ctx q.cid).regs ∧ (t.core core).pool = (s.core core).pool ∧
        s.onlyCore t core)

/-! ## The panes -/

/-- PLOAD and PRUN are numbered on tl1 and queued; a PLOAD whose words leave the window or are not aligned raises a
scratchpad-range fault; a PRUN with no loaded store, or on a bank that is no scratchpad bank, an illegal-operand fault; one
that issues while a PLOAD is outstanding waits (R36, R94, R199, R212, R213). -/
def Obligations.PaneCommandIssue : Prop :=
  ∀ (h : EHead) (s : State), h.guard.holds s.act.regs = true → s.here.mx.rep = none → s.here.iss.trap = none →
    let x := s.act
    let num := (x.timeline 1).i + 1
    let queued (i : Instr) (cmd : PaneCmd) : Prop := ∃ t, exec i s = .next t ∧
      t.here.pane = { s.here.pane with queue := s.here.pane.queue ++ [⟨x.cid, num, s.cycle, x.seq, cmd⟩] } ∧
      t.act.timeline 1 = ⟨num, (x.timeline 1).out ++ [num]⟩ ∧ t.act.regs = x.regs ∧ t.act.pend = x.pend ∧
      t.here.pool = s.here.pool ∧ s.sameOutside t
    (∀ (a : BitVec 4) (n : BitVec 8), let p := (x.regs.readA a.toNat).toNat
      (p % 4 = 0 → p + 4 * (n.toNat + 1) ≤ x.window → queued (.pload h a n) (.load p (n.toNat + 1))) ∧
      (p % 4 ≠ 0 ∨ x.window < p + 4 * (n.toNat + 1) →
        exec (.pload h a n) s = .next (s.onIss fun i => { i with trap := some ⟨5, 3, 0, i.pc, p⟩ }))) ∧
    (∀ (bank : BitVec 6) (index : BitVec 8),
      (s.here.loading x.cid = false → x.micro ≠ none → x.firstBank ≤ bank.toNat → bank.toNat < x.firstBank + x.banks →
        queued (.prun h bank index) (.run bank.toNat index.toNat)) ∧
      (s.here.loading x.cid = false → x.micro = none → x.firstBank ≤ bank.toNat → bank.toNat < x.firstBank + x.banks →
        exec (.prun h bank index) s = .next (s.onIss fun i => { i with trap := some ⟨4, 3, 0, i.pc, 5⟩ })) ∧
      (s.here.loading x.cid = false → bank.toNat < x.firstBank ∨ x.firstBank + x.banks ≤ bank.toNat →
        exec (.prun h bank index) s = .next (s.onIss fun i => { i with trap := some ⟨4, 3, 0, i.pc, 5⟩ })) ∧
      (s.here.loading x.cid = true → exec (.prun h bank index) s = .next (s.onIss fun i => { i with held := true })))

/-- A load reads its words row by row as the engine sees them, one row in a cycle; complete, it is counted on tl1 and its
words are in the store, filled up with WENDs, unless one of them is no micro-operation (R101, R177, R212). A run starts with
its counters and latches clear, its bank in pane mode when it has a half-step to execute, and its parity group's parity given
up; when it ends it is counted and its bank leaves pane mode (R213, R248, R249, R256). After 16 half-steps a window of four
cycles opens; in it the head of the bank's queue is served (R245, R246). A run whose branches go round without a half-step
never ends, and its bank leaves pane mode (log 102). A pushed element whose rows lie in banks of their own is served whole
in a cycle that finds those banks free (R34, R154, R175). -/
def Obligations.PaneSequencer : Prop :=
  (∀ (s : State) (core : Nat) (e : PaneEntry) (rest : List PaneEntry), core < 512 →
    let c := s.core core
    let x := c.ctx e.cid
    c.pane.queue = e :: rest → c.pane.load = none → c.pane.run = none → e.at_ < s.cycle → c.pane.readyAt ≤ s.cycle →
    (∀ a n, e.cmd = .load a n → 0 < n → a % 4 = 0 → c.quiet → c.noStores →
      ∃ t l, exec (.ploadStart core) s = .next t ∧ (t.core core).pane.queue = rest ∧ (t.core core).pane.load = some l ∧
        l.entry = e ∧ l.last = s.cycle ∧ l.rows = (rowsOf (x.poolAddr a) (4 * n)).drop 1 ∧
        l.words = ((List.range (min n ((512 - x.poolAddr a % 512) / 4))).map fun k =>
          Memory.word c.pool (x.poolAddr a + 4 * k)) ∧
        (t.core core).act = c.act ∧ (t.core core).pool = c.pool ∧ s.onlyCore t core) ∧
    (∀ bank index words i, e.cmd = .run bank index → index < 256 → x.micro = some words →
      decodeMicro (nth0 words index).toNat = .ok i →
      ∃ t r, exec (.paneRunStart core) s = .next t ∧ (t.core core).pane.queue = rest ∧ (t.core core).pane.run = some r ∧
        r.entry = e ∧ r.t0 = s.cycle ∧ r.index = index ∧ r.at_ = s.cycle ∧ r.ro = 0 ∧ r.armed = false ∧ r.andL = 0#1024 ∧
        r.norL = 0#1024 ∧ r.carry = 0#1024 ∧ r.pred = 0#1024 ∧ r.half = false ∧ r.count = 0 ∧
        (isHalfStep (some i) = true → (t.core core).pane.busy = some bank ∧
          (Store.wf Parity.valid c.parity = true → Store.get Parity.valid (t.core core).parity (bank / 8) = .given)) ∧
        (i = .wend → (t.core core).pane.busy = c.pane.busy ∧ (t.core core).parity = c.parity) ∧
        (t.core core).act = c.act ∧ (t.core core).pool = c.pool ∧ s.onlyCore t core)) ∧
  (∀ (s : State) (core : Nat) (l : PaneLoad), core < 512 → (s.core core).pane.load = some l → l.rows = [] →
    l.words.length ≤ 256 →
    ∃ t, exec (.ploadComplete core) s = .next t ∧ (t.core core).pane.load = none ∧
      ((t.core core).ctx l.entry.cid).comps = ((s.core core).ctx l.entry.cid).comps ++ [⟨1, l.entry.num, s.cycle⟩] ∧
      ((∀ w ∈ l.words, ∃ i, decodeMicro w.toNat = .ok i) → ∃ m, ((t.core core).ctx l.entry.cid).micro = some m ∧
        ∀ k, k < 256 → nth0 m k = if k < l.words.length then nth0 l.words k else 0xA0000000#32) ∧
      ((∃ w ∈ l.words, ∃ f, decodeMicro w.toNat = .error f) → ((t.core core).ctx l.entry.cid).micro = none) ∧
      ((t.core core).ctx l.entry.cid).regs = ((s.core core).ctx l.entry.cid).regs ∧
      (t.core core).pool = (s.core core).pool ∧ s.onlyCore t core) ∧
  (∀ (s : State) (core : Nat) (r : PaneRun), core < 512 → (s.core core).pane.run = some r → 256 ≤ r.index →
    r.atBoundary s.cycle →
    ∃ t, exec (.paneRunComplete core) s = .next t ∧ (t.core core).pane.run = none ∧ (t.core core).pane.busy = none ∧
      ((t.core core).ctx r.entry.cid).comps = ((s.core core).ctx r.entry.cid).comps ++ [⟨1, r.entry.num, s.cycle⟩] ∧
      (t.core core).pane.readyAt = s.cycle + 1 ∧ ((t.core core).ctx r.entry.cid).regs = ((s.core core).ctx r.entry.cid).regs ∧
      (t.core core).pool = (s.core core).pool ∧ ((s.core core).pane.busy = none → (t.core core).parity = (s.core core).parity) ∧
      s.onlyCore t core) ∧
  (∀ (s : State) (core b : Nat) (r : PaneRun), core < 512 → (s.core core).pane.run = some r → r.index < 256 →
    r.atBoundary s.cycle → 131584 < r.spin → (s.core core).pane.busy = some b →
    ∃ t, exec (.paneRunComplete core) s = .next t ∧ (t.core core).pane.run = some r ∧ (t.core core).pane.busy = none ∧
      (t.core core).act = (s.core core).act ∧ (t.core core).pool = (s.core core).pool ∧ s.onlyCore t core) ∧
  (∀ (s : State) (core : Nat) (r : PaneRun), core < 512 → (s.core core).pane.run = some r →
    (r.half = true → r.at_ = s.cycle + 1 → 16 ≤ r.count → r.afterWact = false →
      isHalfStep ((s.core core).microAt r) = true →
      exec (.arbitrationWindow core) s = .next (s.onCore core fun c => { c with pane := { c.pane with
        run := some { r with window := s.cycle + 1, windowEnd := s.cycle + 5, at_ := s.cycle + 5, count := 0 } } })) ∧
    (∀ b q, r.count < 16 → r.window ≤ s.cycle → s.cycle < r.windowEnd → (s.core core).pane.busy = some b →
      b ∉ (s.core core).pane.served → (s.core core).pane.accesses.find? (fun q => decide (q.row / 64 = b)) = some q →
      ∃ t, exec (.arbitrationWindow core) s = .next t ∧
        (t.core core).pane.accesses = (s.core core).pane.accesses.erase q ∧ b ∈ (t.core core).pane.served ∧
        (∀ row w p, q = .slot row w p → (row, w, p) ∈ (t.core core).act.svc.rows) ∧
        ((∀ cells, q ≠ .restore cells) → (t.core core).pool = (s.core core).pool) ∧
        ((∀ seq k row, q ≠ .push seq k row) → (t.core core).act.regs = (s.core core).act.regs) ∧ s.onlyCore t core)) ∧
  (∀ (s : State) (core : Nat) (g : Gated) (q : Nat) (rows : List Nat), core < 512 → (s.core core).pushAt ≤ s.cycle →
    (s.core core).quiet → (s.core core).act.gate = [g] → (s.core core).shadow.gate = [] → g.written = false →
    g.wcycle ≤ s.cycle → q < 16 → g.stream = some (q, rows) → rows ≠ [] → (rows.map fun r => r / 64).Nodup →
    (∀ k ∈ (s.core core).act.marks, k.committed = true → k.cycle ≠ s.cycle) →
    ∃ t, exec (.streamPushLand core) s = .next t ∧
      (t.core core).act.gate = [{ g with stream := none, whole := s.cycle }] ∧
      (t.core core).act.regs = (s.core core).act.regs ∧ (t.core core).pool = (s.core core).pool ∧
      (t.core core).pushAt = s.cycle + 1 ∧ s.onlyCore t core)

/-- The micro-operations of a run in its bank, column by column: WACT takes AND and NOR of two rows; WWB writes one of eight
values, in the predicated columns only when it asks so, and SUM and CUPD update the carry there; WLAT loads a latch; WBR
counts the loop down and moves RO; WEND ends the run. Rows named relatively add RO (R98 to R100, R214, R245, R249, R250). -/
def Obligations.PaneMicroOperations : Prop :=
  ∀ (s : State) (r : PaneRun), s.here.pane.run = some r → s.here.noStores →
    let c := s.here
    let row (rel : Bool) (n : BitVec 8) : Nat := if rel then (n.toNat + r.ro) % 256 else n.toNat
    let puts (i : Instr) (r2 : PaneRun) : Prop :=
      exec i s = .next (s.onHere fun c => { c with pane := { c.pane with run := some r2 } })
    (r.at_ ≤ s.cycle →
      (∀ (x y : Bool) (a b : BitVec 8), ∃ u v : BitVec 1024,
        puts (.wact x y a b) (({ r with andL := u, norL := v } : PaneRun).moved true) ∧ ∀ k, k < 1024 →
          u.getLsbD k = (c.column r.inBank (row x a) k && c.column r.inBank (row y b) k) ∧
          v.getLsbD k = !(c.column r.inBank (row x a) k || c.column r.inBank (row y b) k)) ∧
      (∀ (l : Bool) (src : BitVec 2) (n : BitVec 8), ∃ u : BitVec 1024,
        puts (.wlat l false src n) (({ r with carry := u } : PaneRun).moved false) ∧
        puts (.wlat l true src n) (({ r with pred := u } : PaneRun).moved false) ∧ ∀ k, k < 1024 →
          u.getLsbD k = if src = 0#2 then false else if src = 1#2 then true
            else if src = 2#2 then c.column r.inBank (row l n) k else !(c.column r.inBank (row l n) k))) ∧
    (r.at_ + 1 ≤ s.cycle → Memory.wf c.pool = true → ∀ (l p : Bool) (f : BitVec 3) (n : BitVec 8),
      ∃ t u, exec (.wwb l p f n) s = .next t ∧
        t.here.pane.run = some (({ r with carry := u } : PaneRun).moved false) ∧
        (∀ k, k < 1024 →
          let a := r.andL.getLsbD k
          let z := r.norL.getLsbD k
          let cy := r.carry.getLsbD k
          let on := !p || r.pred.getLsbD k
          u.getLsbD k = (if on = true ∧ (f = 5#3 ∨ f = 6#3) then a || (cy && !z) else cy) ∧
          t.here.column r.inBank (row l n) k =
            if on then (columnValue f.toNat a z cy).getD (c.column r.inBank (row l n) k) else c.column r.inBank (row l n) k) ∧
        (∀ a, a < 32768 * r.inBank + 128 * row l n ∨ 32768 * r.inBank + 128 * row l n + 128 ≤ a →
          Memory.read t.here.pool a = Memory.read c.pool a) ∧ t.act.regs = s.act.regs ∧ s.sameOutside t) ∧
    (r.atBoundary s.cycle →
      puts .wend { r with index := 256 } ∧
      ∀ (t n : BitVec 8) (k : BitVec 4),
        let lc := if r.armed then r.lc else n.toNat
        (0 < lc → puts (.wbr t n k) { r with
          armed := true, lc := lc - 1, ro := (((r.ro : Int) + k.toInt) % 256).toNat, index := t.toNat,
          spin := r.spin + 1 }) ∧
        (lc = 0 → puts (.wbr t n k) { r with armed := false, lc := 0, index := r.index + 1, spin := r.spin + 1 }))

/-! ## The facet engine -/

/-- A facet or SSQ command is numbered on its counter and queued with its descriptor and queries as they stand; a descriptor
that is not aligned or leaves the window raises a scratchpad-range fault, and so does a signature outside the window; a
field outside its limits, queries beyond s63, and a result stream that is unbound, no ssu stream or of another element width
raise an illegal-operand fault (R94, R199, R215, R216, R258). The model's choices: the descriptor is read at issue, by
accesses of the bundle (log 16), and the order of the checks with the syllable that each names (log 27). -/
def Obligations.FacetCommandIssue : Prop :=
  ∀ (i : Instr) (o : ExOp) (op : Nat) (s : State), facetOpcode i = some (o, op) →
    o.head.guard.holds s.act.regs = true → s.here.mx.rep = none → s.here.iss.trap = none → s.act.svc.bytes = [] →
    let x := s.act
    let a := (x.regs.readA o.addr.toNat).toNat
    let tl := if op = 0x30 then 3 else 2
    let num := (x.timeline tl).i + 1
    let select := op = 0x20 ∨ op = 0x21 ∨ op = 0x30
    let traps (detail : Nat) : Prop := ∃ t, exec i s = .next t ∧ t.here.iss.trap = some ⟨4, 3, 0, s.here.iss.pc, detail⟩ ∧
      t.act = s.act ∧ t.here.facet = s.here.facet ∧ t.here.ssqQueue = s.here.ssqQueue ∧ t.here.pool = s.here.pool ∧
      s.sameOutside t
    let bound := ∃ b sid, x.binding o.q.toNat = some b ∧ b.src = .ssu sid ∧ b.ew = 2
    let n := if op = 0x21 then (s.facetCmd o op).queryCount else 1
    let w := (s.facetCmd o op).width
    (a % 64 = 0 → a + 64 ≤ x.window → (s.facetCmd o op).legal = true →
      (select → bound ∧ o.query.toNat + n * max 1 (w / 32) ≤ 64) →
      (op = 0x22 ∨ op = 0x23 → (s.facetCmd o op).sigAddr + w / 8 ≤ x.window) →
      ∃ t k, exec i s = .next t ∧ k.op = op ∧ k.num = num ∧ k.cid = x.cid ∧ k.at_ = s.cycle ∧
        k.desc = ((List.range 16).map fun i => Memory.word s.here.pool (x.poolAddr (a + 4 * i))) ∧
        k.addr = x.poolAddr a ∧
        (select → ∀ q b, q < n → b < w → (k.queries.getD q 0#128).getLsbD b =
          (x.regs.readS (o.query.toNat + q * max 1 (w / 32) + b / 32)).getLsbD (b % 32)) ∧
        (if op = 0x30 then t.here.ssqQueue = s.here.ssqQueue ++ [k] ∧ t.here.facet = s.here.facet
          else t.here.facet = { s.here.facet with queue := s.here.facet.queue ++ [k] } ∧
            t.here.ssqQueue = s.here.ssqQueue) ∧
        t.act.timeline tl = ⟨num, (x.timeline tl).out ++ [num]⟩ ∧ t.act.regs = x.regs ∧ t.act.pend = x.pend ∧
        t.here.pool = s.here.pool ∧ ∀ m, m ≠ s.cur → t.core m = s.core m) ∧
    (a % 64 ≠ 0 ∨ x.window < a + 64 → (select → x.binding o.q.toNat ≠ none) →
      exec i s = .next (s.onIss fun i => { i with trap := some ⟨5, 3, 0, i.pc, a⟩ })) ∧
    (select → x.binding o.q.toNat = none →
      exec i s = .next (s.onIss fun i => { i with trap := some ⟨4, 3, 0, i.pc, 5⟩ })) ∧
    (a % 64 = 0 → a + 64 ≤ x.window →
      (select → x.binding o.q.toNat ≠ none → ¬ bound → traps 5) ∧
      (select → bound → 64 < o.query.toNat + n * max 1 (w / 32) → traps 4) ∧
      ((select → bound ∧ o.query.toNat + n * max 1 (w / 32) ≤ 64) → (s.facetCmd o op).legal = false → traps 5) ∧
      (op = 0x22 ∨ op = 0x23 → (s.facetCmd o op).legal = true → x.window < (s.facetCmd o op).sigAddr + w / 8 →
        ∃ t, exec i s = .next t ∧ t.act = s.act ∧
          t.here.iss.trap = some ⟨5, 3, 0, s.here.iss.pc, (s.facetCmd o op).sigAddr⟩))

/-- FINS reads its signature, refuses a page that a row or a spilled row of its sequence carries, and writes the lowest
invalid row; FUPD replaces the signature of the row of its page, FDEL makes it invalid; FCLR sets widths and makes every row
invalid; FSPILL starts the move of the oldest row to the lowest free slot of its region, FFILL that of the lowest spilled
page to the lowest invalid row. Each with its status and its time in the array (R214, R216, R217, R219, R220, R268 to
R271). FSPILL and FFILL of one row that no other command moves. -/
def Obligations.FacetArrayWork : Prop :=
  ∀ (s : State) (core : Nat) (k : FacetCmd) (rest : List FacetCmd), s.facetDue core k rest →
    let c := s.core core
    let same (e : FacetRow) : Prop := e.valid = true ∧ e.seq = k.seqId ∧ e.page = k.page
    let ends (t : State) (phase left status : Nat) : Prop := exec (.facetCommandStart core) s = .next t ∧
      (t.core core).facet.queue = rest ∧ (t.core core).facet.freeAt = s.cycle + phase ∧ s.facetOnly t core ∧
      (k.spill = 0 → t.dies = s.dies) ∧
      ∃ kv, (t.core core).facet.work = c.facet.work ++ [⟨k, s.cycle + phase - 1, left, [], status, kv⟩]
    Store.wf FacetRow.reset c.facets = true →
    (k.op = 0x22 ∨ k.op = 0x23 → k.spill = 0 → k.queries = [] → c.quiet → c.noStores → k.width ≤ 128 →
      ∃ t sig, exec (.facetCommandStart core) s = .next t ∧
        (t.core core).facet.queue = { k with queries := [sig] } :: rest ∧ ∀ b, b < k.width → sig.getLsbD b =
          (Memory.read c.pool ((c.ctx k.cid).poolAddr k.sigAddr + b / 8)).getLsbD (b % 8)) ∧
    (∀ sig, k.op = 0x22 → k.spill = 0 → k.queries = [sig] →
      let dup := (∃ e ∈ c.facets, same e.2) ∨ ∃ e ∈ c.spill, e.seq = k.seqId ∧ e.page = k.page
      (dup → ∃ t, ends t 8 0 4 ∧ (t.core core).facets = c.facets) ∧
      (∀ key, ¬ dup → k.lowestFree c key →
        ∃ t, ends t 8 0 0 ∧ c.rowIs (t.core core) key ⟨sig, k.page, k.seqId, true, 0, 0⟩) ∧
      (¬ dup → (∀ key, k.inRegion c key = true → (c.facetRow key).valid = true) →
        (∀ e ∈ c.facets, e.2.transit = 0) → ∃ t, ends t 8 0 2 ∧ (t.core core).facets = c.facets)) ∧
    (k.op = 0x23 ∨ k.op = 0x24 → k.spill = 0 → (k.op = 0x23 → k.queries ≠ []) →
      (∀ e ∈ k.rows c, e.2.page = k.page → e.2.transit = 0 → (∀ f ∈ k.rows c, f.2.page = k.page → f = e) →
        (∀ f ∈ c.spill, f.seq = k.seqId → f.page ≠ k.page) → ∃ t, ends t 24 0 0 ∧ c.rowIs (t.core core) e.1
          (if k.op = 0x23 then { e.2 with sig := k.queries.headD 0#128 } else { e.2 with valid := false })) ∧
      ((∀ e ∈ k.rows c, e.2.page ≠ k.page) → ∃ t, ends t 24 0 3 ∧ (t.core core).facets = c.facets)) ∧
    (k.op = 0x27 → k.spill = 0 → (∀ e ∈ c.facets, e.2.transit = 0) → Store.wf 0 c.widths = true →
      k.first + k.nrows ≤ 8192 → ∃ t, ends t (2 + (k.nrows + 255) / 256) 0 0 ∧
        (∀ p, (t.core core).rowWidth p =
          if k.first ≤ p ∧ p < k.first + k.nrows then k.width else c.rowWidth p) ∧
        ∀ key, if k.first ≤ key / 8 ∧ key / 8 < k.first + k.nrows
          then ((t.core core).facetRow key).valid = false ∧ ((t.core core).facetRow key).age = 0
          else (t.core core).facetRow key = c.facetRow key) ∧
    (∀ cap stack, k.op = 0x25 ∨ k.op = 0x26 → k.count = 1 → s.covered (s.clockOf (core / 32)) = true →
      let u := s.noteHeader core k
      u.region core k = .open_ cap core stack → s.dist.traces = [] → k.fill = none →
      (∀ w ∈ c.facet.work, w.cmd.num = k.num → w.cmd.cid = k.cid → w.cmd.op = 0x30) →
      (∀ e slot a, k.op = 0x25 → e ∈ k.rows c → e.2.transit = 0 → (∀ f ∈ k.rows c, f.2.age ≤ 255 ∧ f.2.page < 2 ^ 32) →
        (∀ f ∈ k.rows c, f.2.spilling = false → f = e ∨ f.2.age < e.2.age ∨ (f.2.age = e.2.age ∧ e.2.page < f.2.page)) →
        c.spill.length < 65536 → u.freeSlot core k stack cap 0 = some (slot, some a) →
        ∃ t r, ends t 72 1 65536 ∧ c.rowIs (t.core core) e.1 { e.2 with transit := 2 * c.facet.token } ∧
          (t.core core).spill = c.spill ++ [⟨k.seqId, e.2.page, slot, k.spill, 2 * c.facet.token⟩] ∧
          (t.core core).facet.requests = c.facet.requests ++ [r] ∧ r.kind = 0 ∧ r.addr = a.1 ∧ r.wid = none ∧
          r.token = c.facet.token ∧ r.bytes = slotBytesOf e.2.page e.2.sig) ∧
      (∀ e key a, k.op = 0x26 → e ∈ c.spill → e.seq = k.seqId → e.transit = 0 → e.region = k.spill →
        (∀ f ∈ c.spill, f.seq = k.seqId → f.transit % 2 = 0 → f.region = k.spill → f = e ∨ e.page < f.page) →
        k.lowestFree c key → u.slotAddr core k stack e.slot true true = some a →
        ∃ t r, ends t 72 1 65536 ∧ c.rowIs (t.core core) key
            ⟨(slotFields k.width (u.slotView core a.1)).2.2, e.page, k.seqId, true, 0, 2 * c.facet.token + 1⟩ ∧
          { e with transit := 2 * c.facet.token + 1 } ∈ (t.core core).spill ∧
          (∀ f ∈ c.spill, f ≠ e → f ∈ (t.core core).spill) ∧
          (t.core core).facet.requests = c.facet.requests ++ [r] ∧ r.kind = 3 ∧ r.addr = a.1 ∧ r.wid = none ∧
          r.bytes = unusedSlot (u.slotView core a.1)))

/-- A select without a spill region returns the pages of the selection rule in ascending page index, one record each with
class and score, or a terminator where there is none; the last record is flagged. Its records leave, one a cycle, in the
last cycles of its array phase (R218, R258, R261 to R265). -/
def Obligations.FacetSelection : Prop :=
  ∀ (s : State) (core : Nat) (k : FacetCmd) (rest : List FacetCmd), s.facetDue core k rest →
    k.op = 0x20 ∨ k.op = 0x21 → k.spill = 0 →
    let c := s.core core
    let set := (k.rows c).map fun e => (e.2.page, e.2.sig)
    (set.map fun e => e.1).Nodup →
    ∃ t z, exec (.facetCommandStart core) s = .next t ∧ (t.core core).facet.sel = some z ∧
      (t.core core).facet.queue = rest ∧ (t.core core).facets = c.facets ∧ s.facetOnly t core ∧ t.dies = s.dies ∧
      let pages := z.out.map fun r => (nth0 r 0).toNat
      ((∃ p, k.selects set p) → pages.Pairwise (· < ·) ∧ (∀ p, p ∈ pages ↔ k.selects set p) ∧
        (∀ r ∈ z.out, (nth0 r 0).toNat < min (dw k.desc 5) k.pages → nth0 r 1 = 0#32) ∧
        (∀ r ∈ z.out, k.windowed (nth0 r 0).toNat → min (dw k.desc 5) k.pages ≤ (nth0 r 0).toNat →
          nth0 r 1 = 0x40000000#32) ∧
        (∀ r ∈ z.out, ∀ e ∈ set, e.1 = (nth0 r 0).toNat → ¬ k.windowed e.1 →
          nth0 r 1 = BitVec.ofNat 32 (2 ^ 31 + k.agreement e.2)) ∧
        (z.out.getLast?.map fun r => (nth0 r 3).getLsbD 31) = some true) ∧
      ((¬ ∃ p, k.selects set p) → z.out = [[0xFFFFFFFF#32, 0xC0000000#32, BitVec.ofNat 32 (0xFFFF0000 + k.seqId),
        BitVec.ofNat 32 (k.num % 65536) ||| 0x80000000#32]]) ∧
      z.arrayEnd + 1 = s.cycle + 64 + 8 * (k.queryCount - 1) + max k.k z.out.length ∧
      z.pushAt + z.out.length = z.arrayEnd + 1 ∧ z.merged = true

/-- A request to the stack search units is applied whole at its slot, as a numbered write, or joins the replicated writes;
when it is visible, the row of a spill becomes invalid, a filled row's spill entry goes, and its command has one less to
wait for (R271, R273). A scan translates the pages of its region as it begins, and its eight units end within 600 + 2⌈CAP/8⌉
cycles (R332). A unit's scan adds its K best candidates (R274, R276). A record goes to the bound stream, at most one a
cycle; after the last of a select the rows age (R258, R266). A command with nothing left writes its STATUS and completes on
its counter (R215, R217, R221). The model's choice (log 47): a unit reads the slots of its share in one step, with the
writes on their way seen or not as it is free. -/
def Obligations.FacetRequests : Prop :=
  (∀ (s : State) (core : Nat) (r : SsuRequest) (rest : List SsuRequest), core < 512 →
    (s.core core).facet.requests = r :: rest → r.wid = none → r.due ≤ s.cycle → s.plainMemory →
    s.covered (s.clockOf (core / 32)) = true → s.hbm.wf = true →
    ∃ t, exec (.ssuRequest core) s = .next t ∧
      (r.copies = [] → bytesWritten s.hbm t.hbm r.addr r.bytes ∧ t.reps = s.reps) ∧
      (r.copies ≠ [] → t.hbm = s.hbm ∧ ∃ w, t.reps = s.reps ++ [w] ∧ w.id = s.nextWrite ∧ w.addr = r.addr ∧
        w.bytes = r.bytes ∧ w.copies = r.copies ∧ w.locked = false) ∧
      (t.core core).facet.requests = { r with wid := some s.nextWrite } :: rest ∧
      (t.die (core / 32)).sent = (s.die (core / 32)).sent + 1 ∧ (t.core core).act = (s.core core).act ∧
      (t.core core).pool = (s.core core).pool ∧ (∀ n, n ≠ core → t.core n = s.core n) ∧ t.host = s.host) ∧
  (∀ (s : State) (core id : Nat) (r : SsuRequest) (rest : List SsuRequest) (w : FacetWork), core < 512 →
    let c := s.core core
    c.facet.requests = r :: rest → r.wid = some id → s.visible id = true → (∀ q ∈ rest, q.token ≠ r.token) →
    c.facet.work = [w] → w.cmd.num = r.cmd → w.cmd.cid = r.cid → 0 < w.left → Store.wf FacetRow.reset c.facets = true →
    let done (t : State) : Prop := (t.core core).facet.requests = rest ∧
      (t.core core).facet.work = [{ w with left := w.left - 1, ids := w.ids ++ [id] }] ∧ s.facetOnly t core
    (r.kind = 0 → (c.facetRow r.row).transit = 2 * r.token → ∃ t, exec (.spillVisible core) s = .next t ∧ done t ∧
      c.rowIs (t.core core) r.row { c.facetRow r.row with valid := false, transit := 0 } ∧
      (t.core core).spill = c.spill.map fun e => if e.transit = 2 * r.token then { e with transit := 0 } else e) ∧
    (r.kind = 3 → (c.facetRow r.row).transit = 2 * r.token + 1 → ∃ t, exec (.fillTransitEnd core) s = .next t ∧ done t ∧
      c.rowIs (t.core core) r.row { c.facetRow r.row with transit := 0 } ∧
      ∀ e, e ∈ (t.core core).spill ↔ e ∈ c.spill ∧ e.transit ≠ 2 * r.token + 1)) ∧
  (∀ (s : State) (core unit due : Nat), core < 512 → unit < 8 → due ≤ s.cycle → s.dist.traces = [] →
    (∀ z n, (s.core core).facet.sel = some z → z.scan = some n → (unit, due) ∈ z.unitsLeft →
      let set := z.cmd.candidates (s.scanUnit core z.cmd n true unit).1
      ∃ t y l, exec (.ssuScan core unit) s = .next t ∧ (t.core core).facet.sel = some y ∧ y.cands = z.cands ++ l ∧
        (∀ e, e ∈ y.unitsLeft ↔ e ∈ z.unitsLeft ∧ e.1 ≠ unit) ∧ y.unitsEnd = s.cycle ∧
        l.length = min z.cmd.k set.length ∧ (∀ e ∈ l, e ∈ set) ∧ (∀ e ∈ set, e ∉ l → ∀ f ∈ l, e.1 ≤ f.1) ∧
        s.facetOnly t core) ∧
    (∀ w n rest, (s.core core).ssq = some w → w.scan = some n → w.units = (unit, due) :: rest →
      ∃ t y l, exec (.ssuScan core (unit + 8)) s = .next t ∧ (t.core core).ssq = some y ∧ y.units = rest ∧
        y.out = w.out ++ l ∧ l ≠ [] ∧ (∀ r ∈ l, (nth0 r 3).toNat / 65536 % 8 = unit) ∧
        (l.getLast?.map fun r => (nth0 r 3).getLsbD 30) = some true ∧ s.facetOnly t core)) ∧
  (∀ (s : State) (core unit : Nat), core < 512 → unit < 8 → s.covered (s.clockOf (core / 32)) = true → s.dist.traces = [] →
    let opened (k : FacetCmd) (n : Scan) : Prop := ∀ cap owner stack, s.region core k = .open_ cap owner stack →
      n.cap = cap ∧ n.owner = owner ∧ n.stack = stack ∧
      ∀ va l, (va, l) ∈ n.pages ↔ va ∈ k.pagesOf cap ∧ s.spillPage core k va = some l
    (∀ z, (s.core core).facet.sel = some z → z.scan = none → z.merged = false → z.startAt ≤ s.cycle →
      (∀ r ∈ (s.core core).facet.requests, r.region = z.cmd.spill → r.token < z.token → s.applied r = true) →
      ∃ t y n, exec (.ssuScan core unit) s = .next t ∧ (t.core core).facet.sel = some y ∧ y.scan = some n ∧
        opened z.cmd n ∧ y.cands = z.cands ∧
        (y.unitsLeft.map fun e => e.1) = (if n.cap = 0 then [] else List.range 8) ∧
        (∀ e ∈ y.unitsLeft, s.cycle < e.2 ∧ e.2 ≤ s.cycle + 600 + 2 * ((n.cap + 7) / 8)) ∧ s.facetOnly t core) ∧
    (∀ w, (s.core core).ssq = some w → w.scan = none → w.units = [] → w.startAt ≤ s.cycle →
      ∃ t y n, exec (.ssuScan core (unit + 8)) s = .next t ∧ (t.core core).ssq = some y ∧ y.scan = some n ∧
        opened w.cmd n ∧ y.out = w.out ∧ (y.units.map fun e => e.1) = List.range 8 ∧
        (y.units.map fun e => e.2).Pairwise (· ≤ ·) ∧
        (∀ e ∈ y.units, s.cycle < e.2 ∧ e.2 ≤ s.cycle + 600 + 2 * ((n.cap + 7) / 8)) ∧ s.facetOnly t core)) ∧
  (∀ (s : State) (core pos : Nat) (z : Select) (r : List Word) (rest : List (List Word)), core < 512 →
    let c := s.core core
    let k := z.cmd
    let x := c.ctx k.cid
    c.facet.sel = some z → z.merged = true → z.pushAt ≤ s.cycle → z.out = r :: rest → c.ssq = none →
    x.regs.bindingPos k.bind = some pos →
    ((x.ssu.filter fun f => decide (f.bind = k.bind)).map fun f => f.recs.length).sum < pos + 32 →
    ∃ t, exec (.facetMerge core) s = .next t ∧
      ((t.core core).ctx k.cid).ssu =
        (x.ssu.map fun f => if f.bind = k.bind then { f with recs := f.recs ++ [r] } else f) ∧
      ((t.core core).ctx k.cid).regs = x.regs ∧ (t.core core).pool = c.pool ∧ (∀ n, n ≠ core → t.core n = s.core n) ∧
      (rest ≠ [] → (t.core core).facet.sel = some { z with out := rest, pushAt := s.cycle + 1 } ∧
        (t.core core).facets = c.facets) ∧
      (rest = [] → (t.core core).facet.sel = none ∧ (t.core core).facet.freeAt = s.cycle + 1 ∧
        (t.core core).facet.work = c.facet.work ++ [⟨k, s.cycle, 0, [], z.status, z.kv⟩] ∧
        (Store.wf FacetRow.reset c.facets = true → ∀ e ∈ k.rows c, (t.core core).facetRow e.1 =
          if e.2.spilling = true then e.2
          else { e.2 with age := if e.2.page ∈ z.cands.map (fun f => f.2) then 0 else min 255 (e.2.age + 1) }))) ∧
  (∀ (s : State) (core : Nat) (k : FacetCmd) (rest : List FacetCmd), core < 512 → (s.core core).facet.queue = [] →
    (s.core core).ssqQueue = k :: rest → (s.core core).ssq = none → k.at_ < s.cycle → s.dist.traces = [] →
    ∃ t w, exec (.facetCommandStart core) s = .next t ∧ (t.core core).ssqQueue = rest ∧ (t.core core).ssq = some w ∧
      w.cmd = k ∧ w.scan = none ∧ s.cycle < w.startAt ∧ w.units = [] ∧ w.out = [] ∧ s.facetOnly t core) ∧
  (∀ (s : State) (core : Nat) (w : FacetWork), core < 512 → w ∈ (s.core core).facet.work → w.done ≤ s.cycle →
    w.left = 0 → (s.core core).quiet → ∃ v ∈ (s.core core).facet.work, v.done ≤ s.cycle ∧ v.left = 0 ∧
      ∃ t, exec (.facetCommandComplete core) s = .next t ∧
        let tl := if v.cmd.op = 0x30 then 3 else 2
        (t.core core).late = (s.core core).late ++
          [⟨21, s.cycle, cellsAt (v.cmd.addr + 60) (toBytes (BitVec.ofNat 32 v.status).toNat 4)⟩] ∧
        ((t.core core).ctx v.cmd.cid).comps =
          ((s.core core).ctx v.cmd.cid).comps ++ [⟨tl, v.cmd.num, s.cycle⟩] ∧
        (t.core core).facet.work = (s.core core).facet.work.erase v ∧
        ((t.core core).ctx v.cmd.cid).regs = ((s.core core).ctx v.cmd.cid).regs ∧
        (∀ n, n ≠ core → t.core n = s.core n) ∧ t.hbm = s.hbm)

/-- The registers of a die controller's control window (R11, R12, R239, R287, R288, R334, R340, R342, R349, R360). A core's
block reads what R237 and R239 name; CWIN and CPART are written under their conditions only, CFSTAT and SPDAT while the core
is held; a word written to a register of the controller is what its fields read afterwards, and no other register of that
controller changes; a write above a power limit stores the limit; a write to a read-only register is ignored. A bit that
this cycle has set stays set against a write of one (R11). Firmware opens registers to the host and closes them, keeps the
root of an address space, whoever puts an image into memory says where it ends (log 58), and a sensor's word is what TEMP or
POWER reads; a host write, in its turn, writes what firmware has opened, and sets CW for any other. That a write of SLIPSTAT
with OVF set in the written word does not pop is the model's reading (log 76). -/
def Obligations.ControllerRegisters : Prop :=
  (∀ (s : State) (core : Nat), core < 512 →
    let c := s.core core
    let rd (off : Nat) : Word := s.readRegister (core / 32) (blockAt core off)
    rd 0 = c.trap0 ∧ rd 4 = c.trap1 ∧ (rd 8).toNat = b2n c.act.held * 2 ^ 31 + b2n c.trapPost * 2 ^ 30 + c.mpc % 2 ^ 15 ∧
      (rd 0xC).toNat = c.trapCount % 2 ^ 32 ∧ rd 0x10 = 0#32 ∧ rd 0x14 = c.act.codeWin ∧ rd 0x18 = c.act.partition ∧
      (∀ n, n < 8 → rd (0x20 + 4 * n) = c.act.fstatOf n) ∧ rd 0x40 = c.spadr ∧
      ((rd 0x48).getLsbD 0 = c.act.held ∧ (rd 0x48).getLsbD 1 = c.act.task.isSome ∧ (rd 0x48).toNat < 4)) ∧
  (∀ (s : State) (core : Nat) (w : Word), core < 512 →
    let c := s.core core
    ∃ t, exec (.cwinWrite core w) s = .next t ∧ s.onlyCore t core ∧
      ((c.act.held = true ∨ c.act.task = none) ∧ field w.toNat 0 11 + field w.toNat 16 12 ≤ 2048 →
        t.core core = { c with act := { c.act with codeWin := w &&& 0x0FFF07FF#32 } }) ∧
      (¬ ((c.act.held = true ∨ c.act.task = none) ∧ field w.toNat 0 11 + field w.toNat 16 12 ≤ 2048) → t.core core = c)) ∧
  (∀ (s : State) (core : Nat) (w : Word), core < 512 →
    let c := s.core core
    let v := w &&& 0xFFFF0000#32
    ∃ t, exec (.cpartWrite core w) s = .next t ∧ s.onlyCore t core ∧
      (c.act.task = none ∧ c.shadow.task = none ∧ partitionOk v.toNat = true →
        t.core core = { c with act := { c.act with partition := v } }) ∧
      (¬ (c.act.task = none ∧ c.shadow.task = none ∧ partitionOk v.toNat = true) → t.core core = c)) ∧
  (∀ (s : State) (core : Nat) (n : BitVec 3) (w : Word), core < 512 →
    let c := s.core core
    ∃ t, exec (.cfstatWrite core n w) s = .next t ∧ s.onlyCore t core ∧ (c.act.held = false → t.core core = c) ∧
      (c.act.held = true → c.act.fresh = [] → Store.wf 0#32 c.act.fstat = true →
        (∀ k, k < 32 → ((t.core core).act.fstatOf n.toNat).getLsbD k =
          if k < 5 ∨ k = 14 ∨ k = 15 then (c.act.fstatOf n.toNat).getLsbD k && !w.getLsbD k
          else if k < 11 then w.getLsbD k else false) ∧
        (∀ j, j ≠ n.toNat → (t.core core).act.fstatOf j = c.act.fstatOf j) ∧
        (t.core core).act = { c.act with fstat := (t.core core).act.fstat })) ∧
  (∀ (s : State) (core : Nat) (w : Word), core < 512 →
    let c := s.core core
    let a := c.spadr.toNat / 4 * 4
    let p := c.act.poolAddr a
    (c.act.held = true → a + 4 ≤ c.act.window → c.quiet →
      (∃ t, exec (.spdatRead core) s = .next t ∧ t.answer = some ⟨true, Memory.bytes c.pool p 4⟩ ∧ s.onlyCore t core ∧
        (t.core core).act = c.act ∧ (t.core core).pool = c.pool ∧ (t.core core).late = c.late) ∧
      (∃ t, exec (.spdatWrite core w) s = .next t ∧ t.answer = s.answer ∧ s.onlyCore t core ∧
        (t.core core).late = c.late ++ [⟨22, s.cycle, cellsAt p (toBytes w.toNat 4)⟩] ∧ (t.core core).act = c.act ∧
        (t.core core).pool = c.pool)) ∧
    (c.act.held = true → a + 4 ≤ c.act.window → c.pane.done = [] →
      (∀ r, c.pane.run = some r → s.cycle < r.window ∨ r.windowEnd ≤ s.cycle) →
      c.pane.busy = some (p / 32768) ∨ (∃ q ∈ c.ports, q.1 = p / 32768 ∧ q.2.2 = false) →
      (∃ t, exec (.spdatRead core) s = .next t ∧ t.answer = s.answer ∧
        t.inputs = (s.cycle + 1, .spdatRead core) :: s.inputs ∧ (t.core core).pool = c.pool) ∧
      (∃ t, exec (.spdatWrite core w) s = .next t ∧ t.inputs = (s.cycle + 1, .spdatWrite core w) :: s.inputs ∧
        (t.core core).late = c.late)) ∧
    (c.act.held = false ∨ c.act.window < a + 4 →
      exec (.spdatRead core) s = .next { s with answer := some ⟨true, [0#8, 0#8, 0#8, 0#8]⟩ } ∧
      exec (.spdatWrite core w) s = .next s)) ∧
  (∀ (s : State) (die off off' : Nat) (w : Word), die < 16 → off' ≠ off → off' % 4 = 0 →
    Store.wf 0 s.dist.runmax = true → Store.wf 0#32 s.dist.qlevel = true →
    let wr := exec (.registerWrite .firmware die off w) s
    let host := exec (.registerWrite .host die off w) s
    (off ∈ [0x100, 0x104, 0x108, 0x10C, 0x400, 0x404, 0x408] → ∃ t, wr = .next t ∧ s.onlyDie t die ∧
      (t.readRegister die off).toNat = (match off with
        | 0x100 => w.toNat / 65536 * 65536
        | 0x104 => w.toNat % 2 ^ 20
        | 0x108 => w.toNat % 2 ^ 25
        | 0x10C => w.toNat
        | 0x400 => min (w.toNat % 4096) 3200
        | 0x404 => min (w.toNat % 256) 150
        | _ => min (w.toNat % 128) 105) ∧
      t.readRegister die off' = s.readRegister die off') ∧
    (die = 0 → off ∈ [4, 0x10, 0x14, 0x18, 0x200, 0x204, 0x208] → ∃ t, wr = .next t ∧ s.noMemory t ∧ t.dies = s.dies ∧
      (t.readRegister 0 off).toNat = (match off with
        | 4 => w.toNat % 65536
        | 0x200 => w.toNat % 65536
        | 0x204 => w.toNat % 4096
        | 0x208 => (s.hstat &&& (~~~w ||| s.hstatNow)).toNat
        | _ => w.toNat) ∧
      t.readRegister 0 off' = s.readRegister 0 off') ∧
    (die = 0 → 0x20 ≤ off → off ≤ 0x5C → off % 4 = 0 → ∃ t, wr = .next t ∧ s.noMemory t ∧ t.dies = s.dies ∧
      ∀ q, t.dist.queueLevel q = if q < 4 then q else if q / 16 = (off - 0x20) / 4 then field w.toNat (2 * (q % 16)) 2
        else s.dist.queueLevel q) ∧
    (off ∈ [8, 0xC, 0x64, 0x68, 0x6C, 0x70, 0x124, 0x128, 0x12C, 0x130, 0x300, 0x340, 0x37C, 0x40C, 0x410, 0x414, 0x418, 0x600]
      → wr = .next s) ∧
    (s.hostDown = false → s.hostWait = [] → s.hostMessages < 64 → (∀ id ∈ s.hostSent, s.visible id = true) →
      (off ∉ (s.die die).opened → host = .next { s with hstat := s.hstat ||| 1#32, setNow := s.setNow ++ [0] }) ∧
      (off ∈ (s.die die).opened → host = wr)) ∧
    (s.hostDown = false → s.hostWait = [] → (64 ≤ s.hostMessages ∨ ∃ id ∈ s.hostSent, s.visible id = false) →
      host = .next { s with hostWait := [.registerWrite .host die off w] }) ∧
    (s.hostDown = true → host = .next s)) ∧
  (∀ (s : State) (die off : Nat) (w : Word), die < 16 →
    (∃ t, exec (.registerWrite .opens die off w) s = .next t ∧ s.onlyDie t die ∧ (t.die die).tlbs = (s.die die).tlbs ∧
      ∀ k, k ∈ (t.die die).opened ↔ k = off ∨ k ∈ (s.die die).opened) ∧
    (∃ t, exec (.registerWrite .closes die off w) s = .next t ∧ s.onlyDie t die ∧ (t.die die).tlbs = (s.die die).tlbs ∧
      ∀ k, k ∈ (t.die die).opened ↔ k ≠ off ∧ k ∈ (s.die die).opened) ∧
    (Store.wf 0 s.roots = true → ∃ t, exec (.registerWrite .root die off w) s = .next t ∧ t = { s with roots := t.roots } ∧
      ∀ a, Store.get 0 t.roots a = if a = off ∧ off < 4096 then 256 * w.toNat else Store.get 0 s.roots a) ∧
    (Store.wf none s.images = true → ∃ t, exec (.registerWrite .image die off w) s = .next t ∧
      t = { s with images := t.images } ∧
      ∀ k, Store.get none t.images k = if k = off then (if w = 0#32 then none else some w.toNat) else Store.get none s.images k) ∧
    (∃ t, exec (.registerWrite .sensor die off w) s = .next t ∧ s.onlyDie t die ∧
      (t.readRegister die 0x40C).toNat = (if off = 0x40C then w.toNat % 128 else (s.die die).temp % 2 ^ 32) ∧
      (t.readRegister die 0x410).toNat = (if off = 0x410 then w.toNat % 256 else (s.die die).power % 2 ^ 32) ∧
      ∀ o, o ≠ 0x40C → o ≠ 0x410 → t.readRegister die o = s.readRegister die o)) ∧
  (∀ (s : State) (w : Word),
    let n := w.toNat % 2 ^ 24
    exec (.ticklenWrite w) s = .next (if n = 0 then s else { s with dist := { s.dist with ticklen := n } }) ∧
    exec (.trsbaseWrite w) s =
      .next (if s.dist.traces = [] then { s with dist := { s.dist with trsbase := w.toNat % 256 } } else s) ∧
    exec .slipLogPop s = .next { s with dist := { s.dist with slips := s.dist.slips.tail } } ∧
    exec (.registerWrite .firmware 0 0 w) s = exec (.ticklenWrite w) s ∧
    exec (.registerWrite .firmware 0 0x500 w) s = exec (.trsbaseWrite w) s ∧
    exec (.registerWrite .firmware 0 0x60 w) s =
      (if w.getLsbD 31 = true then
        .next { s with dist := { s.dist with slipOvf := s.dist.slipOvf && decide (4 ∈ s.setNow) } }
       else if w.getLsbD 0 = true then exec .slipLogPop s else .next s)) ∧
  (∀ (s : State) (core : Nat) (w : Word), core < 512 →
    let wr (off : Nat) := exec (.registerWrite .firmware (core / 32) (blockAt core off) w) s
    wr 0x14 = exec (.cwinWrite core w) s ∧ wr 0x18 = exec (.cpartWrite core w) s ∧
      wr 0x44 = exec (.spdatWrite core w) s ∧
      (∀ n : BitVec 3, wr (0x20 + 4 * n.toNat) = exec (.cfstatWrite core n w) s) ∧
      wr 0x10 = (if w.toNat % 4 = 1 then exec (.coreResume core) s else if w.toNat % 4 = 2 then exec (.taskKill core) s
        else .next s) ∧
      ∃ t, wr 0x40 = .next t ∧ s.onlyCore t core ∧
        t.core core = { s.core core with spadr := w &&& 0xFFFFFFFC#32 })

/-- Invalidations, splinters and page faults (R331, R333 to R335), and firmware's writes to device memory (R355). From the
step that begins an invalidation no TLB and no walk cache holds an entry of the range; it completes once every write that
was on its way is visible, no spill access translated through the range remains, and the scans that hold a translation into
it have ended. A splinter writes the finer table, then the non-leaf entry over the large leaf; where it finds no such leaf,
or a misaligned table, it sets ERR and writes nothing. A retried operation walks afresh from its failing row, by a walker of
its engine or waiting for one; a refused one ends with STATUS 1. What firmware writes is in its homes at once, and on its
way to the far-line buffers that hold its lines. The model's choices: an invalidation waits for every write that was on its
way when it began (log 80), and a splinter's table is written in one step (log 81). -/
def Obligations.TranslationControl : Prop :=
  (∀ (s : State) (die : Nat), die < 16 → (s.die die).inval = none → s.dist.traces = [] →
    let d := s.die die
    let va := d.tlbva0.toNat / 65536 * 65536 + 2 ^ 32 * (d.tlbva1.toNat % 2 ^ 20)
    let dropped (t : State) (p : Nat → Nat → Nat → Prop) : Prop :=
      (∀ k e, e ∈ (t.die k).tlbs ↔ e ∈ (s.die k).tlbs ∧ ¬ p e.asid e.va (2 ^ e.leaf.bits)) ∧
      (∀ k e, e ∈ (t.die k).tables ↔ e ∈ (s.die k).tables ∧
        ¬ p e.asid (e.part * 2 ^ levelBits e.level) (2 ^ levelBits e.level)) ∧
      (∀ k, k ≠ die → (t.die k).inval = (s.die k).inval) ∧ s.noMemory t ∧ t.ops = s.ops ∧ t.dist = s.dist
    let waits (v : Inval) : Prop :=
      (∀ id, id ∈ v.waitFor ↔ (∃ e ∈ s.dies, ∃ w ∈ e.2.incoming, w.id = id) ∨ ∃ w ∈ s.reps, w.id = id) ∧
      ∀ k, k ∈ v.scans ↔ ∃ r ∈ s.runningScans, scanId r = k ∧ r.2.1.asid = v.asid ∧
        (v.all = true ∨ (r.2.1.spill < v.va + 65536 * v.units ∧ v.va < r.2.1.spill + 64 + 32 * r.2.2.cap))
    (∃ t v, exec (.tlbInvalidate die) s = .next t ∧ (t.die die).inval = some v ∧
      v.asid = d.tlbAsid ∧ v.all = false ∧ v.va = va ∧ v.units = d.tlbn.toNat ∧ waits v ∧
      dropped t fun asid a n => asid = d.tlbAsid ∧ a < va + 65536 * d.tlbn.toNat ∧ va < a + n) ∧
    (∃ t v, exec (.tlbInvalidateAsid die) s = .next t ∧ (t.die die).inval = some v ∧
      v.asid = d.tlbAsid ∧ v.all = true ∧ waits v ∧
      dropped t fun asid _ _ => asid = d.tlbAsid)) ∧
  (∀ (s : State) (die : Nat) (v : Inval), die < 16 → (s.die die).inval = some v →
    exec (.tlbInvalidate die) s = .next s ∧ exec (.tlbInvalidateAsid die) s = .next s ∧ exec (.splinter die) s = .next s ∧
    ((∀ id ∈ v.waitFor, s.visible id = true) → s.spillsThrough v = false →
      (∀ r ∈ s.runningScans, scanId r ∉ v.scans) → s.dist.traces = [] →
      ∃ t, exec (.invalidationComplete die) s = .next t ∧ t.die die = { s.die die with inval := none } ∧ s.onlyDie t die) ∧
    ((∃ id ∈ v.waitFor, s.visible id = false) ∨ s.spillsThrough v = true ∨ (∃ r ∈ s.runningScans, scanId r ∈ v.scans) →
      exec (.invalidationComplete die) s = .next s)) ∧
  (∀ (s : State) (die level : Nat) (l : Leaf), die < 16 → (s.die die).inval = none →
    let d := s.die die
    let va := d.tlbva0.toNat / 65536 * 65536 + 2 ^ 32 * (d.tlbva1.toNat % 2 ^ 20)
    let tab := d.tlbtab.toNat * 256
    let n := if level = 2 then 512 else 32
    let at_ := s.entryAddr die va (Store.get 0 s.roots d.tlbAsid) 3 (3 - level)
    s.walk die noEngine d.tlbAsid va = .leaf l level → level = 1 ∨ level = 2 →
    (tab % (8 * n) = 0 → at_ + 8 ≤ tab ∨ tab + 8 * n ≤ at_ → s.plainMemory → s.hbm.wf = true →
      ∃ t v, exec (.splinter die) s = .next t ∧
        (∀ k, k < n → t.entryAt die (tab + 8 * k) =
          (s.entryAt die at_ + k * (if level = 2 then 2 ^ 21 else 2 ^ 16)) % 2 ^ 64) ∧
        t.entryAt die at_ = tab + 1 ∧
        (∀ b, b < tab ∨ tab + 8 * n ≤ b → b < at_ ∨ at_ + 8 ≤ b → Memory.read t.hbm b = Memory.read s.hbm b) ∧
        (t.die die).inval = some v ∧ v.asid = d.tlbAsid ∧ v.all = false ∧ v.va = va / 2 ^ l.bits * 2 ^ l.bits ∧
        65536 * v.units = 2 ^ l.bits ∧ (∀ k e, e ∈ (t.die k).tlbs → e ∈ (s.die k).tlbs ∧
          ¬ (e.asid = d.tlbAsid ∧ e.va < v.va + 2 ^ l.bits ∧ v.va < e.va + 2 ^ e.leaf.bits)) ∧
        (t.die die).tlbErr = d.tlbErr ∧ t.cores = s.cores ∧ t.dist = s.dist ∧ t.host = s.host ∧ t.pod = s.pod) ∧
    (tab % (8 * n) ≠ 0 → exec (.splinter die) s = .next (s.onDie die fun d => { d with tlbErr := true }))) ∧
  (∀ (s : State) (die : Nat), die < 16 → (s.die die).inval = none →
    (∀ l level, level = 1 ∨ level = 2 →
      s.walk die noEngine (s.die die).tlbAsid ((s.die die).tlbva0.toNat / 65536 * 65536 + 2 ^ 32 * ((s.die die).tlbva1.toNat % 2 ^ 20)) ≠
        .leaf l level) →
    exec (.splinter die) s = .next (s.onDie die fun d => { d with tlbErr := true })) ∧
  (∀ (s : State) (die : Nat) (w : Word), die < 16 →
    let wr (off : Nat) := exec (.registerWrite .firmware die off w) s
    let s1 := s.onDie die fun d => { d with
      tlbAsid := w.toNat / 4 % 4096, tlbOp := w.toNat % 4, tlbErr := d.tlbErr && !w.getLsbD 30 }
    ((s.die die).inval ≠ none → wr 0x110 = .next s) ∧
    ((s.die die).inval = none → wr 0x110 =
      if w.toNat % 4 = 1 then exec (.tlbInvalidate die) s1 else if w.toNat % 4 = 2 then exec (.splinter die) s1
      else if w.toNat % 4 = 3 then exec (.tlbInvalidateAsid die) s1 else .next s1) ∧
    exec (.faultLogPop die) s = .next (s.onDie die fun d => { d with faults := d.faults.tail }) ∧
    wr 0x120 = (let s2 := s.onDie die fun d => { d with tlost := d.tlost && (!w.getLsbD 7 || decide (8 + die ∈ s.setNow)) }
      if w.getLsbD 0 = true then exec (.faultLogPop die) s2 else .next s2) ∧
    (lookup (s.die die).tags (w.toNat % 64) = none → wr 0x134 = .next s)) ∧
  (∀ (s : State) (die : Nat) (tag : BitVec 6) (o : CopyOp) (w : Word), die < 16 →
    (lookup (s.die die).tags tag.toNat).bind s.op = some o → w.toNat % 64 = tag.toNat →
    let freed (t : State) (p : CopyOp) : Prop :=
      t.op o.id = some p ∧ (∀ id, id ≠ o.id → t.op id = s.op id) ∧
      (∀ e, e ∈ (t.die die).tags ↔ e ∈ (s.die die).tags ∧ e.1 ≠ tag.toNat) ∧ (t.die die).faults = (s.die die).faults ∧
      (∀ k, k ≠ die → t.die k = s.die k) ∧ s.noMemory t ∧ { t.dist with mailboxes := s.dist.mailboxes } = s.dist
    (∀ need level cause held, o.stage = .faulted held need level cause → o.die = die →
      ∃ t, exec (.faultRetry die tag) s = .next t ∧ freed t { o with stage := .walk need } ∧ t.dist = s.dist ∧
        (t.die die).walking (engineOf o.core) need.asid (need.va / 65536)) ∧
    (∃ t, exec (.faultRefuse die tag) s = .next t ∧
      freed t { o with stage := .landing, status := 1, data := none, todo := [], blocked := [], rowIds := [] } ∧
      t.die die = { s.die die with tags := (t.die die).tags }) ∧
    exec (.registerWrite .firmware die 0x134 w) s =
      (let s1 := s.onDie die fun d => { d with fltact := w &&& 0x33F#32 }
       if w.toNat / 256 % 4 = 0 then exec (.faultRetry die tag) s1
       else if w.toNat / 256 % 4 = 1 then exec (.faultRefuse die tag) s1 else .next s1)) ∧
  (∀ (s : State) (die addr : Nat) (bytes : List Byte), die < 16 → addr + bytes.length ≤ 2 ^ 40 → s.dist.traces = [] →
    s.hbm.wf = true →
    ∃ t, exec (.firmwareMemoryWrite die addr bytes) s = .next t ∧ bytesWritten s.hbm t.hbm addr bytes ∧
      (∀ d b, t.deviceByte d b =
        if addr ≤ b ∧ b < addr + bytes.length ∧ (homeDie b = d ∨ (s.die d).farLine (lineOf b) = none) then nth0 bytes (b - addr)
        else s.deviceByte d b) ∧
      t.cores = s.cores ∧ t.host = s.host ∧ t.pod = s.pod ∧ t.dist = s.dist ∧ t.ops = s.ops ∧
      ∀ d, (t.die d).tlbs = (s.die d).tlbs ∧ (t.die d).far = (s.die d).far ∧
        ∃ l, (t.die d).incoming = (s.die d).incoming ++ l ∧
          (∀ w ∈ l, w.id = s.nextWrite ∧ w.home = false ∧ w.space = 0 ∧ w.num = 0 ∧ w.watched = false ∧ s.cycle < w.due) ∧
          ∀ b, d < 16 → addr ≤ b → b < addr + bytes.length → homeDie b ≠ d → (s.die d).farLine (lineOf b) ≠ none →
            ∃ w ∈ l, w.addr ≤ b ∧ w.bytes[b - w.addr]? = some (nth0 bytes (b - addr)))

/-! ## Copies, writes and clocks -/

/-- The copy engines (R193 to R196, R313, R316, R330, R335, R337). A packet is accepted, or ends with STATUS 3, 4 or 7 and
moves nothing. A row or place is read whole before it is written: from the scratchpad, from a filled slot of a circular
buffer, which is freed, or from memory through the engine's TLB; a row outside the window ends with STATUS 2. It is written
to the B-store, to the scratchpad or the next free slot in pieces that each lie in one row of a bank, or sent to its home in
blocks. A miss walks the tables; a page fault stalls the operation and takes a tag with its record. Completion writes STATUS
into word 15 and counts the operation's number. A place of a GATHERP without an entry is skipped. A row at pkg scope or
wider to a memory of a core takes a number of its die and is held until the frontiers cover its clock (R316). An entry that
is being changed gives the old leaf or the new one, as it is free (R330). The model's choices: a circular buffer takes one
delivery at a time (log 41); which words of a packet must be zero (log 50). -/
def Obligations.CopyRows : Prop :=
  (∀ (s : State) (o : CopyOp), s.opDue o → o.accepted = false → o.kind ≤ 1 →
    (o.trace = 0 → o.copyOk = true → s.buffersOk o = true → o.sk ≠ 3 → o.dk ≠ 3 →
      (o.sk = 1 → o.dk = 1 → ∀ i j, i < o.rows → j < o.rows →
        o.source i + o.bytes ≤ o.dest j ∨ o.dest j + o.bytes ≤ o.source i) →
      ∃ t, exec (.copyRow o.id) s = .next t ∧ s.opBecomes t o { o with accepted := true, peer := none } ∧ s.noMemory t) ∧
    (o.bytes < 4 ∨ 2 ^ 24 < o.bytes ∨ o.bytes % 4 ≠ 0 ∨ 65536 < o.rows ∨ o.sk = 2 ∨ 4 < o.sk ∨ 4 < o.dk ∨
        (o.sk = 1 ∧ dw o.packet 1 % 4 ≠ 0) ∨ (o.dk = 1 ∧ dw o.packet 3 % 4 ≠ 0) ∨ dw o.packet 10 ≠ 0 →
      ∃ t p, exec (.copyRow o.id) s = .next t ∧ s.opBecomes t o p ∧ p.stage = .landing ∧ p.status = 3 ∧ s.noMemory t) ∧
    (o.copyOk = true → s.buffersOk o = true → o.sk = 3 ∨ o.dk = 3 → o.gang = none →
      ∃ t p, exec (.copyRow o.id) s = .next t ∧ s.opBecomes t o p ∧ p.stage = .landing ∧ p.status = 4 ∧ s.noMemory t) ∧
    (o.copyOk = true → o.sk = 1 → o.dk = 1 → (∃ i j, i < o.rows ∧ j < o.rows ∧ o.source i < o.dest j + o.bytes ∧
        o.dest j < o.source i + o.bytes) →
      ∃ t p, exec (.copyRow o.id) s = .next t ∧ s.opBecomes t o p ∧ p.stage = .landing ∧ p.status = 7 ∧ s.noMemory t)) ∧
  (∀ (o : CopyOp) (r : Nat), o.kind = 0 →
    let at_ (k stride : Nat) : Int := (dw o.packet k : Int) + r * toSigned (dw o.packet stride) 32
    (o.sk = 1 → 0 ≤ at_ 1 7 → at_ 1 7 < 2 ^ 32 → (o.source r : Int) = at_ 1 7) ∧
    (o.dk ≠ 0 → 0 ≤ at_ 3 8 → at_ 3 8 < 2 ^ 32 → (o.dest r : Int) = at_ 3 8)) ∧
  (∀ (s : State) (o : CopyOp), s.opDue o → o.accepted = true → o.kind = 0 → o.todo = [] → o.rowIds = [] → o.data = none →
    o.dk ≠ 3 →
    let c := s.core o.core
    let x := c.ctx o.cid
    let a := o.source o.row
    (o.sk = 1 ∨ o.sk = 4 ∧ (Store.get CBuf.unset x.regs.cb (dw o.packet 1)).filled ≠ 0 → x.clearing s.cycle = true →
      exec (.copyRow o.id) s = .next (s.setOp { o with notBefore := s.cycle + 1 })) ∧
    (o.sk = 1 → x.clearing s.cycle = false → x.window < a + o.bytes →
      ∃ t p, exec (.copyRow o.id) s = .next t ∧ s.opBecomes t o p ∧ p.stage = .landing ∧ p.status = 2 ∧ s.noMemory t) ∧
    (o.sk = 1 → x.clearing s.cycle = false → a + o.bytes ≤ x.window → c.quiet → c.noStores → o.got = [] →
      ∃ t p, exec (.copyRow o.id) s = .next t ∧
        s.opBecomes t o { o with data := some (Memory.bytes c.pool (x.poolAddr a) o.bytes), kv := p } ∧
        (∀ n, t.core n = s.core n) ∧ t.hbm = s.hbm ∧ t.host = s.host ∧ t.dies = s.dies) ∧
    (o.sk = 4 →
      let n := dw o.packet 1
      let k := Store.get CBuf.unset x.regs.cb n
      (k.filled = 0 → exec (.copyRow o.id) s = .next (s.setOp { o with notBefore := s.cycle + 1 })) ∧
      (0 < k.filled → x.clearing s.cycle = false → k.base + k.rdNext * k.size + o.bytes ≤ x.window → c.quiet → c.noStores →
        o.got = [] → Store.wf CBuf.unset x.regs.cb = true →
        ∃ t p, exec (.copyRow o.id) s = .next t ∧
          s.opBecomes t o { o with
            data := some (Memory.bytes c.pool (x.poolAddr (k.base + k.rdNext * k.size)) o.bytes), kv := p } ∧
          Store.get CBuf.unset ((t.core o.core).ctx o.cid).regs.cb n =
            { k with filled := k.filled - 1, free := k.free + 1, rdNext := (k.rdNext + 1) % k.count } ∧
          (∀ j, j ≠ n → Store.get CBuf.unset ((t.core o.core).ctx o.cid).regs.cb j = Store.get CBuf.unset x.regs.cb j) ∧
          (t.core o.core).pool = c.pool)) ∧
    (o.sk = 0 → 0 < o.bytes →
      let va := o.source o.row
      va % 65536 + o.bytes ≤ 65536 →
      ((s.die o.die).tlbEntry (engineOf o.core) o.asid va = none → ∃ t, exec (.copyRow o.id) s = .next t ∧
        s.opBecomes t o { o with stage := .walk ⟨va, false, o.asid⟩ } ∧ s.noMemory t ∧ (∀ k, k ≠ o.die → t.die k = s.die k) ∧
        (t.die o.die).walking (engineOf o.core) o.asid (va / 65536)) ∧
      (∀ l, s.mayUse o va l → l.r = true → l.kind = 0 → l.rep = false → o.timed = false →
        s.reachable o.die l va o.bytes false = true → s.covered (s.clockOf o.die) = true →
        ∃ t p, exec (.copyRow o.id) s = .next t ∧ s.opBecomes t o { o with
          data := some ((List.range o.bytes).map fun j => s.deviceByte o.die (l.translate va + j)), kv := p,
          got := [], blocked := [] } ∧ t.hbm = s.hbm ∧ t.cores = s.cores) ∧
      (∀ l, s.mayUse o va l → l.r = true → l.kind = 0 → o.timed = false → o.blocked = [] →
        s.reachable o.die l va o.bytes false = true → s.covered (s.clockOf o.die) = false →
        exec (.copyRow o.id) s = .next (s.setOp { o with notBefore := s.cycle + 1 })))) ∧
  (∀ (s : State) (o : CopyOp) (bytes : List Byte), s.opDue o → o.accepted = true → o.kind = 0 → o.todo = [] →
    o.rowIds = [] → o.sk ≠ 3 → o.data = some bytes → bytes.length = o.bytes → 0 < o.bytes → o.timed = false →
    let c := s.core o.core
    let x := c.ctx o.cid
    let a := o.dest o.row
    let cut (t : State) (d : Nat) : Prop := ∃ l, s.opBecomes t o (if o.scope < 3 then { o with data := some [], todo := l }
        else { o with
          data := some [], todo := l, stamp := some (s.nextWrite, (s.die o.die).sent + 1), vstamp := s.clockOf o.die,
          unseen := o.unseen ++ [s.nextWrite] }) ∧
      (t.die o.die).sent = (s.die o.die).sent + (if o.scope < 3 then 0 else 1) ∧
      (l.map fun p => cellsAt p.1 p.2).flatten = cellsAt d bytes ∧
      ∀ p ∈ l, p.2 ≠ [] ∧ p.1 % 512 + p.2.length ≤ 512
    (o.dk = 1 → x.clearing s.cycle = true →
      exec (.copyRow o.id) s = .next (s.setOp { o with notBefore := s.cycle + 1 })) ∧
    (o.dk = 1 → a + o.bytes ≤ x.window → x.clearing s.cycle = false →
      ∃ t, exec (.copyRow o.id) s = .next t ∧ cut t (x.poolAddr a) ∧ s.noMemory t) ∧
    (o.dk = 1 → x.clearing s.cycle = false → x.window < a + o.bytes → ∃ t p, exec (.copyRow o.id) s = .next t ∧ s.opBecomes t o p ∧
      p.stage = .landing ∧ p.status = 2 ∧ s.noMemory t) ∧
    (o.dk = 2 → a + o.bytes ≤ 2 ^ 24 → 3 ≤ o.scope → s.covered (s.clockOf o.die) = false →
      exec (.copyRow o.id) s = .next (s.setOp { o with notBefore := s.cycle + 1 })) ∧
    (o.dk = 2 → a + o.bytes ≤ 2 ^ 24 → o.scope < 3 ∨ s.covered (s.clockOf o.die) = true → c.bstore.wf = true →
      ∃ t p, exec (.copyRow o.id) s = .next t ∧ s.opBecomes t o p ∧
      o.afterRow p s.cycle o.status (if o.scope < 3 then [] else [s.nextWrite]) ∧ bytesWritten c.bstore (t.core o.core).bstore a bytes ∧
      t.core o.core = { c with bstore := (t.core o.core).bstore } ∧ (∀ n, n ≠ o.core → t.core n = s.core n)) ∧
    (o.dk = 4 →
      let n := dw o.packet 3
      let k := Store.get CBuf.unset x.regs.cb n
      (k.free = 0 → exec (.copyRow o.id) s =
        .next (s.setOp { o with notBefore := s.cycle + 1, slotFree := s.cycle + 1 })) ∧
      (0 < k.free → s.bufferBusy o = false → k.base + k.wrNext * k.size + o.bytes ≤ x.window →
        x.clearing s.cycle = false → Store.wf CBuf.unset x.regs.cb = true →
        ∃ t, exec (.copyRow o.id) s = .next t ∧ cut t (x.poolAddr (k.base + k.wrNext * k.size)) ∧
          Store.get CBuf.unset ((t.core o.core).ctx o.cid).regs.cb n =
            { k with free := k.free - 1, wrNext := (k.wrNext + 1) % k.count } ∧
          (t.core o.core).pool = c.pool ∧ (t.core o.core).late = c.late)) ∧
    (o.dk = 0 → a % 65536 + o.bytes ≤ 65536 → ∀ f, s.mayUse o a f → f.w = true → f.rep = false →
      s.reachable o.die f a o.bytes true = true →
      ∃ t p l, exec (.copyRow o.id) s = .next t ∧ s.opBecomes t o p ∧ o.afterRow p s.cycle o.status [s.nextWrite] ∧
        s.blocksOf l o.die f.kind (f.translate a) bytes (if 3 ≤ o.scope then some (s.clockOf o.die) else none) ∧
        s.sent t l o.die f.kind ∧
        (t.die o.die).sent = (s.die o.die).sent + (if 3 ≤ o.scope then l.length else 0) ∧
        t.hbm = s.hbm ∧ t.host = s.host ∧ t.pod = s.pod ∧ t.cores = s.cores)) ∧
  (∀ (s : State) (o : CopyOp) (p : Nat) (bytes : List Byte), s.opDue o → o.accepted = true → o.kind = 0 →
    o.todo = [(p, bytes)] → o.dk = 1 ∨ o.dk = 4 → o.sk ≠ 3 →
    let c := s.core o.core
    let n := dw o.packet 3
    let status := if o.timed = true ∧ o.deadline o.row < s.cycle then 9 else o.status
    (s.covered o.vstamp = false → exec (.copyRow o.id) s = .next (s.setOp { o with notBefore := s.cycle + 1 })) ∧
    (s.covered o.vstamp = true → c.quiet → Store.wf CBuf.unset (c.ctx o.cid).regs.cb = true →
    ∃ t q, exec (.copyRow o.id) s = .next t ∧ s.opBecomes t o q ∧ o.afterRow q s.cycle status [] ∧ q.stamp = none ∧
      (t.core o.core).late = c.late ++ [⟨20, s.cycle, cellsAt p bytes⟩] ∧ (t.core o.core).pool = c.pool ∧
      (o.stamp = none → (t.core o.core).kpad = c.kpad) ∧
      (∀ k, o.stamp = some k → Store.wf 0 o.vstamp = true → ∀ d, d < 16 → Store.get 0 (t.core o.core).kpad d =
        max (Store.get 0 c.kpad d) (if d = o.die then k.2 else Store.get 0 o.vstamp d)) ∧
      (Store.get CBuf.unset ((t.core o.core).ctx o.cid).regs.cb n).filled =
        (Store.get CBuf.unset (c.ctx o.cid).regs.cb n).filled + (if o.dk = 4 then 1 else 0) ∧
      (∀ j, j ≠ o.core → t.core j = s.core j))) ∧
  (∀ (s : State) (o : CopyOp), s.opDue o → o.accepted = true →
    (o.kind = 1 → (((s.core o.core).ctx o.cid).timeline o.tl).c + 1 < o.num →
      exec (.copyRow o.id) s = .next (s.setOp { o with notBefore := s.cycle + 1 })) ∧
    (o.kind = 0 ∨ o.kind = 2 → o.sk ≠ 3 → o.dk ≠ 3 → o.todo = [] → o.rowIds ≠ [] →
      ((∃ id ∈ o.rowIds, s.visibleAt o.scope o.die id = false) →
        exec (.copyRow o.id) s = .next (s.setOp { o with notBefore := s.cycle + 1 })) ∧
      ((∀ id ∈ o.rowIds, s.visibleAt o.scope o.die id = true) →
        ∃ t p, exec (.copyRow o.id) s = .next t ∧ s.opBecomes t o p ∧ o.afterRow p s.cycle
          (if o.timed = true ∧ o.deadline o.row < s.cycle then 9 else o.status) [] ∧ p.rowIds = [] ∧ s.noMemory t)) ∧
    (o.kind = 2 → o.dk ≠ 3 → o.todo = [] → o.rowIds = [] →
      o.listEntry (((s.core o.core).ctx o.cid).poolAddr (dw o.packet 7)) o.row = 0xFFFFFFFF →
      ∃ t p, exec (.copyRow o.id) s = .next t ∧ s.opBecomes t o p ∧ o.afterRow p s.cycle o.status [] ∧ s.noMemory t)) ∧
  (∀ (s : State) (o : CopyOp) (need : WalkNeed), s.op o.id = some o → o.stage = .walk need →
    let eng := engineOf o.core
    let w := s.walk o.die eng need.asid need.va
    let d := s.die o.die
    (s.walkDue o = false → exec (.pageWalk o.id) s = .next s) ∧
    (s.covered (s.clockOf o.die) = true → (∃ k ∈ d.walkers, k.eng = eng ∧ k.asid = need.asid ∧ k.unit = need.va / 65536 ∧
        k.due ≤ s.cycle) → s.walkDue o = true) ∧
    (s.walkDue o = true → (∀ k ∈ s.ops, k.shares o.die eng need w = true → k = o) →
      (∀ l level, w = .leaf l level → (if need.write then l.w else l.r) = true →
        let base := need.va / 2 ^ l.bits * 2 ^ l.bits
        let mine (e : TlbEntry) : Bool := decide (e.eng = eng)
        let met (e : TlbEntry) : Prop :=
          e.eng = eng ∧ e.asid = need.asid ∧ e.va < base + 2 ^ l.bits ∧ base < e.va + 2 ^ e.leaf.bits
        ∃ t, exec (.pageWalk o.id) s = .next t ∧
          s.opBecomes t o { o with stage := if o.kind = 3 ∧ o.accepted = true then .waiting else .ready } ∧ s.noMemory t ∧
          (∀ e, e ∈ (t.die o.die).tlbs → e = ⟨eng, need.asid, base, l⟩ ∨ (e ∈ d.tlbs ∧ ¬ met e)) ∧
          ⟨eng, need.asid, base, l⟩ ∈ (t.die o.die).tlbs ∧
          ((d.tlbs.filter mine).length < 4096 → ∀ e ∈ d.tlbs, ¬ met e → e ∈ (t.die o.die).tlbs) ∧
          ((d.tlbs.filter mine).length ≤ 4096 → ((t.die o.die).tlbs.filter mine).length ≤ 4096) ∧
          ∀ k, k ≠ o.die → t.die k = s.die k) ∧
      (∀ level cause, (w = .bad level cause ∨
          ∃ l, w = .leaf l level ∧ (if need.write then l.w else l.r) = false ∧ cause = 1) →
        (o.timed = false → (∃ tag, tag < 64 ∧ ∀ e ∈ d.tags, e.1 ≠ tag) → d.faults.length < 64 → need.asid < 4096 →
          o.tl < 32 → o.core < 512 → cause < 4 → level < 4 →
          ∃ t tag r, exec (.pageWalk o.id) s = .next t ∧ tag < 64 ∧ (∀ e ∈ d.tags, e.1 ≠ tag) ∧
            s.opBecomes t o { o with stage := .faulted (some tag) need level cause } ∧
            (t.die o.die).faults = d.faults ++ [r] ∧ (t.die o.die).tags = d.tags ++ [(tag, o.id)] ∧
            r.flt0.toNat = need.va / 65536 % 2 ^ 32 ∧ field r.flt1.toNat 10 12 = need.asid ∧ field r.flt1.toNat 8 2 = level ∧
            r.flt1.getLsbD 7 = false ∧ r.flt1.getLsbD 6 = need.write ∧ field r.flt1.toNat 4 2 = cause ∧
            field r.flt1.toNat 0 4 = field need.va 48 4 ∧ field r.flt2.toNat 16 6 = tag ∧
            field r.flt2.toNat 14 2 = o.core % 32 / 8 ∧ field r.flt2.toNat 9 5 = o.tl ∧
            field r.flt2.toNat 0 9 = o.core ∧ r.flt3.toNat = o.num % 2 ^ 32 ∧ s.noMemory t) ∧
        (o.timed = false → 64 ≤ d.faults.length ∨ (∀ tag, tag < 64 → ∃ e ∈ d.tags, e.1 = tag) →
          ∃ t, exec (.pageWalk o.id) s = .next t ∧
            s.opBecomes t o { o with stage := .faulted none need level cause } ∧ (t.die o.die).faults = d.faults ∧
            (t.die o.die).tags = d.tags ∧ s.noMemory t) ∧
        (o.timed = true → ∃ t p, exec (.pageWalk o.id) s = .next t ∧ s.opBecomes t o p ∧ p.stage = .landing ∧
          p.status = 8 ∧ (t.die o.die).tags = d.tags ∧
          (t.die o.die).tlost = (d.tlost || decide (64 ≤ d.faults.length)) ∧ s.noMemory t))) ∧
    (∀ k l level, s.walkDue o = true → (∀ j ∈ s.ops, j.shares o.die eng need w = true → j = o ∨ j = k) → s.op k.id = some k →
      k.id ≠ o.id → k.stage = .walk need → k.kind ≤ 2 → o.kind ≤ 2 → k.die = o.die → engineOf k.core = eng →
      w = .leaf l level → (if need.write then l.w else l.r) = true →
      ∃ t, exec (.pageWalk o.id) s = .next t ∧ t.op o.id = some { o with stage := .ready } ∧
        t.op k.id = some { k with stage := .ready })) ∧
  (∀ (s : State) (o : CopyOp), s.op o.id = some o → o.stage = .landing → o.kind ≤ 4 → o.core < 512 →
    ((∃ id ∈ o.unseen, s.visibleAt o.scope o.die id = false) → exec (.copyComplete o.id) s = .next s) ∧
    ((∀ id ∈ o.unseen, s.visibleAt o.scope o.die id = true) → s.dist.mailboxes = [] →
      let c := s.core o.core
      let x := c.ctx o.cid
      c.quiet →
      ∃ t, exec (.copyComplete o.id) s = .next t ∧ t.op o.id = none ∧ (∀ id, id ≠ o.id → t.op id = s.op id) ∧
        (t.core o.core).late = c.late ++
          [⟨21, s.cycle, cellsAt (x.poolAddr (o.addr + 60)) (toBytes (BitVec.ofNat 32 o.status).toNat 4)⟩] ∧
        ((t.core o.core).ctx o.cid).comps = x.comps ++ [⟨o.tl, o.num, s.cycle⟩] ∧
        ((t.core o.core).ctx o.cid).clocks = x.clocks ++ [(o.tl, o.num, o.kv)] ∧
        ((t.core o.core).ctx o.cid).regs = x.regs ∧ (t.core o.core).pool = c.pool ∧
        (∀ e, e ∈ (t.die o.die).open_ ↔ e ∈ (s.die o.die).open_ ∧ e.2 ∉ o.unseen) ∧
        (∀ n, n ≠ o.core → t.core n = s.core n) ∧ t.hbm = s.hbm ∧ t.host = s.host ∧
        (o.launch = none ∨ (∀ id ∈ o.unseen, s.visible id = true) → t.dist = s.dist) ∧
        ∀ n l, o.launch = some n → s.launch n = some l → ∃ m, t.launch n = some { l with writes := l.writes ++ m } ∧
          ∀ id, id ∈ m ↔ id ∈ o.unseen ∧ s.visible id = false))

/-- Writes on their way and the clocks (R310, R313 to R316, R321, R325, R344). A home applies a write once its time has come
and the published frontiers cover its clock; until then nothing changes. Applying it writes its bytes, raises K of the home,
and forwards it to every other buffer that holds the line; a buffer applies what was forwarded in the order of the line. A
write that a link brings is stamped and numbered at the receiving die; a message that one brings waits at its mailbox. While
a timed row is due within 64 cycles no free time delays a write (R337). Rows of one die to another package arrive in order
(R344). A published frontier is the highest number below which every write of the die is visible. A replicated write locks
its block in every copy, after the reads that wait there, and then writes all of them, and the reads that wait go on.
Arrival times are free (log 2); the model's choice (log 61): the unlock of a replicated write comes at most 800 cycles after
its lock. -/
def Obligations.WritesAndClocks : Prop :=
  (∀ (s : State) (die : Nat) (pre rest : List Stamped) (w : Stamped), die < 16 →
    (s.die die).incoming = pre ++ w :: rest →
    (∀ b ∈ pre, (s.cycle < b.due ∧ s.urgent = false) ∨ s.covered b.clock = false) → w.due ≤ s.cycle ∨ s.urgent = true →
    s.covered w.clock = true → Store.wf 0 (s.die die).kHome = true → Store.wf 0 (s.die die).kFar = true →
    Store.wf 0 w.clock = true → w.src < 16 →
    let raised (j k : Store Nat) : Prop := (w.num = 0 → k = j) ∧ (w.num ≠ 0 → ∀ n, n < 16 → Store.get 0 k n =
      max (Store.get 0 j n) (if n = w.src then w.num else Store.get 0 w.clock n))
    (w.home = true → w.space = 0 → s.dist.traces = [] → s.hbm.wf = true →
      ∃ t, exec (.stampedWriteApply die) s = .next t ∧ bytesWritten s.hbm t.hbm w.addr w.bytes ∧
        raised (s.die die).kHome (t.die die).kHome ∧
        (t.die die).incoming = pre ++ rest ∧
        (∀ j, j < 16 → j ≠ die →
          ((∃ l ∈ (s.die j).far, l.1 = w.addr / 512) → ∃ due, s.cycle < due ∧
            (t.die j).incoming = (s.die j).incoming ++ [{ w with home := false, due := due }]) ∧
          ((∀ l ∈ (s.die j).far, l.1 ≠ w.addr / 512) → t.die j = s.die j)) ∧
        t.cores = s.cores ∧ t.host = s.host ∧ t.pod = s.pod ∧ t.ops = s.ops ∧ t.dist = s.dist) ∧
    (w.home = true → w.space = 1 → s.host.wf = true →
      ∃ t, exec (.stampedWriteApply die) s = .next t ∧ bytesWritten s.host t.host w.addr w.bytes ∧ t.hbm = s.hbm ∧
        t.pod = s.pod ∧ t.die die = { s.die die with incoming := pre ++ rest } ∧ t.cores = s.cores) ∧
    (w.space = 2 → rest = [] → (∃ b ∈ pre, b.space = 2 ∧ b.src = w.src ∧ b.addr / 2 ^ 40 = w.addr / 2 ^ 40) →
      exec (.stampedWriteApply die) s = .next s) ∧
    (w.home = true → w.space = 2 → (∀ b ∈ pre, b.space = 2 → b.src = w.src → b.addr / 2 ^ 40 ≠ w.addr / 2 ^ 40) →
      s.pod.wf = true →
      ∃ t, exec (.stampedWriteApply die) s = .next t ∧ bytesWritten s.pod t.pod w.addr w.bytes ∧ t.hbm = s.hbm ∧
        t.host = s.host ∧ t.die die = { s.die die with incoming := pre ++ rest } ∧ t.cores = s.cores) ∧
    (w.home = false → w.space = 0 → (∀ b ∈ pre, b.home = true ∨ b.addr / 512 ≠ w.addr / 512) → w.addr % 512 + w.bytes.length ≤ 512 →
      ∃ t, exec (.stampedWriteApply die) s = .next t ∧ s.onlyDie t die ∧ (t.die die).incoming = pre ++ rest ∧
        raised (s.die die).kFar (t.die die).kFar ∧
        ((t.die die).far.map fun l => l.1) = ((s.die die).far.map fun l => l.1) ∧
        (∀ b, homeDie b ≠ die → (∀ l ∈ (s.die die).far, l.2.length = 512) → (∃ l ∈ (s.die die).far, l.1 = b / 512) →
          t.deviceByte die b = if w.addr ≤ b ∧ b < w.addr + w.bytes.length then nth0 w.bytes (b - w.addr)
            else s.deviceByte die b))) ∧
  (∀ (s : State) (die : Nat), die < 16 →
    (∀ w ∈ (s.die die).incoming, (s.cycle < w.due ∧ s.urgent = false) ∨ s.covered w.clock = false) →
    exec (.stampedWriteApply die) s = .next s) ∧
  (∀ (s : State) (die addr : Nat) (bytes : List Byte), die < 16 → bytes ≠ [] → addr + bytes.length ≤ 2 ^ 40 →
    ∃ t l, exec (.linkIngressWrite die (.memory addr) bytes) s = .next t ∧ s.blocksOf l die 0 addr bytes (some (s.clockOf die)) ∧
      s.sent t l die 0 ∧
      (t.die die).sent = (s.die die).sent + l.length ∧ t.nextWrite = s.nextWrite + 1 ∧ t.hbm = s.hbm ∧
      t.cores = s.cores ∧ t.host = s.host ∧ t.pod = s.pod ∧ t.ops = s.ops ∧ t.dist = s.dist) ∧
  (∀ (s : State) (die addr : Nat) (bytes : List Byte), die < 16 → addr + bytes.length ≤ 2 ^ 40 →
    (s.mailboxBehind addr = none → exec (.linkIngressWrite die (.mailbox addr) bytes) s = .next s) ∧
    (∀ n m, s.mailboxBehind addr = some n → Store.get none s.dist.mailboxes n = some m →
      ∃ t m', exec (.linkIngressWrite die (.mailbox addr) bytes) s = .next t ∧ s.noMemory t ∧ t.dies = s.dies ∧ t.ops = s.ops ∧
        Store.get none t.dist.mailboxes n = some m' ∧ (∀ k ∈ m.waiting, k ∈ m'.waiting) ∧
        m'.waiting.length = m.waiting.length + 1 ∧
        ∃ k ∈ m'.waiting, k.op = none ∧ k.die = die ∧ k.clock = s.clockOf die ∧
          k.sender = ofBytes (bytes.take 4) / 65536 % 512 ∧ ((nth0 k.words 0).toNat = ofBytes (bytes.take 4) % 16) ∧
          ∀ j, j < 12 → (nth0 k.words (j + 1)).toNat = ofBytes ((bytes.drop (4 * j + 4)).take 4))) ∧
  (∀ (s : State) (die : Nat), die < 16 → (∀ e ∈ (s.die die).unseen, 1 ≤ e.1) →
    let d := s.die die
    ∃ t, exec (.frontierPublish die) s = .next t ∧ s.onlyDie t die ∧ (t.die die).af ≤ d.sent ∧
      (∀ e ∈ d.unseen, s.visible e.2 = false → (t.die die).af < e.1) ∧
      (∀ m, m ≤ d.sent → (∀ e ∈ d.unseen, s.visible e.2 = false → m < e.1) → m ≤ (t.die die).af) ∧
      (∀ e, e ∈ (t.die die).unseen ↔ e ∈ d.unseen ∧ s.visible e.2 = false) ∧
      t.die die = { d with af := (t.die die).af, unseen := (t.die die).unseen }) ∧
  (∀ (s : State) (pre rest : List RepWrite) (w : RepWrite), s.reps = pre ++ w :: rest → (∀ v ∈ pre, v.id ≠ w.id) →
    w.due ≤ s.cycle ∨ s.urgent = true →
    (w.locked = false → (∀ v ∈ s.reps, v.locked = true → v.addr / 64 ≠ w.addr / 64) →
      (∀ o ∈ s.ops, w.awaited o = false) → s.hostAwaits w = false → s.covered w.clock = true →
      ∃ t due, exec (.replicatedWrite w.id) s = .next t ∧ s.cycle < due ∧ due ≤ s.cycle + 800 ∧
        t.reps = pre ++ { w with locked := true, due := due } :: rest ∧ t.hbm = s.hbm ∧ t.dies = s.dies ∧
        t.cores = s.cores ∧ t.host = s.host) ∧
    (w.locked = false → (∀ v ∈ rest, v.id ≠ w.id) →
      (∃ v ∈ s.reps, v.locked = true ∧ v.addr / 64 = w.addr / 64) ∨ (∃ o ∈ s.ops, w.awaited o = true) ∨
        s.hostAwaits w = true ∨ s.covered w.clock = false →
      exec (.replicatedWrite w.id) s = .next s) ∧
    (w.locked = true → s.dist.traces = [] → s.hbm.wf = true → w.addr % 2 ^ 36 + w.bytes.length ≤ 2 ^ 36 →
      let a (k j : Nat) : Nat := 2 ^ 36 * k + w.addr % 2 ^ 36 + j
      ∃ t, exec (.replicatedWrite w.id) s = .next t ∧ t.reps = pre ++ rest ∧
        (∀ k ∈ w.copies, ∀ j, j < w.bytes.length → Memory.read t.hbm (a k j) = nth0 w.bytes j) ∧
        (∀ b, (∀ k ∈ w.copies, ∀ j, j < w.bytes.length → b ≠ a k j) → Memory.read t.hbm b = Memory.read s.hbm b) ∧
        (∀ k, k ≠ homeDie w.addr → t.die k = s.die k) ∧
        t.die (homeDie w.addr) = { s.die (homeDie w.addr) with kHome := (t.die (homeDie w.addr)).kHome } ∧
        t.ops = (s.ops.map fun o => if w.awaited o then { o with notBefore := s.cycle } else o) ∧ t.cores = s.cores ∧ t.host = s.host))

/-! ## Launches and traces -/

/-- Launches, traces and relaunches (R116, R144, R145, R284, R288, R294, R302, R351, R353, R361, R363, R366, R368). A launch
completes with the STATUS of the first check it fails; otherwise it takes a launch number, opens its queues, and its blocks'
records enter the queue of its priority, each with its PRED on its counter. It completes when every block has retired or
been killed, no record of it can still run and its writes are visible; its queues then close. A trace is created or
released, or ends with a STATUS; a relaunch runs the smallest set of blocks that obeys R363, and leaves the stale set of
R366. The tile's address is written as a stamped write that no filter sees. The model's choices: a launch that passes its
checks waits for a number and for places (log 42), or for its trace (log 57); before bring-up is done a launch ends with a
STATUS that is free (log 117); where an image ends is known only to who put it there (log 58); and what the status of a bad
header field or partition word is (log 123). -/
def Obligations.Launches : Prop :=
  (∀ (s : State) (o : CopyOp), s.op o.id = some o → s.launchReady o = true → o.core < 512 → o.unseen = [] →
    (s.core o.core).quiet → (s.die 0).stage ≠ 6 →
    ∃ t status, exec (.launchAccept o.id) s = .next t ∧ status ≠ 0 ∧ status < 2 ^ 32 ∧ s.opFinished t o [] status ∧
      t.dist = { s.dist with waiting := s.dist.waiting.filter fun k => decide (k ≠ o.id) } ∧ t.hbm = s.hbm) ∧
  (∀ (s : State) (o : CopyOp) (status : Nat), s.op o.id = some o → s.launchReady o = true → o.core < 512 → o.unseen = [] →
    (s.core o.core).quiet → (s.die 0).stage = 6 →
    (((s.launchChecks o.packet o.asid (decide (o.kind = 6))).find? fun e => e.1).map fun e => e.2) = some status →
    ∃ t, exec (.launchAccept o.id) s = .next t ∧ s.opFinished t o [] status ∧
      t.dist = { s.dist with waiting := s.dist.waiting.filter fun k => decide (k ≠ o.id) } ∧
      (t.die 0).log.length = (s.die 0).log.length + (if status = 3 then 1 else 0) ∧ t.hbm = s.hbm ∧ t.host = s.host) ∧
  (∀ (s : State) (o : CopyOp) (tile head : List Byte) (tb : List (Nat × Nat × Nat)) (leaf : Leaf),
    s.op o.id = some o → s.launchReady o = true → o.kind = 5 → (s.die 0).stage = 6 →
    let d := o.packet
    let param := dw d 2 + 2 ^ 32 * dw d 3
    let prio := field (dw d 5) 0 2
    dw d 6 = 0 → ((s.launchChecks d o.asid false).find? fun e => e.1) = none →
    s.readRange o.asid param 16384 = some tile → s.readRange o.asid (dw d 0 + 2 ^ 32 * dw d 1) 64 = some head →
    blockTable d tile = some tb → s.translateNow 0 o.asid param false = some leaf → leaf.kind = 0 → leaf.rep = false →
    leaf.translate param % 64 = 0 →
    ∃ t l num r, exec (.launchAccept o.id) s = .next t ∧ num < 4096 ∧ (∀ k ∈ s.dist.launches, k.num ≠ num) ∧
      t.dist.launches = s.dist.launches ++ [l] ∧ l.num = num ∧ l.op = o.id ∧ l.blocks = dw d 4 + 1 ∧ l.killed = false ∧
      l.left = List.range (dw d 4 + 1) ∧ l.placed = 0 ∧ l.relaunch = false ∧ l.asid = o.asid ∧
      (∀ b, b < dw d 4 + 1 → Store.get 0 l.deps b = ((tb.getD b (0, 0, 0)).1 : Int)) ∧
      (t.queue prio).recs = (s.queue prio).recs ++ r ∧
      (r.map fun k => (k.blk, k.launch, k.entry, k.release, k.ready)) =
        (List.range (dw d 4 + 1)).map (fun b => (b, num, ofBytes ((head.drop 12).take 4), dw d 13, false)) ∧
      (∀ q, field (dw d 11) 0 8 ≤ q → q < field (dw d 11) 0 8 + field (dw d 11) 8 8 →
        (t.queue q).launch = some num ∧ (t.queue q).recs = []) ∧
      (∃ w ∈ (t.die (homeDie (leaf.translate param))).incoming, w.home = true ∧ w.space = 0 ∧ w.src = 0 ∧
        w.num = (s.die 0).sent + 1 ∧ w.clock = s.clockOf 0 ∧ w.addr = leaf.translate param ∧ w.bytes = toBytes param 8 ∧
        w.watched = false ∧ s.cycle < w.due) ∧ ((s.die 0).pool = none → t.hbm = s.hbm) ∧
      s.opBecomes t o { o with stage := .landing } ∧ t.cores = s.cores ∧ t.host = s.host ∧ t.pod = s.pod) ∧
  (∀ (s : State) (id : Nat), (∀ o, s.op id = some o → s.launchReady o = false) → exec (.launchAccept id) s = .next s) ∧
  (∀ (s : State) (o : CopyOp) (l : Launch), s.launch l.num = some l → s.op l.op = some o → o.core < 512 → o.unseen = [] →
    l.relaunch = false → s.dist.mailboxes = [] →
    let done := l.left = [] ∧ l.placed = 0 ∧ s.stillWrites l = false ∧ (∀ id ∈ l.writes, s.visible id = true) ∧
      ∀ q, (s.queue q).launch = some l.num → (s.queue q).wired = false → ∀ r ∈ (s.queue q).recs,
        r.ready = false ∧ Store.get 0 l.deps r.blk ≠ 0
    (done → (s.core o.core).quiet → Store.wf Queue.reset s.dist.queues = true →
      ∃ t, exec (.launchComplete l.num) s = .next t ∧ s.opFinished t o [] (if l.killed then 12 else 0) ∧
      (∀ k, k ∈ t.dist.launches ↔ k ∈ s.dist.launches ∧ k.num ≠ l.num) ∧
      (∀ q, (s.queue q).launch = some l.num → (t.queue q).launch = none ∧ (t.queue q).recs = []) ∧
      (∀ q, (s.queue q).launch ≠ some l.num → t.queue q = s.queue q) ∧ t.hbm = s.hbm ∧ t.host = s.host) ∧
    (Store.wf Queue.reset s.dist.queues = true → ¬ done → exec (.launchComplete l.num) s = .next s)) ∧
  (∀ (s : State) (o : CopyOp), s.op o.id = some o → o.kind = 7 → o.notBefore ≤ s.cycle → o.stage = .ready → o.core < 512 →
    o.unseen = [] → (s.core o.core).quiet →
    let d := o.packet
    let h := dw d 14
    let total := ((traceWindows d).map fun w => w.2).sum
    let watch := s.watchWindows o.asid 0 (traceWindows d)
    let writable := s.ownWritable o.asid (traceOwn (traceBmap d) total)
    let full := ∀ k, k < 64 → ∃ t ∈ s.dist.traces, t.slot = k
    (h ≠ 0 → (∃ l ∈ s.dist.launches, l.trace = h) → exec (.traceComplete o.id) s = .next s) ∧
    (h = 0 → ∀ status, (traceOk d = false ∧ status = 2) ∨
        (traceOk d = true ∧ (full ∨ s.dist.trsbase = 0 ∨ o.accepted = false) ∧ status = 3) ∨
        (traceOk d = true ∧ ¬ full ∧ s.dist.trsbase ≠ 0 ∧ o.accepted = true ∧ (watch = none ∨ writable = false) ∧ status = 1) →
      ∃ t, exec (.traceComplete o.id) s = .next t ∧ s.opFinished t o [] status ∧ t.dist.traces = s.dist.traces) ∧
    (h = 0 → traceOk d = true → ¬ full → s.dist.trsbase ≠ 0 → o.accepted = true → ∀ w, watch = some w → writable = true →
      0 < s.dist.traceGen → s.dist.traceGen < 2 ^ 26 →
      ∃ t tr pre, exec (.traceComplete o.id) s = .next t ∧ t.dist.traces = pre ++ [tr] ∧
        (pre.map fun k => k.handle) = (s.dist.traces.map fun k => k.handle) ∧ tr.slot < 64 ∧
        (∀ k ∈ s.dist.traces, k.slot ≠ tr.slot) ∧ tr.handle / 64 ≠ 0 ∧ tr.asid = o.asid ∧ tr.windows = traceWindows d ∧
        tr.watch = w ∧ tr.recorded = none ∧ tr.recs = [] ∧ tr.stale = [] ∧
        s.opFinished t o (cellsAt (((s.core o.core).ctx o.cid).poolAddr (o.addr + 56))
          (toBytes (BitVec.ofNat 32 tr.handle).toNat 4)) 0) ∧
    (h ≠ 0 → (∀ l ∈ s.dist.launches, l.trace ≠ h) →
      ((∀ k, k < 14 → dw d k = 0) → ∀ tr, s.trace h = some tr → tr.asid = o.asid →
        ∃ t, exec (.traceComplete o.id) s = .next t ∧ s.opFinished t o [] 0 ∧
          ∀ k, k ∈ t.dist.traces ↔ k ∈ s.dist.traces ∧ k.handle ≠ h) ∧
      ((∃ k, k < 14 ∧ dw d k ≠ 0) ∨ s.trace h = none ∨ (∃ tr, s.trace h = some tr ∧ tr.asid ≠ o.asid) →
        ∃ t, exec (.traceComplete o.id) s = .next t ∧ s.opFinished t o [] 4 ∧ t.dist.traces = s.dist.traces))) ∧
  (∀ (s : State) (l : Launch) (tr : Trace) (map : List Byte) (leaf : Leaf), s.launch l.num = some l → l.relaunch = true →
    l.chosen = none → s.forwarding = false → s.trace l.trace = some tr → s.bitmap tr = some map →
    s.translateNow 0 tr.asid tr.bmap true = some leaf → leaf.kind = 0 → leaf.rep = false → tr.bmap % 65536 + tr.bitmapBytes ≤ 65536 →
    l.prepared.map (fun r => r.blk) = List.range l.blocks →
    ∃ t k u set, exec (.relaunchRun l.num) s = .next t ∧ t.launch l.num = some k ∧ k.chosen = some set ∧ k.left = set ∧
      l.closed tr map (fun b => b ∈ set) ∧ (∀ b ∈ set, b < l.blocks) ∧
      (∀ p : Nat → Prop, l.closed tr map p → ∀ b ∈ set, p b) ∧
      ((t.queue l.prio).recs.map fun r => r.blk) =
        ((s.queue l.prio).recs.map fun r => r.blk) ++ (List.range l.blocks).filter (fun b => set.contains b) ∧
      t.trace l.trace = some u ∧ (∀ b, u.record b = if set.contains b then TraceRec.empty b else tr.record b) ∧
      t.cores = s.cores ∧ t.host = s.host ∧ t.pod = s.pod) ∧
  (∀ (s : State) (o : CopyOp) (l : Launch) (tr : Trace), s.launch l.num = some l → s.op l.op = some o → o.core < 512 →
    o.unseen = [] → (s.core o.core).quiet → l.relaunch = true → s.launchDone l = true → s.trace l.trace = some tr → s.dist.mailboxes = [] →
    ∃ t u, exec (.relaunchComplete l.num) s = .next t ∧ s.opFinished t o [] (if l.killed then 12 else 0) ∧
      (∀ k, k ∈ t.dist.launches ↔ k ∈ s.dist.launches ∧ k.num ≠ l.num) ∧ t.trace l.trace = some u ∧ u.recs = tr.recs ∧
      ∀ x, (∃ e ∈ u.stale, e.1 ≤ x ∧ x < e.1 + e.2.1) ↔
        ((∃ e ∈ tr.stale, e.1 ≤ x ∧ x < e.1 + e.2.1) ∨
          ∃ w ∈ l.oldW, inRuns w.2.2 x ∧ ¬ inRuns (tr.record w.1).writes x) ∧
        ¬ ∃ r ∈ tr.recs, r.valid = true ∧ inRuns r.writes x)

/-! ## The distributor and the mailboxes -/

/-- The distributor (R281, R283, R285 to R288, R290, R291, R293, R304, R341). Of the ready heads the one of the lowest
level, and at that level the first after the last-served queue, is placed on the lowest allowed core that is free; where
none fits it stays chosen. A report says which cores are not free. TICK advances, or is held with a slip event while a late
record remains. A breach of RUNMAX is logged and promotes the head that waits. A lent slot's record moves to its entry,
beginning in the cycle that finds it free, and moves end in order. A mailbox is registered under its conditions; an accepted
message is written to its ring slot as a stamped write and starts its handler, or raises the host's vector once it is
visible. When a move ends is free (log 2); one placement in a cycle is R290's own; the model's choices: a registration of a
slot in use is refused (log 73) and a message whose ring cannot be written waits (log 116). -/
def Obligations.Distribution : Prop :=
  (∀ (s : State) (q c : Nat) (r : Record) (rest : List Record) (l : Launch) (lvl : Nat), q < 256 → c < 512 →
    Store.wf Queue.reset s.dist.queues = true → Store.wf 0 s.dist.last = true → (∀ e ∈ s.dist.queues, e.1 < 256) →
    s.dist.searched ≤ s.cycle → s.anyNewReady = false → s.dist.promoted = none → s.dist.chosen = [] →
    (s.queue q).wired = false → (s.queue q).recs = r :: rest → r.ready = true → r.group = false →
    (∃ w, ((s.queue q).ring.deliver, w) ∈ (s.queue q).ring.entries) → lvl = s.dist.queueLevel q →
    s.launch r.launch = some l → (q < 4 → l.gang = false) →
    let after (j : Nat) : Nat := (j + 511 - (255 - Store.get 0 s.dist.last lvl)) % 256
    (∀ j k ks, j ≠ q → (s.queue j).wired = false → (s.queue j).recs = k :: ks → k.ready = true →
      lvl < s.dist.queueLevel j ∨ (lvl = s.dist.queueLevel j ∧ after q < after j)) →
    let mayUse (n : Nat) : Prop := n < 512 ∧ (if q < 4 ∧ l.pin ≠ none then l.pin = some (n - r.blk) ∧ r.blk ≤ n
      else bitOf l.dies (n / 32) = true)
    let free (n : Nat) : Prop := ∀ e ∈ s.busyCores, e.1 ≠ n
    (mayUse c → free c → (∀ n, n < c → mayUse n → ¬ free n) → (s.core c).act.task = none →
      ∃ t τ, exec .distributorPlace s = .next t ∧ (t.core c).act.task = some τ ∧ (t.core c).act.phase = .waiting ∧
        τ.launch = l.num ∧ τ.blk = r.blk ∧ τ.entry = r.entry ∧ τ.prio = r.prio ∧ τ.succ = r.succ ∧ τ.gang = none ∧
        (t.core c).act.regs = (s.core c).act.regs ∧ (t.core c).pool = (s.core c).pool ∧
        (∀ n, n ≠ c → t.core n = s.core n) ∧ (t.queue q).recs = rest ∧ Store.get 0 t.dist.last lvl = 255 - q ∧
        (∃ v, (c, v) ∈ (t.die (c / 32)).reported) ∧ (l.relaunch = false → t.hbm = s.hbm) ∧ t.host = s.host) ∧
    ((∀ n, mayUse n → fitsCore s.busyCores l.image.partition.toNat n = none) →
      (∀ j k ks, j ≠ q → (s.queue j).wired = false → (s.queue j).recs = k :: ks → k.ready = false) →
      ∃ t, exec .distributorPlace s = .next t ∧ Store.get 0 t.dist.chosen lvl = q + 1 ∧ (t.queue q).recs = r :: rest ∧
        t.cores = s.cores ∧ t.hbm = s.hbm)) ∧
  (∀ (s : State) (r : Record) (l : Launch), s.launch r.launch = some l → s.dist.tick < 2 ^ 64 → r.release < 2 ^ 32 →
    (s.recordReady r = true ↔ r.ready = true ∨ (Store.get 0 l.deps r.blk = 0 ∧
      (r.release = 0 ∨ (s.dist.tick + 2 ^ 32 - r.release) % 2 ^ 32 < 2 ^ 31)))) ∧
  (∀ (s : State),
    (s.cycle < s.dist.reportAt → exec .dieReport s = .next s) ∧
    (s.dist.reportAt ≤ s.cycle → ∃ t, exec .dieReport s = .next t ∧ t.dist.reportAt = (s.cycle / 64 + 1) * 64 ∧
      (∀ c, c < 512 →
        let k := s.core c
        let xb (x : Ctx) : Nat := field (s.partitionOf x).toNat 16 7 + 1
        lookup (t.die (c / 32)).reported c =
          if k.act.task = none then (if k.shadow.task = none then none else some (xb k.shadow))
          else (if k.shadow.task = none then some (xb k.act) else some 0)) ∧
      (∀ d, d < 16 → (t.die d).gangFree =
        8 - (s.dist.gangs.filter fun g => g.2.isSome && decide (g.1 / 8 = d)).length) ∧
      t.cores = s.cores ∧ t.dist.queues = s.dist.queues)) ∧
  (∀ (s : State),
    let d := s.dist
    let late := s.lateRecords
    let ends := d.framelen ≠ 0 ∧ (d.tick + 1) % d.framelen = 0
    (s.cycle < d.nextTick ∨ (d.tickHeld = true ∧ late ≠ []) → exec .tickAdvance s = .next s) ∧
    (d.nextTick ≤ s.cycle → late = [] ∨ (d.tickHeld = false ∧ ¬ ends) → exec .tickAdvance s = .next { s with
      dist := { d with tick := (d.tick + 1) % 2 ^ 64, tickHeld := false, nextTick := s.cycle + d.ticklen } }) ∧
    (d.nextTick ≤ s.cycle → d.tickHeld = false → ends → late ≠ [] → (∀ e ∈ late, e.1 < 4096 ∧ e.2 < 65536) →
      ∃ t e, exec .tickAdvance s = .next t ∧ t.dist.tick = d.tick ∧ t.dist.tickHeld = true ∧
        e.frame = d.tick / d.framelen % 2 ^ 32 ∧ e.late = min late.length 65535 ∧ (e.launch, e.blk) ∈ late ∧
        (∀ f ∈ late, e.launch < f.1 ∨ (e.launch = f.1 ∧ e.blk ≤ f.2)) ∧
        (d.slips.length < 16 → t.dist.slips = d.slips ++ [e] ∧ t.dist.slipOvf = d.slipOvf) ∧
        (16 ≤ d.slips.length → t.dist.slips = d.slips ∧ t.dist.slipOvf = true ∧ 4 ∈ t.setNow) ∧ t.cores = s.cores ∧ t.dies = s.dies) ∧
    (∀ n, d.lateRelease n = true ↔ n ≠ 0 ∧ d.framelen ≠ 0 ∧
      ((n : Int) - (d.tick / d.framelen * d.framelen : Nat)) % 2 ^ 32 < d.framelen)) ∧
  (∀ (s : State) (p : Nat), p ≤ 2 →
    let since := Store.get 0 s.dist.busySince p
    let passed := since ≠ 0 ∧ 2 ^ 32 - 1 - Store.get 0 s.dist.runmax p < s.cycle + 2 - since
    (passed → s.dist.promoted = none → (∃ h ∈ s.heads, p < h.level) →
      ∃ t h, exec (.runmaxBreach p) s = .next t ∧ h ∈ s.heads ∧ p < h.level ∧
        (∀ k ∈ s.heads, p < k.level → h.level ≤ k.level) ∧
        t.dist = { s.dist with promoted := some (h.queue, p) } ∧ (t.die 0).log = (s.die 0).log ++ [⟨2, p, h.queue, 0⟩] ∧
        t.cores = s.cores) ∧
    (¬ passed ∨ s.dist.promoted ≠ none ∨ (∀ h ∈ s.heads, h.level ≤ p) → exec (.runmaxBreach p) s = .next s)) ∧
  (∀ (s : State) (q : Nat), q < 256 →
    let r := (s.queue q).ring
    let taken (o : Nat) : Prop := (∃ e ∈ r.entries, e.1 % 32 = o % 32) ∨ ∃ m ∈ r.moving, m.1 % 32 = o % 32
    let ended (o : Nat) : Prop := ∃ m ∈ r.moving, m.1 = o ∧ m.2 ≤ s.cycle
    let wr := exec (.lentSlotMove q) s
    (∀ pre e post, r.lent = pre ++ e :: post → (∀ f ∈ pre, taken f.1) → ¬ taken e.1 →
      ∃ t due, wr = .next t ∧ s.cycle ≤ due ∧ (t.queue q).ring = { r with moving := r.moving ++ [(e.1, due)] } ∧
        (t.queue q).recs = (s.queue q).recs ∧ t.cores = s.cores ∧ t.dies = s.dies ∧ t.hbm = s.hbm) ∧
    (∀ o w ls, (∀ e ∈ r.lent, taken e.1) → r.lent = (o, w) :: ls → ended o →
      ∃ t, wr = .next t ∧ (o, w) ∈ (t.queue q).ring.entries ∧ (t.queue q).ring.lent = ls ∧
        (∀ e ∈ r.entries, e ∈ (t.queue q).ring.entries) ∧
        (∀ m, m ∈ (t.queue q).ring.moving ↔ m ∈ r.moving ∧ m.1 ≠ o) ∧ (t.queue q).recs = (s.queue q).recs ∧
        t.cores = s.cores ∧ t.hbm = s.hbm) ∧
    ((∀ e ∈ r.lent, taken e.1) → (∀ o w ls, r.lent = (o, w) :: ls → ¬ ended o) →
      (r.waiting = [] ∨ r.canEnter 32 (s.die 0).lend = false → wr = .next s) ∧
      (∀ w ws, r.waiting = w :: ws → r.canEnter 32 (s.die 0).lend = true → ∃ t, wr = .next t ∧
        ((r.next, w) ∈ (t.queue q).ring.entries ∨ (r.next, w) ∈ (t.queue q).ring.lent) ∧
        (∃ pre, r.waiting = pre ++ (t.queue q).ring.waiting ∧ pre ≠ []) ∧ t.cores = s.cores))) ∧
  (∀ (s : State) (slot va queue n ring asid : Nat) (handler : List Word),
    (1024 ≤ slot → exec (.mailboxRegister slot va queue n ring asid handler) s = .fault (.absent slot)) ∧
    (slot < 1024 → queue < 256 →
      let good := va % 64 = 0 ∧ va < 2 ^ 52 ∧ n ≤ 12 ∧ ring < 2 ^ 52 ∧ handler.length = 8 ∧
        Store.get none s.dist.mailboxes slot = none ∧ (s.queue queue).wired = false ∧
        ∃ k l, (s.queue queue).launch = some k ∧ s.launch k = some l ∧ l.recordOk (s.dist.queueLevel queue) handler = true
      (good → ∃ t m, exec (.mailboxRegister slot va queue n ring asid handler) s = .next t ∧
        Store.get none t.dist.mailboxes slot = some m ∧ m.va = va ∧ m.queue = queue ∧ m.n = n ∧ m.ring = ring ∧
        m.asid = asid % 4096 ∧ m.handler = handler ∧ m.next = 0 ∧ m.busy = [] ∧ m.waiting = [] ∧
        (∀ j, j ≠ slot → Store.get none t.dist.mailboxes j = Store.get none s.dist.mailboxes j) ∧
        s.noMemory t ∧ t.dies = s.dies) ∧
      (¬ good → exec (.mailboxRegister slot va queue n ring asid handler) s = .next s))) ∧
  (∀ (s : State) (slot id : Nat), slot < 1024 → (slot, id) ∈ s.ringing → (∀ e ∈ s.ringing, e.1 = slot → e.2 = id) →
    s.visible id = true → exec (.mailboxAccept slot) s =
      .next { s with ringing := s.ringing.erase (slot, id), msix := s.msix ++ [slot % 64] }) ∧
  (∀ (s : State) (slot : Nat) (m : Mailbox) (w : Message) (rest : List Message), slot < 1024 →
    (∀ e ∈ s.ringing, e.1 = slot → s.visible e.2 = false) → Store.get none s.dist.mailboxes slot = some m →
    m.waiting = w :: rest →
    let va := m.ring + 64 * (m.next % 2 ^ m.n)
    let wr := exec (.mailboxAccept slot) s
    let place := m.next % 2 ^ m.n ∉ m.busy ∧ (m.host = true ∨ s.queueOpen m.queue = true)
    let accepted (t : State) (leaf : Leaf) : Prop :=
      (∃ b l, w.written b ∧ s.blocksOf l w.die leaf.kind (leaf.translate va) b (some (mergeMax (s.clockOf w.die) w.clock)) ∧
        s.sent t l w.die leaf.kind) ∧
      Store.get none t.dist.mailboxes slot =
        some { m with waiting := rest, busy := m.busy ++ [m.next % 2 ^ m.n], next := m.next + 1 } ∧
      t.cores = s.cores ∧ t.host = s.host ∧ t.pod = s.pod ∧ t.msix = s.msix ∧
      (m.host = true → t.ringing = s.ringing ++ [(slot, s.nextWrite)] ∧ t.dist.queues = s.dist.queues ∧ t.hbm = s.hbm) ∧
      (m.host = false → t.ringing = s.ringing ∧ ∀ n l, (s.queue m.queue).launch = some n → s.launch n = some l →
        m.handler.length = 8 → ∃ r, (t.queue m.queue).recs = (s.queue m.queue).recs ++ [r] ∧ r.launch = l.num ∧
          r.blk = m.next % 65536 ∧ r.words = m.handler.take 7 ++ [BitVec.ofNat 32 (m.next % 65536)])
    (¬ place → wr = .next s) ∧
    (w.op = none → s.ringLeaf m w = none → wr = .next s) ∧
    (place → w.op = none → ∀ leaf, s.ringLeaf m w = some leaf → leaf.rep = false → w.sender < 65536 →
      ∃ t, wr = .next t ∧ accepted t leaf ∧ t.ops = s.ops) ∧
    (∀ id o, w.op = some id → s.op id = some o → o.stage ≠ .waiting → wr = .next s) ∧
    (∀ id o, place → w.op = some id → s.op id = some o → o.stage = .waiting → o.timed = false →
      ((s.die o.die).tlbEntry (engineOf o.core) m.asid va = none → ∃ t, wr = .next t ∧
        s.opBecomes t o { o with stage := .walk ⟨va, true, m.asid⟩ } ∧ t.dist = s.dist ∧ s.noMemory t ∧
        (t.die o.die).walking (engineOf o.core) m.asid (va / 65536)) ∧
      (∀ leaf, State.mayUse s { o with asid := m.asid } va leaf → leaf.w = true → leaf.rep = false →
        s.reachable o.die leaf va 64 true = true → w.sender < 65536 →
        ∃ t, wr = .next t ∧ accepted t leaf ∧
          s.opBecomes t o { o with stage := .landing, status := 0, unseen := [s.nextWrite] })))

/-! ## Tasks and contexts -/

/-- The life of a task and the two contexts of a core (R41, R125, R135, R137, R228, R237, R239, R240, R242, R257, R285,
R302, R303, R306). At its start the banks of its partition are cleared, the preload is written, every register is at its
start value, the task-start mark is committed, and the first bundle follows after the clear and the preload. A task retires
when it has halted, nothing of it is outstanding and its stores are released; its successors' counters are decremented and
its core is freed. A held task can be killed. A swap exchanges the contexts once the active one has settled, and the
incoming one may issue 48 c later. A context that has waited 512 c parks, or is refused when the table is full, and is asked
for when its condition holds. Firmware saves a context that is out, with its banks, and restores it where there is room.
Which requests wait for a context of a gang, and that a store of the outgoing context does not delay a swap, are the model's
reading (log 68), as are what a refusal to park does (log 70) and how firmware saves a context (log 121). -/
def Obligations.TasksAndContexts : Prop :=
  (∀ (s : State) (core : Nat) (τ : Task) (l : Launch), core < 512 →
    let c := s.core core
    let x := c.act
    x.task = some τ → x.phase = .waiting → s.launch τ.launch = some l → (∀ o ∈ s.ops, o.writesInto core x = false) →
    c.paneIdle x.cid = true → c.pool.wf = true →
    let first := s.cycle + 64 + ceilDiv' l.image.preload.length 256
    let start : Regs := { Regs.reset with pc := τ.entry }
    ∃ t, exec (.taskStart core) s = .next t ∧ (let d := t.core core
      let y := d.act
      y.regs = start ∧ y.marks = [⟨0, s.cycle, true, start⟩] ∧ y.phase = .clearing first ∧ y.nextAt = first ∧
      y.task = some τ ∧ y.partition = l.image.partition ∧ y.code = l.image.code ∧ y.dict = l.image.dict ∧
      y.codeWin = BitVec.ofNat 32 (65536 * l.window) ∧ y.taskBlk = BitVec.ofNat 32 τ.blk ∧ y.bankBase = τ.base ∧
      y.pend = [] ∧ y.gate = [] ∧ y.fstat = [] ∧ y.fmt = [] ∧ y.cstat = 0#32 ∧ y.bcnt = 0#32 ∧ y.tl = [] ∧ y.micro = none ∧
      y.sh0 = none ∧ y.sh1 = none ∧ y.dnan = 0#32 ∧ y.dpend = 0#32 ∧ y.cid = x.cid ∧
      d.trap0 = 0#32 ∧ d.trap1 = 0#32 ∧ d.trapPost = false ∧ d.trapCount = 0 ∧ d.mpc = 0 ∧
      (∀ a, a < 32768 * y.bankBase ∨ 32768 * (64 - y.xb) ≤ a → Memory.read d.pool a = Memory.read c.pool a) ∧
      (∀ a, 32768 * y.bankBase ≤ a → a < 32768 * y.firstBank → a < 32768 * (64 - y.xb) → Memory.read d.pool a = 0#8) ∧
      (∀ a, a < y.window → Memory.read d.pool (y.poolAddr a) = (lookup l.image.preload a).getD 0#8) ∧
      d.shadow = c.shadow ∧ d.bstore = c.bstore ∧ d.facets = c.facets ∧ d.spill = c.spill) ∧ s.onlyCore t core) ∧
  (∀ (s : State) (core u : Nat), core < 512 → (s.core core).act.phase = .clearing u →
    (u ≤ s.cycle → Store.wf Parity.valid (s.core core).parity = true → ∃ t, exec (.taskStart core) s = .next t ∧
      (t.core core).act = { (s.core core).act with phase := .running } ∧ (t.core core).pool = (s.core core).pool ∧
      (∀ g, g < 8 → (s.core core).act.bankBase ≤ 8 * g → 8 * g + 8 ≤ 64 - (s.core core).act.xb →
        Store.get Parity.valid (t.core core).parity g = .valid) ∧ s.onlyCore t core) ∧
    (s.cycle < u → (s.core core).shadow.task = none → (s.core core).shadow.phase = .none →
      exec (.taskStart core) s = .next s)) ∧
  (∀ (s : State) (core : Nat) (τ : Task) (l : Launch), core < 512 →
    let c := s.core core
    let x := c.act
    x.task = some τ → x.phase = .halted → x.held = false → x.trap = none → x.fp = [] → x.pend = [] → x.gate = [] →
    (∀ e ∈ x.tl, e.2.out = []) → c.mx.rep = none → s.launch τ.launch = some l → τ.gang = none → τ.mailbox = none →
    τ.trace = 0 → τ.fromQueue = none → s.dist.barriers = [] → c.swapWanted = none → Store.wf 0 l.deps = true →
    ∃ t k, exec (.taskRetire core) s = .next t ∧ (t.core core).act.task = none ∧ (t.core core).act.phase = .none ∧
      (t.core core).act.regs = x.regs ∧ (t.core core).pool = c.pool ∧ (t.core core).shadow = c.shadow ∧
      t.launch τ.launch = some k ∧ k.killed = l.killed ∧ (∀ b, b ∈ k.left ↔ b ∈ l.left ∧ b ≠ τ.blk) ∧
      (∀ b, Store.get 0 k.deps b = Store.get 0 l.deps b - (τ.succ.count b : Int)) ∧
      t.dist.queues = s.dist.queues ∧ (∀ n, n ≠ core → t.core n = s.core n) ∧ t.hbm = s.hbm ∧ t.host = s.host) ∧
  (∀ (s : State) (core : Nat), core < 512 → (s.core core).act.phase = .running → (s.core core).shadow.task = none →
    (s.core core).shadow.phase = .none → exec (.taskRetire core) s = .next s) ∧
  (∀ (s : State) (core : Nat), core < 512 →
    let c := s.core core
    let x := c.act
    (x.task = none ∨ x.held = false → exec (.taskKill core) s = .next s) ∧
    (∀ τ l, x.task = some τ → x.held = true → s.launch τ.launch = some l → τ.gang = none → τ.mailbox = none →
      τ.trace = 0 → τ.fromQueue = none → s.dist.barriers = [] → c.swapWanted = none → Store.wf 0 l.deps = true →
      ∃ t k, exec (.taskKill core) s = .next t ∧ (t.core core).act.phase = .killed ∧ (t.core core).act.held = false ∧
        (t.core core).resumeAt = none ∧ (t.core core).act.regs = x.regs ∧ (t.core core).pool = c.pool ∧
        t.launch τ.launch = some k ∧ k.killed = true ∧ (∀ b, b ∈ k.left ↔ b ∈ l.left ∧ b ≠ τ.blk) ∧
        (∀ b, Store.get 0 k.deps b = Store.get 0 l.deps b - (τ.succ.count b : Int)) ∧
        (∀ n, n ≠ core → t.core n = s.core n) ∧ t.hbm = s.hbm ∧ t.host = s.host)) ∧
  (∀ (s : State) (core : Nat), core < 512 →
    let c := s.core core
    let request (t : State) (n : Nat) : Prop :=
      t.core core = { c with swapWanted := some n, shadow := { c.shadow with asked := true } } ∧ s.onlyCore t core
    let ready := c.swapWanted = none ∧ c.shadow.canRun = true ∧
      ∀ p ∈ (s.die (core / 32)).parked, ¬ (p.core = core ∧ p.cid = c.shadow.cid)
    let higher := c.shadow.level < c.act.level ∧ c.act.gang = none
    (ready → c.act.canRun = false ∨ (c.shadow.asked = false ∧ higher) →
      ∃ t, exec (.swapRequest core) s = .next t ∧ request t 0) ∧
    (¬ ready ∨ (c.act.canRun = true ∧ ¬ higher) → exec (.swapRequest core) s = .next s) ∧
    (ready → c.act.gang = none → ∃ t, exec (.quantumExpiry core) s = .next t ∧ request t 1) ∧
    (¬ ready ∨ c.act.gang ≠ none → exec (.quantumExpiry core) s = .next s)) ∧
  (∀ (s : State) (core : Nat), core < 512 →
    let c := s.core core
    let x := c.act
    let settled := (x.canRun = false ∨ x.atMark = true) ∧ x.held = false ∧ x.trap = none ∧ x.fp = [] ∧
      (∀ l ∈ x.pend, l.eng = true) ∧ (∀ g ∈ x.gate, g.stream ≠ none ∨ g.pipe ≠ none → g.wcycle ≤ s.cycle) ∧
      (x.timeline 0).out = [] ∧
      (c.mx.rep = none ∨ c.mx.busyTo ≤ s.cycle)
    (c.swapWanted ≠ none → s.shadowRuns core = true → c.swapEnd ≤ s.cycle → settled → x.gate = [] → x.regs.emptied = [] →
      x.gang = none →
      ∃ t, exec (.contextSwap core) s = .next t ∧
        (t.core core).act = { c.shadow with nextAt := max c.shadow.nextAt (s.cycle + 48), heldSince := s.cycle + 48 } ∧
        (t.core core).shadow.regs = x.regs ∧ (t.core core).shadow.task = x.task ∧ (t.core core).shadow.cid = x.cid ∧
        (t.core core).shadow.fstat = x.fstat ∧ (t.core core).shadow.pend = x.pend ∧ (t.core core).shadow.tl = x.tl ∧
        (t.core core).swapWanted = none ∧ (t.core core).swapEnd = s.cycle + 48 ∧ (t.core core).pool = c.pool ∧
        (t.core core).bstore = c.bstore ∧ (∀ n, n ≠ core → t.core n = s.core n) ∧ t.hbm = s.hbm ∧ t.host = s.host) ∧
    (c.swapWanted = none ∨ s.shadowRuns core = false ∨ s.cycle < c.swapEnd ∨ ¬ settled →
      exec (.contextSwap core) s = .next s)) ∧
  (∀ (s : State) (core : Nat), core < 512 →
    let c := s.core core
    let x := c.act
    let d := s.die (core / 32)
    let parkable := x.phase = .running ∧ x.held = false ∧ x.trap = none ∧ x.atMark = true ∧
      (x.atWait = true ∨ x.heldPop ≠ none) ∧ x.heldSince + 512 ≤ s.cycle ∧ c.swapWanted = none
    (parkable → s.shadowRuns core = true → d.parked.length < 1024 → ∃ t, exec (.park core) s = .next t ∧
      t.die (core / 32) = { d with parked := d.parked ++ [⟨core, x.cid⟩] } ∧
      t.core core = { c with swapWanted := some 3, shadow := { c.shadow with asked := true } } ∧
      (∀ n, n ≠ core → t.core n = s.core n) ∧ t.hbm = s.hbm ∧ t.dist = s.dist) ∧
    (parkable → s.shadowRuns core = true → 1024 ≤ d.parked.length → ∃ t, exec (.park core) s = .next t ∧
      t.die (core / 32) = { d with wtfull := min (d.wtfull + 1) 0xFFFFFFFF } ∧
      (t.core core).act = { x with heldSince := s.cycle } ∧ (t.core core).swapWanted = none ∧
      (∀ n, n ≠ core → t.core n = s.core n) ∧ t.hbm = s.hbm ∧ t.dist = s.dist) ∧
    (¬ parkable → exec (.park core) s = .next s)) ∧
  (∀ (s : State) (core : Nat), core < 512 →
    let c := s.core core
    let x := c.shadow
    let parked := ∃ p ∈ (s.die (core / 32)).parked, p.core = core ∧ p.cid = x.cid
    let holds := (∀ w ∈ x.waits, match w with
        | .count tl n _ => n ≤ (x.timeline tl).c
        | .outstanding tl n => (x.timeline tl).out.length ≤ n
        | _ => True) ∧ x.heldPop = none
    (parked → holds → ∃ t, exec (.waitTableWake core) s = .next t ∧
      (∀ p, p ∈ (t.die (core / 32)).parked ↔ p ∈ (s.die (core / 32)).parked ∧ ¬ (p.core = core ∧ p.cid = x.cid)) ∧
      ((t.core core).swapWanted = if c.swapWanted = none ∧ c.act.gang = none then some 3 else c.swapWanted) ∧
      (t.core core).act = c.act ∧ (∀ n, n ≠ core → t.core n = s.core n) ∧ t.hbm = s.hbm ∧ t.dist = s.dist) ∧
    (¬ parked → exec (.waitTableWake core) s = .next s)) ∧
  (∀ (s : State) (core : Nat) (key : Word), core < 512 →
    let c := s.core core
    let x := c.shadow
    let wr (a : Actor) := exec (.registerWrite a (core / 32) (blockAt core 0) key) s
    let savable := x.phase = .running ∧ x.gang = none ∧ (∀ e ∈ x.tl, e.2.out = []) ∧ x.gate = [] ∧
      ∀ p ∈ (s.die (core / 32)).parked, ¬ (p.core = core ∧ p.cid = x.cid)
    (savable → c.swapWanted = none → ∃ t v, wr .saves = .next t ∧ s.onlyCore t core ∧
      t.core core = { c with shadow := { x with task := none, phase := .none }, saved := c.saved ++ [v] } ∧ v.key = key ∧
      v.ctx = x ∧ v.pool = c.pool.filter fun e => x.owns e.1) ∧
    (¬ savable → wr .saves = .next s) ∧
    (∀ pre v post, c.saved = pre ++ v :: post → (∀ u ∈ pre, u.key ≠ key) → v.key = key →
      let room := x.task = none ∧ c.act.phase ≠ .waiting ∧ (c.act.task = none ∨ 64 - c.act.xb ≤ v.ctx.bankBase ∨
        64 - v.ctx.xb ≤ c.act.bankBase)
      (room → c.pool.wf = true → v.pool.wf = true → (∀ e ∈ v.pool, v.ctx.owns e.1 = true) → ∃ t, wr .restores = .next t ∧
        (t.core core).shadow = { v.ctx with cid := x.cid } ∧ (t.core core).act = c.act ∧
        (∀ a, Memory.read (t.core core).pool a = Memory.read (if v.ctx.owns a then v.pool else c.pool) a) ∧
        lookup (t.die (core / 32)).reported core = some 0 ∧ (∀ n, n ≠ core → t.core n = s.core n) ∧ t.hbm = s.hbm ∧
        t.dist = s.dist) ∧
      (¬ room → wr .restores = .next s)) ∧
    ((∀ u ∈ c.saved, u.key ≠ key) → wr .restores = .next s))

/-! ## The package and its host -/

/-- The host's accesses, links, bring-up, channels, power and reset (R41, R340 to R349). Before stage 6, and with the link
down, writes are discarded; a message goes to its registration or sets MB; a window write is sent as a stamped write or sets
WF; a read returns the bytes as die 0 reads them, is refused with WF, or before stage 6 returns zero; BAR0 reads registers,
the mailbox space reads zero, and the host reads and writes its own memory. Each access waits for earlier host writes, in
its turn. A stage follows the one before; from stage 1 no die goes on before every die has verified the image; verification,
training and the place of the lending pool are free. Device reset leaves every register at its reset value and retires
fenced channels. The model's choices: a host write waits for the earlier ones (log 75), what a device reset keeps (log 79),
and an uncorrectable error as an input (log 118). -/
def Obligations.PackageAndHost : Prop :=
  (∀ (s : State) (i : Instr) (control : Bool), ((control = true ∧ ∃ off bytes, i = .hostMemoryWrite ⟨.control, off⟩ bytes) ∨
      (control = false ∧ ((∃ slot words, slot < 1024 ∧ i = .hostMessage slot words) ∨
        ∃ space off bytes, (space = .window ∨ space = .mailbox) ∧ i = .hostMemoryWrite ⟨space, off⟩ bytes))) →
    (s.hostDown = true → exec i s = .next s) ∧
    (control = false → (s.die 0).stage ≠ 6 → exec i s = .next s) ∧
    (control = true ∨ (s.die 0).stage = 6 → s.hostDown = false → s.hostWait = [] →
      (∃ id ∈ s.hostSent, s.visible id = false) ∨ 64 ≤ s.hostMessages → exec i s = .next { s with hostWait := [i] }) ∧
    (∀ j l, control = true ∨ (s.die 0).stage = 6 → s.hostDown = false → s.hostWait = j :: l → i ≠ j →
      exec i s = .next { s with hostWait := s.hostWait ++ [i] })) ∧
  (∀ (s : State) (slot : Nat) (words : List Word), slot < 1024 → (s.die 0).stage = 6 → s.hostDown = false →
    s.hostWait = [] → (∀ id ∈ s.hostSent, s.visible id = true) → s.hostMessages < 64 →
    let len := (nth0 words 0).toNat % 16
    (∀ m, Store.get none s.dist.mailboxes slot = some m → words.length = 16 → 1 ≤ len → len ≤ 12 →
      ∃ t k key, exec (.hostMessage slot words) s = .next t ∧ Store.get none t.dist.mailboxes slot = some k ∧
        (∀ e, e ∈ k.waiting ↔ e ∈ m.waiting ∨ e = ⟨key, 0xFFFF, none, words.take 13, 0, []⟩) ∧
        k = { m with waiting := k.waiting } ∧ s.noMemory t ∧ t.dies = s.dies ∧ t.hstat = s.hstat) ∧
    (Store.get none s.dist.mailboxes slot = none ∨ words.length ≠ 16 ∨ len = 0 ∨ 12 < len →
      exec (.hostMessage slot words) s = .next { s with hstat := s.hstat ||| 4#32, setNow := s.setNow ++ [2] }) ∧
    (∀ bytes : List Byte, bytes.length = 64 → (∀ k, k < 16 → nth0 words k = BitVec.ofNat 32 (ofBytes ((bytes.drop (4 * k)).take 4))) →
      words.length = 16 → exec (.hostMemoryWrite ⟨.mailbox, 64 * slot⟩ bytes) s = exec (.hostMessage slot words) s) ∧
    (∀ (off : Nat) (bytes : List Byte), off % 64 ≠ 0 ∨ bytes.length ≠ 64 ∨ 65536 ≤ off →
      exec (.hostMemoryWrite ⟨.mailbox, off⟩ bytes) s =
        .next { s with hstat := s.hstat ||| 4#32, setNow := s.setNow ++ [2] })) ∧
  (∀ (s : State) (off : Nat) (bytes : List Byte), s.hostDown = false → s.hostWait = [] →
    (∀ id ∈ s.hostSent, s.visible id = true) → s.hostMessages < 64 →
    let die := off / 2 ^ 22 % 16
    (off < 2 ^ 26 → off % 4 = 0 → bytes.length = 4 → exec (.hostMemoryWrite ⟨.control, off⟩ bytes) s =
      exec (.registerWrite .host die (off % 2 ^ 22) (BitVec.ofNat 32 (ofBytes bytes))) s) ∧
    (2 ^ 26 ≤ off ∨ off % 4 ≠ 0 ∨ bytes.length ≠ 4 → exec (.hostMemoryWrite ⟨.control, off⟩ bytes) s =
      .next { s with hstat := s.hstat ||| 1#32, setNow := s.setNow ++ [0] }) ∧
    (off % 4 = 0 → (off % 2 ^ 22 < 0x10000 ∨ 0x12000 ≤ off % 2 ^ 22 ∨ off % 0x100 ≠ 0x44) →
      exec (.hostMemoryRead ⟨.control, off⟩ 4) s =
        .next { s with answer := some ⟨true, toBytes (s.readRegister die (off % 2 ^ 22)).toNat 4⟩ })) ∧
  (∀ (s : State) (off n : Nat) (bytes : List Byte), s.host.wf = true →
    (∃ t, exec (.hostMemoryWrite ⟨.own, off⟩ bytes) s = .next t ∧ t = { s with host := t.host } ∧
      bytesWritten s.host t.host off bytes) ∧
    exec (.hostMemoryRead ⟨.own, off⟩ n) s = .next { s with answer := some ⟨true, Memory.bytes s.host off n⟩ }) ∧
  (∀ (s : State) (off : Nat) (bytes : List Byte), (s.die 0).stage = 6 → s.hostDown = false → s.hostWait = [] →
    (∀ id ∈ s.hostSent, s.visible id = true) → s.hostMessages < 64 → s.dist.mailboxes = [] → bytes ≠ [] →
    off % 65536 + bytes.length ≤ 65536 →
    let va := s.hwbase.toNat % 65536 * 2 ^ 36 + off
    let leaf := s.leafNow 0 hostEngine (s.hasid.toNat % 4096) va
    (5 ∈ s.setNow ∨ leaf = none ∨ (∃ l, leaf = some l ∧ (l.kind = 1 ∨ l.w = false)) ∨ 2 ^ 36 < off + bytes.length →
      ∃ t, exec (.hostMemoryWrite ⟨.window, off⟩ bytes) s = .next t ∧ t.hstat = s.hstat ||| 2#32 ∧ t.setNow = s.setNow ++ [1] ∧
        s.noMemory t ∧ t.dies = s.dies) ∧
    (∀ l, 5 ∉ s.setNow → leaf = some l → l.w = true → l.kind ≠ 1 → l.rep = false → off + bytes.length ≤ 2 ^ 36 →
      ∃ t b, exec (.hostMemoryWrite ⟨.window, off⟩ bytes) s = .next t ∧
        s.blocksOf b 0 l.kind (l.translate va) bytes (some (s.clockOf 0)) ∧ s.sent t b 0 l.kind ∧
        t.hostSent = [s.nextWrite] ∧ t.hstat = s.hstat ∧ t.hbm = s.hbm ∧ t.host = s.host ∧ t.pod = s.pod ∧
        t.cores = s.cores ∧ t.dist = s.dist)) ∧
  (∀ (s : State) (off n : Nat), s.hostWait = [] → 0 < n → off % 65536 + n ≤ 65536 →
    let va := s.hwbase.toNat % 65536 * 2 ^ 36 + off
    let leaf := s.leafNow 0 hostEngine (s.hasid.toNat % 4096) va
    let wr (space : HostSpace) := exec (.hostMemoryRead ⟨space, off⟩ n) s
    let zeros := { s with answer := some ⟨true, List.replicate n 0#8⟩ }
    (∀ space, space ≠ .own → s.hostDown = true → wr space = .next s) ∧
    (s.hostDown = false → (s.die 0).stage ≠ 6 → wr .window = .next zeros ∧ wr .mailbox = .next zeros) ∧
    (s.hostDown = false → (s.die 0).stage = 6 → (∀ id ∈ s.hostSent, s.visible id = true) →
      wr .mailbox = .next zeros ∧
      (5 ∈ s.setNow ∨ leaf = none ∨ (∃ l, leaf = some l ∧ (l.kind = 1 ∨ l.r = false)) ∨ 2 ^ 36 < off + n → wr .window =
        .next { s with hstat := s.hstat ||| 2#32, setNow := s.setNow ++ [1], answer := some ⟨false, []⟩ }) ∧
      (∀ l, 5 ∉ s.setNow → leaf = some l → l.r = true → l.kind = 0 → l.rep = false → off + n ≤ 2 ^ 36 →
        s.covered (s.clockOf 0) = true →
        ∃ t, wr .window = .next t ∧
          t.answer = some ⟨true, (List.range n).map fun k => s.deviceByte 0 (l.translate va + k)⟩ ∧ t.hstat = s.hstat ∧
          t.hbm = s.hbm ∧ t.cores = s.cores ∧ t.dist = s.dist)) ∧
    (∀ space, space ≠ .own → s.hostDown = false → (s.die 0).stage = 6 → (∃ id ∈ s.hostSent, s.visible id = false) →
      wr space = .next { s with hostWait := [.hostMemoryRead ⟨space, off⟩ n] })) ∧
  (∀ (s : State), exec .hostLinkDown s = .next { s with hostDown := true }) ∧
  (∀ (s : State) (link : Nat), link < 32 → ∃ t, exec (.linkReplay link) s = .next t ∧ s.onlyDie t (link / 2) ∧
    ((t.die (link / 2) = s.die (link / 2)) ∨
      ((t.die (link / 2)).linkDown = (s.die (link / 2)).linkDown.filter (fun k => decide (k ≠ link % 2)) ++ [link % 2] ∧
        (t.die (link / 2)).log = (s.die (link / 2)).log ++ [⟨5, link, 0, 0⟩] ∧
        (∀ p ∈ (s.die (link / 2)).routesDown, p ∈ (t.die (link / 2)).routesDown) ∧
        (t.die (link / 2)).far = (s.die (link / 2)).far ∧ (t.die (link / 2)).incoming = (s.die (link / 2)).incoming))) ∧
  (∀ (s : State) (die pkg : Nat), die < 16 → ∃ t, exec (.routeReturn die pkg) s = .next t ∧ s.onlyDie t die ∧
    ∀ p, p ∈ (t.die die).routesDown ↔ p ∈ (s.die die).routesDown ∧ p ≠ pkg) ∧
  (∀ (s : State) (die : Nat), die < 16 →
    let d := s.die die
    (d.fail = true ∨ 6 ≤ d.stage → exec (.bootStageAdvance die) s = .next s) ∧
    (d.fail = false → d.stage < 6 → ∃ t, exec (.bootStageAdvance die) s = .next t ∧ t.cores = s.cores ∧ t.hbm = s.hbm ∧
      (∀ k, k ≠ die → t.die k = s.die k) ∧
      (let on := if (List.range 16).all (fun k => decide (k = die) || (s.die k).verified) then 2 else 1
      (d.stage ≠ 1 → d.stage ≠ 4 → t.die die = { d with stage := d.stage + 1 }) ∧
      (d.stage = 4 → ∃ p, t.die die = { d with stage := 5, pool := some p } ∧ p / 2 ^ 36 = die ∧ p % 1024 = 0) ∧
      (d.stage = 1 → d.verified = true → t.die die = { d with stage := on }) ∧
      (d.stage = 1 → d.verified = false →
        t.die die = { d with fail := true } ∨ t.die die = { d with verified := true, stage := on })) ∧
      (d.stage ≠ 3 → t.dist = s.dist) ∧
      (d.stage = 3 → Store.wf 0#32 s.dist.retmap = true → ∀ k c, (Store.get 0#32 s.dist.retmap k).getLsbD c = true →
        (Store.get 0#32 t.dist.retmap k).getLsbD c = true)) ∧
    (∀ verified, exec (.recoveryImage die verified) s =
      .next (if d.fail = true ∧ d.stage = 1 ∧ verified = true then
        s.onDie die fun d => { d with fail := false, verified := true } else s))) ∧
  (∀ (s : State), Store.wf 0#32 s.dist.retmap = true →
    (∃ t, exec .deviceReset s = .next t ∧ (∀ n, t.core n = Core.reset) ∧ (∀ n, t.die n = Die.reset) ∧ t.ops = [] ∧
      t.reps = [] ∧ t.hbm = s.hbm ∧ t.host = s.host ∧ t.pod = s.pod ∧ t.roots = s.roots ∧ t.images = s.images ∧ t.hwbase = 0#32 ∧
      t.hasid = 0#32 ∧ t.hstat = 0#32 ∧ t.stopped = false ∧ t.dist = { Distributor.reset with retmap := t.dist.retmap, errors := s.dist.errors } ∧
      (∀ k c, c < 32 → (Store.get 0#32 t.dist.retmap k).getLsbD c =
        ((Store.get 0#32 s.dist.retmap k).getLsbD c || decide ((k, c) ∈ s.dist.fenced))) ∧ t.cycle = 0) ∧
    (∃ t, exec .powerOn s = .next t ∧ (∀ n, t.core n = Core.reset) ∧ (∀ n, t.die n = Die.reset) ∧
      t.dist = Distributor.reset ∧ t.ops = [] ∧ t.hbm = [] ∧ t.host = s.host ∧ t.hstat = 0#32 ∧ t.cycle = 0)) ∧
  (∀ (s : State) (stack : BitVec 4) (a : Nat), s.dist.errors.Nodup →
    ∃ t, exec (.channelFence stack (.unit a)) s = .next t ∧ t = { s with dist := { s.dist with errors := t.dist.errors } } ∧
      ∀ u, u ∈ t.dist.errors ↔ (u ∈ s.dist.errors ∧ u ≠ a / 256) ∨ (u ∉ s.dist.errors ∧ u = a / 256)) ∧
  (∀ (s : State) (stack : BitVec 4) (channel : BitVec 5), ∃ t, exec (.channelFence stack (.channel channel)) s = .next t ∧
    (∀ e, e ∈ t.dist.fenced ↔ e ∈ s.dist.fenced ∨ e = (stack.toNat, channel.toNat)) ∧ s.noMemory t ∧ t.dies = s.dies ∧
    (∀ d, bitOf (dw d 7) stack.toNat = true → t.layoutRefused d = true) ∧
    (s.dist.retmap = [] → ∀ a n, 0 < n → a / 2 ^ 36 % 16 = stack.toNat → a % 2 ^ 36 / 256 % 32 = channel.toNat →
      t.fencedRange a n = true)) ∧
  (∀ (s : State) (die blocks temp : Nat), die < 16 →
    (∃ t, exec (.softErrorCorrect die) s = .next t ∧ s.onlyDie t die ∧
      t.die die = { s.die die with eccc := min ((s.die die).eccc + 1) 0xFFFFFFFF }) ∧
    (∃ t, exec (.powerThrottle blocks) s = .next t ∧ s.noMemory t ∧ t.dist = s.dist ∧
      ∀ d, d < 16 → t.die d = { s.die d with stops := min ((s.die d).stops + blocks) 0xFFFFFFFF }) ∧
    (∃ t, exec (.thermalTrip die) s = .next t ∧ t.stopped = true ∧ t.hstat = s.hstat ||| 8#32 ∧ s.noMemory t ∧
      t.die die = { s.die die with log := (s.die die).log ++ [⟨6, die, 0, 0⟩] } ∧
      ∀ d, d ≠ die → t.die d = s.die d) ∧
    exec (.packageRestart temp) s = .next (if temp < 100 then { s with stopped := false } else s))
end

