-- ==== Sys2Proof/Laws/Store.lean ====
section
/-! SUPPORT. The laws of the sparse tables: what a key reads after a write, and the canonical form. -/

namespace Sys2Proof

variable {α : Type}

/-- A key just listed reads its value. -/
@[simp] theorem Store.get_insert_same (d : α) (l : Store α) (k : Nat) (x : α) :
    Store.get d (Store.insert l k x) k = x := by
  induction l with
  | nil => simp [Store.insert, Store.get]
  | cons e l ih =>
    obtain ⟨k', v⟩ := e
    simp only [Store.insert]
    split
    · simp [Store.get]
    · split
      · simp [Store.get]
      · simp_all [Store.get]

/-- Listing a key leaves every other key. -/
theorem Store.get_insert_ne (d : α) (l : Store α) {k j : Nat} (x : α) (h : j ≠ k) :
    Store.get d (Store.insert l k x) j = Store.get d l j := by
  induction l with
  | nil => simp [Store.insert, Store.get, h]
  | cons e l ih =>
    obtain ⟨k', v⟩ := e
    simp only [Store.insert]
    split
    · subst_vars; simp [Store.get, h]
    · split
      · simp only [Store.get, if_neg h]
        repeat' split
        all_goals first | rfl | omega
      · simp only [Store.get, ih]

/-- Below the least key allowed, a table in canonical form holds the default. -/
theorem Store.get_below [DecidableEq α] {d : α} {b : Nat} {l : Store α} (h : Store.okAbove d b l = true) {j : Nat}
    (hj : j < b) : Store.get d l j = d := by
  cases l with
  | nil => rfl
  | cons e l =>
    obtain ⟨k', v⟩ := e
    simp only [Store.okAbove, Bool.and_eq_true, decide_eq_true_eq] at h
    simp only [Store.get]
    rw [if_neg (by omega), if_pos (by omega)]

/-- A smaller bound is met as well. -/
theorem Store.okAbove_mono [DecidableEq α] {d : α} {b c : Nat} {l : Store α} (h : Store.okAbove d b l = true)
    (hc : c ≤ b) : Store.okAbove d c l = true := by
  cases l with
  | nil => rfl
  | cons e l =>
    obtain ⟨k', v⟩ := e
    simp only [Store.okAbove, Bool.and_eq_true, decide_eq_true_eq] at h ⊢
    exact ⟨⟨by omega, h.1.2⟩, h.2⟩

/-- Taking a key out keeps the form. -/
theorem Store.okAbove_erase [DecidableEq α] {d : α} {b : Nat} {l : Store α} (h : Store.okAbove d b l = true) (k : Nat) :
    Store.okAbove d b (Store.erase l k) = true := by
  induction l generalizing b with
  | nil => rfl
  | cons e l ih =>
    obtain ⟨k', v⟩ := e
    have h0 := h
    simp only [Store.okAbove, Bool.and_eq_true, decide_eq_true_eq] at h
    simp only [Store.erase]
    split
    · exact Store.okAbove_mono h.2 (by omega)
    · split
      · exact h0
      · simp only [Store.okAbove, Bool.and_eq_true, decide_eq_true_eq]
        exact ⟨h.1, ih h.2⟩

/-- Listing a value that is not the default keeps the form. -/
theorem Store.okAbove_insert [DecidableEq α] {d : α} {b : Nat} {l : Store α} (h : Store.okAbove d b l = true) {k : Nat}
    {x : α} (hk : b ≤ k) (hx : x ≠ d) : Store.okAbove d b (Store.insert l k x) = true := by
  induction l generalizing b with
  | nil => simp [Store.insert, Store.okAbove, hk, hx]
  | cons e l ih =>
    obtain ⟨k', v⟩ := e
    simp only [Store.okAbove, Bool.and_eq_true, decide_eq_true_eq] at h
    simp only [Store.insert]
    split
    · subst_vars; simp [Store.okAbove, hk, hx, h.2]
    · split
      · simp only [Store.okAbove, Bool.and_eq_true, decide_eq_true_eq]
        exact ⟨⟨hk, hx⟩, ⟨⟨by omega, h.1.2⟩, h.2⟩⟩
      · simp only [Store.okAbove, Bool.and_eq_true, decide_eq_true_eq]
        exact ⟨h.1, ih h.2 (by omega)⟩

/-- A key taken out reads the default. -/
theorem Store.get_erase_same [DecidableEq α] {d : α} {b : Nat} {l : Store α} (h : Store.okAbove d b l = true) (k : Nat) :
    Store.get d (Store.erase l k) k = d := by
  induction l generalizing b with
  | nil => rfl
  | cons e l ih =>
    obtain ⟨k', v⟩ := e
    simp only [Store.okAbove, Bool.and_eq_true, decide_eq_true_eq] at h
    simp only [Store.erase]
    split
    · subst_vars; exact Store.get_below h.2 (by omega)
    · split
      · simp [Store.get, *]
      · simp only [Store.get]; rw [if_neg ‹_›, if_neg ‹_›]; exact ih h.2

/-- Taking a key out leaves every other key. -/
theorem Store.get_erase_ne [DecidableEq α] {d : α} {b : Nat} {l : Store α} (h : Store.okAbove d b l = true) {k j : Nat}
    (hj : j ≠ k) : Store.get d (Store.erase l k) j = Store.get d l j := by
  induction l generalizing b with
  | nil => rfl
  | cons e l ih =>
    obtain ⟨k', v⟩ := e
    simp only [Store.okAbove, Bool.and_eq_true, decide_eq_true_eq] at h
    simp only [Store.erase]
    split
    · subst_vars
      simp only [Store.get, if_neg hj]
      split
      · exact Store.get_below h.2 (by omega)
      · rfl
    · split
      · rfl
      · simp only [Store.get, ih h.2]

/-- Every table operation keeps the canonical form. -/
theorem Store.wf_set [DecidableEq α] {d : α} {l : Store α} (h : Store.wf d l = true) (k : Nat) (x : α) :
    Store.wf d (Store.set d l k x) = true := by
  unfold Store.set
  split
  · exact Store.okAbove_erase h k
  · exact Store.okAbove_insert h (Nat.zero_le k) ‹_›

/-- A key just set reads its value. -/
theorem Store.get_set_same [DecidableEq α] {d : α} {l : Store α} (h : Store.wf d l = true) (k : Nat) (x : α) :
    Store.get d (Store.set d l k x) k = x := by
  unfold Store.set
  split
  · subst_vars; exact Store.get_erase_same h k
  · exact Store.get_insert_same d l k x

/-- Setting a key leaves every other key. -/
theorem Store.get_set_ne [DecidableEq α] {d : α} {l : Store α} (h : Store.wf d l = true) {k j : Nat} (x : α)
    (hj : j ≠ k) : Store.get d (Store.set d l k x) j = Store.get d l j := by
  unfold Store.set
  split
  · exact Store.get_erase_ne h hj
  · exact Store.get_insert_ne d l x hj

/-- Setting a list of keys keeps the form. -/
theorem Store.wf_setAll [DecidableEq α] {d : α} (f : Nat → α) (ks : List Nat) {l : Store α} (h : Store.wf d l = true) :
    Store.wf d (Store.setAll d f ks l) = true := by
  induction ks generalizing l with
  | nil => exact h
  | cons k ks ih => exact ih (Store.wf_set h k (f k))

/-- Two tables in canonical form that read alike are the same data. -/
theorem Store.ext_of_get [DecidableEq α] {d : α} {b : Nat} {l m : Store α} (hl : Store.okAbove d b l = true)
    (hm : Store.okAbove d b m = true) (h : ∀ k, Store.get d l k = Store.get d m k) : l = m := by
  induction l generalizing b m with
  | nil =>
    cases m with
    | nil => rfl
    | cons e m =>
      obtain ⟨k, v⟩ := e
      have := h k
      simp [Store.okAbove, Store.get] at hm this
      exact absurd this.symm hm.1.2
  | cons e l ih =>
    obtain ⟨k, v⟩ := e
    simp only [Store.okAbove, Bool.and_eq_true, decide_eq_true_eq] at hl
    cases m with
    | nil =>
      have := h k
      simp [Store.get] at this
      exact absurd this hl.1.2
    | cons e' m =>
      obtain ⟨k', v'⟩ := e'
      simp only [Store.okAbove, Bool.and_eq_true, decide_eq_true_eq] at hm
      have hk : k = k' := by
        rcases Nat.lt_trichotomy k k' with hlt | heq | hgt
        · have := h k
          simp only [Store.get, if_true] at this
          rw [if_neg (by omega), if_pos hlt] at this
          exact absurd this hl.1.2
        · exact heq
        · have := h k'
          simp only [Store.get, if_true] at this
          rw [if_neg (by omega), if_pos hgt] at this
          exact absurd this.symm hm.1.2
      subst hk
      have hv : v = v' := by simpa [Store.get] using h k
      subst hv
      have : l = m := ih hl.2 hm.2 fun j => by
        by_cases hj : j < k + 1
        · rw [Store.get_below hl.2 hj, Store.get_below hm.2 hj]
        · have := h j
          simp only [Store.get] at this
          rwa [if_neg (by omega), if_neg (by omega), if_neg (by omega), if_neg (by omega)] at this
      rw [this]

end Sys2Proof
end

