-- ==== Sys2Proof/Laws/Memory.lean ====
section
/-! SUPPORT. The laws of memory: every operation keeps the canonical form; read after write. -/

namespace Sys2Proof.Machine

/-- The empty memory is in canonical form. -/
@[simp] theorem Memory.wf_nil : Memory.wf [] = true := rfl

/-- Writing a byte keeps the form. -/
theorem Memory.wf_write {m : Memory} (h : m.wf = true) (a : Nat) (b : Byte) : (m.write a b).wf = true :=
  Store.wf_set h a b

/-- A byte just written reads back. -/
theorem Memory.read_write_same {m : Memory} (h : m.wf = true) (a : Nat) (b : Byte) : (m.write a b).read a = b :=
  Store.get_set_same h a b

/-- Writing a byte leaves every other byte. -/
theorem Memory.read_write_ne {m : Memory} (h : m.wf = true) {a c : Nat} (b : Byte) (hc : c ≠ a) :
    (m.write a b).read c = m.read c :=
  Store.get_set_ne h b hc

/-- Writing a list of bytes keeps the form. -/
theorem Memory.wf_writeCells {m : Memory} (h : m.wf = true) (l : List (Nat × Byte)) : (m.writeCells l).wf = true := by
  induction l generalizing m with
  | nil => exact h
  | cons e l ih => exact ih (Memory.wf_write h e.1 e.2)

/-- Writing a list of bytes leaves every address it does not name. -/
theorem Memory.read_writeCells_ne {m : Memory} (h : m.wf = true) (l : List (Nat × Byte)) {c : Nat}
    (hc : ∀ e ∈ l, c ≠ e.1) : (m.writeCells l).read c = m.read c := by
  induction l generalizing m with
  | nil => rfl
  | cons e l ih =>
    rw [show m.writeCells (e :: l) = (m.write e.1 e.2).writeCells l from rfl,
      ih (Memory.wf_write h e.1 e.2) fun x hx => hc x (List.mem_cons_of_mem e hx),
      Memory.read_write_ne h e.2 (hc e List.mem_cons_self)]

/-- The addresses of consecutive cells. -/
theorem mem_cellsAt {a : Nat} {l : List Byte} {e : Nat × Byte} (h : e ∈ cellsAt a l) : a ≤ e.1 ∧ e.1 < a + l.length := by
  induction l generalizing a with
  | nil => simp [cellsAt] at h
  | cons b l ih =>
    simp only [cellsAt, List.mem_cons] at h
    rcases h with rfl | h
    · simp
    · have := ih h; simp only [List.length_cons]; omega

/-- Writing consecutive bytes keeps the form. -/
theorem Memory.wf_writeBytes {m : Memory} (h : m.wf = true) (a : Nat) (l : List Byte) : (m.writeBytes a l).wf = true :=
  Memory.wf_writeCells h _

/-- Writing consecutive bytes leaves every byte outside them. -/
theorem Memory.read_writeBytes_ne {m : Memory} (h : m.wf = true) (a : Nat) (l : List Byte) {c : Nat}
    (hc : c < a ∨ a + l.length ≤ c) : (m.writeBytes a l).read c = m.read c :=
  Memory.read_writeCells_ne h _ fun e he => by have := mem_cellsAt he; omega

/-- Consecutive bytes just written read back. -/
theorem Memory.bytes_writeBytes {m : Memory} (h : m.wf = true) (a : Nat) (l : List Byte) :
    (m.writeBytes a l).bytes a l.length = l := by
  induction l generalizing m a with
  | nil => rfl
  | cons b l ih =>
    have hw := Memory.wf_write h a b
    have h1 : ((m.write a b).writeBytes (a + 1) l).read a = b := by
      rw [Memory.read_writeBytes_ne hw (a + 1) l (by omega), Memory.read_write_same h]
    change _ :: _ = _
    rw [show m.writeBytes a (b :: l) = (m.write a b).writeBytes (a + 1) l from rfl, h1]
    exact congrArg (b :: ·) (ih hw (a + 1))

/-- A discarded byte keeps the form (R234). -/
theorem Memory.wf_restoreByte {m : Memory} (h : m.wf = true) (u : Undo) : (restoreByte m u).wf = true :=
  Memory.wf_write h _ _

/-- The stores written in a rank keep the form (R34). -/
theorem Memory.wf_writeGates (prio cycle : Nat) (l : List Gated) {m : Memory} (h : m.wf = true) :
    (writeGates prio cycle l m).2.wf = true := by
  induction l generalizing m with
  | nil => exact h
  | cons g l ih =>
    simp only [writeGates]
    split
    · exact ih (Memory.wf_writeCells h _)
    · exact ih h

end Sys2Proof.Machine
end

