-- ==== Sys2Proof/Laws/State.lean ====
section
/-! SUPPORT. What each update of the state leaves, field by field, so that no proof unfolds a record update. -/

namespace Sys2Proof.Machine

/-! ## The package -/

@[simp] theorem State.setCore_cycle (s : State) (n : Nat) (c : Core) : (s.setCore n c).cycle = s.cycle := rfl
@[simp] theorem State.setCore_cur (s : State) (n : Nat) (c : Core) : (s.setCore n c).cur = s.cur := rfl
@[simp] theorem State.setCore_free (s : State) (n : Nat) (c : Core) : (s.setCore n c).free = s.free := rfl
@[simp] theorem State.setCore_dies (s : State) (n : Nat) (c : Core) : (s.setCore n c).dies = s.dies := rfl
@[simp] theorem State.setCore_hbm (s : State) (n : Nat) (c : Core) : (s.setCore n c).hbm = s.hbm := rfl
@[simp] theorem State.setCore_host (s : State) (n : Nat) (c : Core) : (s.setCore n c).host = s.host := rfl
@[simp] theorem State.setCore_pod (s : State) (n : Nat) (c : Core) : (s.setCore n c).pod = s.pod := rfl
@[simp] theorem State.setCore_roots (s : State) (n : Nat) (c : Core) : (s.setCore n c).roots = s.roots := rfl
@[simp] theorem State.setCore_images (s : State) (n : Nat) (c : Core) : (s.setCore n c).images = s.images := rfl
@[simp] theorem State.setCore_ops (s : State) (n : Nat) (c : Core) : (s.setCore n c).ops = s.ops := rfl
@[simp] theorem State.setCore_nextOp (s : State) (n : Nat) (c : Core) : (s.setCore n c).nextOp = s.nextOp := rfl
@[simp] theorem State.setCore_reps (s : State) (n : Nat) (c : Core) : (s.setCore n c).reps = s.reps := rfl
@[simp] theorem State.setCore_nextWrite (s : State) (n : Nat) (c : Core) : (s.setCore n c).nextWrite = s.nextWrite := rfl
@[simp] theorem State.setCore_dist (s : State) (n : Nat) (c : Core) : (s.setCore n c).dist = s.dist := rfl
@[simp] theorem State.setCore_hwbase (s : State) (n : Nat) (c : Core) : (s.setCore n c).hwbase = s.hwbase := rfl
@[simp] theorem State.setCore_hasid (s : State) (n : Nat) (c : Core) : (s.setCore n c).hasid = s.hasid := rfl
@[simp] theorem State.setCore_hstat (s : State) (n : Nat) (c : Core) : (s.setCore n c).hstat = s.hstat := rfl
@[simp] theorem State.setCore_setNow (s : State) (n : Nat) (c : Core) : (s.setCore n c).setNow = s.setNow := rfl
@[simp] theorem State.setCore_hostDown (s : State) (n : Nat) (c : Core) : (s.setCore n c).hostDown = s.hostDown := rfl
@[simp] theorem State.setCore_stopped (s : State) (n : Nat) (c : Core) : (s.setCore n c).stopped = s.stopped := rfl
@[simp] theorem State.setCore_msix (s : State) (n : Nat) (c : Core) : (s.setCore n c).msix = s.msix := rfl
@[simp] theorem State.setCore_ringing (s : State) (n : Nat) (c : Core) : (s.setCore n c).ringing = s.ringing := rfl
@[simp] theorem State.setCore_answer (s : State) (n : Nat) (c : Core) : (s.setCore n c).answer = s.answer := rfl
@[simp] theorem State.setCore_hostSent (s : State) (n : Nat) (c : Core) : (s.setCore n c).hostSent = s.hostSent := rfl
@[simp] theorem State.setCore_hostWait (s : State) (n : Nat) (c : Core) : (s.setCore n c).hostWait = s.hostWait := rfl
@[simp] theorem State.setCore_inputs (s : State) (n : Nat) (c : Core) : (s.setCore n c).inputs = s.inputs := rfl
@[simp] theorem State.onCore_cycle (s : State) (n : Nat) (f : Core → Core) : (s.onCore n f).cycle = s.cycle := rfl
@[simp] theorem State.onCore_cur (s : State) (n : Nat) (f : Core → Core) : (s.onCore n f).cur = s.cur := rfl
@[simp] theorem State.onCore_free (s : State) (n : Nat) (f : Core → Core) : (s.onCore n f).free = s.free := rfl
@[simp] theorem State.onCore_dies (s : State) (n : Nat) (f : Core → Core) : (s.onCore n f).dies = s.dies := rfl
@[simp] theorem State.onCore_hbm (s : State) (n : Nat) (f : Core → Core) : (s.onCore n f).hbm = s.hbm := rfl
@[simp] theorem State.onCore_host (s : State) (n : Nat) (f : Core → Core) : (s.onCore n f).host = s.host := rfl
@[simp] theorem State.onCore_pod (s : State) (n : Nat) (f : Core → Core) : (s.onCore n f).pod = s.pod := rfl
@[simp] theorem State.onCore_roots (s : State) (n : Nat) (f : Core → Core) : (s.onCore n f).roots = s.roots := rfl
@[simp] theorem State.onCore_images (s : State) (n : Nat) (f : Core → Core) : (s.onCore n f).images = s.images := rfl
@[simp] theorem State.onCore_ops (s : State) (n : Nat) (f : Core → Core) : (s.onCore n f).ops = s.ops := rfl
@[simp] theorem State.onCore_nextOp (s : State) (n : Nat) (f : Core → Core) : (s.onCore n f).nextOp = s.nextOp := rfl
@[simp] theorem State.onCore_reps (s : State) (n : Nat) (f : Core → Core) : (s.onCore n f).reps = s.reps := rfl
@[simp] theorem State.onCore_nextWrite (s : State) (n : Nat) (f : Core → Core) : (s.onCore n f).nextWrite = s.nextWrite := rfl
@[simp] theorem State.onCore_dist (s : State) (n : Nat) (f : Core → Core) : (s.onCore n f).dist = s.dist := rfl
@[simp] theorem State.onCore_hwbase (s : State) (n : Nat) (f : Core → Core) : (s.onCore n f).hwbase = s.hwbase := rfl
@[simp] theorem State.onCore_hasid (s : State) (n : Nat) (f : Core → Core) : (s.onCore n f).hasid = s.hasid := rfl
@[simp] theorem State.onCore_hstat (s : State) (n : Nat) (f : Core → Core) : (s.onCore n f).hstat = s.hstat := rfl
@[simp] theorem State.onCore_setNow (s : State) (n : Nat) (f : Core → Core) : (s.onCore n f).setNow = s.setNow := rfl
@[simp] theorem State.onCore_hostDown (s : State) (n : Nat) (f : Core → Core) : (s.onCore n f).hostDown = s.hostDown := rfl
@[simp] theorem State.onCore_stopped (s : State) (n : Nat) (f : Core → Core) : (s.onCore n f).stopped = s.stopped := rfl
@[simp] theorem State.onCore_msix (s : State) (n : Nat) (f : Core → Core) : (s.onCore n f).msix = s.msix := rfl
@[simp] theorem State.onCore_ringing (s : State) (n : Nat) (f : Core → Core) : (s.onCore n f).ringing = s.ringing := rfl
@[simp] theorem State.onCore_answer (s : State) (n : Nat) (f : Core → Core) : (s.onCore n f).answer = s.answer := rfl
@[simp] theorem State.onCore_hostSent (s : State) (n : Nat) (f : Core → Core) : (s.onCore n f).hostSent = s.hostSent := rfl
@[simp] theorem State.onCore_hostWait (s : State) (n : Nat) (f : Core → Core) : (s.onCore n f).hostWait = s.hostWait := rfl
@[simp] theorem State.onCore_inputs (s : State) (n : Nat) (f : Core → Core) : (s.onCore n f).inputs = s.inputs := rfl
@[simp] theorem State.onHere_cycle (s : State) (f : Core → Core) : (s.onHere f).cycle = s.cycle := rfl
@[simp] theorem State.onHere_cur (s : State) (f : Core → Core) : (s.onHere f).cur = s.cur := rfl
@[simp] theorem State.onHere_free (s : State) (f : Core → Core) : (s.onHere f).free = s.free := rfl
@[simp] theorem State.onHere_dies (s : State) (f : Core → Core) : (s.onHere f).dies = s.dies := rfl
@[simp] theorem State.onHere_hbm (s : State) (f : Core → Core) : (s.onHere f).hbm = s.hbm := rfl
@[simp] theorem State.onHere_host (s : State) (f : Core → Core) : (s.onHere f).host = s.host := rfl
@[simp] theorem State.onHere_pod (s : State) (f : Core → Core) : (s.onHere f).pod = s.pod := rfl
@[simp] theorem State.onHere_roots (s : State) (f : Core → Core) : (s.onHere f).roots = s.roots := rfl
@[simp] theorem State.onHere_images (s : State) (f : Core → Core) : (s.onHere f).images = s.images := rfl
@[simp] theorem State.onHere_ops (s : State) (f : Core → Core) : (s.onHere f).ops = s.ops := rfl
@[simp] theorem State.onHere_nextOp (s : State) (f : Core → Core) : (s.onHere f).nextOp = s.nextOp := rfl
@[simp] theorem State.onHere_reps (s : State) (f : Core → Core) : (s.onHere f).reps = s.reps := rfl
@[simp] theorem State.onHere_nextWrite (s : State) (f : Core → Core) : (s.onHere f).nextWrite = s.nextWrite := rfl
@[simp] theorem State.onHere_dist (s : State) (f : Core → Core) : (s.onHere f).dist = s.dist := rfl
@[simp] theorem State.onHere_hwbase (s : State) (f : Core → Core) : (s.onHere f).hwbase = s.hwbase := rfl
@[simp] theorem State.onHere_hasid (s : State) (f : Core → Core) : (s.onHere f).hasid = s.hasid := rfl
@[simp] theorem State.onHere_hstat (s : State) (f : Core → Core) : (s.onHere f).hstat = s.hstat := rfl
@[simp] theorem State.onHere_setNow (s : State) (f : Core → Core) : (s.onHere f).setNow = s.setNow := rfl
@[simp] theorem State.onHere_hostDown (s : State) (f : Core → Core) : (s.onHere f).hostDown = s.hostDown := rfl
@[simp] theorem State.onHere_stopped (s : State) (f : Core → Core) : (s.onHere f).stopped = s.stopped := rfl
@[simp] theorem State.onHere_msix (s : State) (f : Core → Core) : (s.onHere f).msix = s.msix := rfl
@[simp] theorem State.onHere_ringing (s : State) (f : Core → Core) : (s.onHere f).ringing = s.ringing := rfl
@[simp] theorem State.onHere_answer (s : State) (f : Core → Core) : (s.onHere f).answer = s.answer := rfl
@[simp] theorem State.onHere_hostSent (s : State) (f : Core → Core) : (s.onHere f).hostSent = s.hostSent := rfl
@[simp] theorem State.onHere_hostWait (s : State) (f : Core → Core) : (s.onHere f).hostWait = s.hostWait := rfl
@[simp] theorem State.onHere_inputs (s : State) (f : Core → Core) : (s.onHere f).inputs = s.inputs := rfl
@[simp] theorem State.onAct_cycle (s : State) (f : Ctx → Ctx) : (s.onAct f).cycle = s.cycle := rfl
@[simp] theorem State.onAct_cur (s : State) (f : Ctx → Ctx) : (s.onAct f).cur = s.cur := rfl
@[simp] theorem State.onAct_free (s : State) (f : Ctx → Ctx) : (s.onAct f).free = s.free := rfl
@[simp] theorem State.onAct_dies (s : State) (f : Ctx → Ctx) : (s.onAct f).dies = s.dies := rfl
@[simp] theorem State.onAct_hbm (s : State) (f : Ctx → Ctx) : (s.onAct f).hbm = s.hbm := rfl
@[simp] theorem State.onAct_host (s : State) (f : Ctx → Ctx) : (s.onAct f).host = s.host := rfl
@[simp] theorem State.onAct_pod (s : State) (f : Ctx → Ctx) : (s.onAct f).pod = s.pod := rfl
@[simp] theorem State.onAct_roots (s : State) (f : Ctx → Ctx) : (s.onAct f).roots = s.roots := rfl
@[simp] theorem State.onAct_images (s : State) (f : Ctx → Ctx) : (s.onAct f).images = s.images := rfl
@[simp] theorem State.onAct_ops (s : State) (f : Ctx → Ctx) : (s.onAct f).ops = s.ops := rfl
@[simp] theorem State.onAct_nextOp (s : State) (f : Ctx → Ctx) : (s.onAct f).nextOp = s.nextOp := rfl
@[simp] theorem State.onAct_reps (s : State) (f : Ctx → Ctx) : (s.onAct f).reps = s.reps := rfl
@[simp] theorem State.onAct_nextWrite (s : State) (f : Ctx → Ctx) : (s.onAct f).nextWrite = s.nextWrite := rfl
@[simp] theorem State.onAct_dist (s : State) (f : Ctx → Ctx) : (s.onAct f).dist = s.dist := rfl
@[simp] theorem State.onAct_hwbase (s : State) (f : Ctx → Ctx) : (s.onAct f).hwbase = s.hwbase := rfl
@[simp] theorem State.onAct_hasid (s : State) (f : Ctx → Ctx) : (s.onAct f).hasid = s.hasid := rfl
@[simp] theorem State.onAct_hstat (s : State) (f : Ctx → Ctx) : (s.onAct f).hstat = s.hstat := rfl
@[simp] theorem State.onAct_setNow (s : State) (f : Ctx → Ctx) : (s.onAct f).setNow = s.setNow := rfl
@[simp] theorem State.onAct_hostDown (s : State) (f : Ctx → Ctx) : (s.onAct f).hostDown = s.hostDown := rfl
@[simp] theorem State.onAct_stopped (s : State) (f : Ctx → Ctx) : (s.onAct f).stopped = s.stopped := rfl
@[simp] theorem State.onAct_msix (s : State) (f : Ctx → Ctx) : (s.onAct f).msix = s.msix := rfl
@[simp] theorem State.onAct_ringing (s : State) (f : Ctx → Ctx) : (s.onAct f).ringing = s.ringing := rfl
@[simp] theorem State.onAct_answer (s : State) (f : Ctx → Ctx) : (s.onAct f).answer = s.answer := rfl
@[simp] theorem State.onAct_hostSent (s : State) (f : Ctx → Ctx) : (s.onAct f).hostSent = s.hostSent := rfl
@[simp] theorem State.onAct_hostWait (s : State) (f : Ctx → Ctx) : (s.onAct f).hostWait = s.hostWait := rfl
@[simp] theorem State.onAct_inputs (s : State) (f : Ctx → Ctx) : (s.onAct f).inputs = s.inputs := rfl
@[simp] theorem State.onIss_cycle (s : State) (f : Iss → Iss) : (s.onIss f).cycle = s.cycle := rfl
@[simp] theorem State.onIss_cur (s : State) (f : Iss → Iss) : (s.onIss f).cur = s.cur := rfl
@[simp] theorem State.onIss_free (s : State) (f : Iss → Iss) : (s.onIss f).free = s.free := rfl
@[simp] theorem State.onIss_dies (s : State) (f : Iss → Iss) : (s.onIss f).dies = s.dies := rfl
@[simp] theorem State.onIss_hbm (s : State) (f : Iss → Iss) : (s.onIss f).hbm = s.hbm := rfl
@[simp] theorem State.onIss_host (s : State) (f : Iss → Iss) : (s.onIss f).host = s.host := rfl
@[simp] theorem State.onIss_pod (s : State) (f : Iss → Iss) : (s.onIss f).pod = s.pod := rfl
@[simp] theorem State.onIss_roots (s : State) (f : Iss → Iss) : (s.onIss f).roots = s.roots := rfl
@[simp] theorem State.onIss_images (s : State) (f : Iss → Iss) : (s.onIss f).images = s.images := rfl
@[simp] theorem State.onIss_ops (s : State) (f : Iss → Iss) : (s.onIss f).ops = s.ops := rfl
@[simp] theorem State.onIss_nextOp (s : State) (f : Iss → Iss) : (s.onIss f).nextOp = s.nextOp := rfl
@[simp] theorem State.onIss_reps (s : State) (f : Iss → Iss) : (s.onIss f).reps = s.reps := rfl
@[simp] theorem State.onIss_nextWrite (s : State) (f : Iss → Iss) : (s.onIss f).nextWrite = s.nextWrite := rfl
@[simp] theorem State.onIss_dist (s : State) (f : Iss → Iss) : (s.onIss f).dist = s.dist := rfl
@[simp] theorem State.onIss_hwbase (s : State) (f : Iss → Iss) : (s.onIss f).hwbase = s.hwbase := rfl
@[simp] theorem State.onIss_hasid (s : State) (f : Iss → Iss) : (s.onIss f).hasid = s.hasid := rfl
@[simp] theorem State.onIss_hstat (s : State) (f : Iss → Iss) : (s.onIss f).hstat = s.hstat := rfl
@[simp] theorem State.onIss_setNow (s : State) (f : Iss → Iss) : (s.onIss f).setNow = s.setNow := rfl
@[simp] theorem State.onIss_hostDown (s : State) (f : Iss → Iss) : (s.onIss f).hostDown = s.hostDown := rfl
@[simp] theorem State.onIss_stopped (s : State) (f : Iss → Iss) : (s.onIss f).stopped = s.stopped := rfl
@[simp] theorem State.onIss_msix (s : State) (f : Iss → Iss) : (s.onIss f).msix = s.msix := rfl
@[simp] theorem State.onIss_ringing (s : State) (f : Iss → Iss) : (s.onIss f).ringing = s.ringing := rfl
@[simp] theorem State.onIss_answer (s : State) (f : Iss → Iss) : (s.onIss f).answer = s.answer := rfl
@[simp] theorem State.onIss_hostSent (s : State) (f : Iss → Iss) : (s.onIss f).hostSent = s.hostSent := rfl
@[simp] theorem State.onIss_hostWait (s : State) (f : Iss → Iss) : (s.onIss f).hostWait = s.hostWait := rfl
@[simp] theorem State.onIss_inputs (s : State) (f : Iss → Iss) : (s.onIss f).inputs = s.inputs := rfl
@[simp] theorem State.onDie_cycle (s : State) (d : Nat) (f : Die → Die) : (s.onDie d f).cycle = s.cycle := rfl
@[simp] theorem State.onDie_cur (s : State) (d : Nat) (f : Die → Die) : (s.onDie d f).cur = s.cur := rfl
@[simp] theorem State.onDie_free (s : State) (d : Nat) (f : Die → Die) : (s.onDie d f).free = s.free := rfl
@[simp] theorem State.onDie_cores (s : State) (d : Nat) (f : Die → Die) : (s.onDie d f).cores = s.cores := rfl
@[simp] theorem State.onDie_hbm (s : State) (d : Nat) (f : Die → Die) : (s.onDie d f).hbm = s.hbm := rfl
@[simp] theorem State.onDie_host (s : State) (d : Nat) (f : Die → Die) : (s.onDie d f).host = s.host := rfl
@[simp] theorem State.onDie_pod (s : State) (d : Nat) (f : Die → Die) : (s.onDie d f).pod = s.pod := rfl
@[simp] theorem State.onDie_roots (s : State) (d : Nat) (f : Die → Die) : (s.onDie d f).roots = s.roots := rfl
@[simp] theorem State.onDie_images (s : State) (d : Nat) (f : Die → Die) : (s.onDie d f).images = s.images := rfl
@[simp] theorem State.onDie_ops (s : State) (d : Nat) (f : Die → Die) : (s.onDie d f).ops = s.ops := rfl
@[simp] theorem State.onDie_nextOp (s : State) (d : Nat) (f : Die → Die) : (s.onDie d f).nextOp = s.nextOp := rfl
@[simp] theorem State.onDie_reps (s : State) (d : Nat) (f : Die → Die) : (s.onDie d f).reps = s.reps := rfl
@[simp] theorem State.onDie_nextWrite (s : State) (d : Nat) (f : Die → Die) : (s.onDie d f).nextWrite = s.nextWrite := rfl
@[simp] theorem State.onDie_dist (s : State) (d : Nat) (f : Die → Die) : (s.onDie d f).dist = s.dist := rfl
@[simp] theorem State.onDie_hwbase (s : State) (d : Nat) (f : Die → Die) : (s.onDie d f).hwbase = s.hwbase := rfl
@[simp] theorem State.onDie_hasid (s : State) (d : Nat) (f : Die → Die) : (s.onDie d f).hasid = s.hasid := rfl
@[simp] theorem State.onDie_hstat (s : State) (d : Nat) (f : Die → Die) : (s.onDie d f).hstat = s.hstat := rfl
@[simp] theorem State.onDie_setNow (s : State) (d : Nat) (f : Die → Die) : (s.onDie d f).setNow = s.setNow := rfl
@[simp] theorem State.onDie_hostDown (s : State) (d : Nat) (f : Die → Die) : (s.onDie d f).hostDown = s.hostDown := rfl
@[simp] theorem State.onDie_stopped (s : State) (d : Nat) (f : Die → Die) : (s.onDie d f).stopped = s.stopped := rfl
@[simp] theorem State.onDie_msix (s : State) (d : Nat) (f : Die → Die) : (s.onDie d f).msix = s.msix := rfl
@[simp] theorem State.onDie_ringing (s : State) (d : Nat) (f : Die → Die) : (s.onDie d f).ringing = s.ringing := rfl
@[simp] theorem State.onDie_answer (s : State) (d : Nat) (f : Die → Die) : (s.onDie d f).answer = s.answer := rfl
@[simp] theorem State.onDie_hostSent (s : State) (d : Nat) (f : Die → Die) : (s.onDie d f).hostSent = s.hostSent := rfl
@[simp] theorem State.onDie_hostWait (s : State) (d : Nat) (f : Die → Die) : (s.onDie d f).hostWait = s.hostWait := rfl
@[simp] theorem State.onDie_inputs (s : State) (d : Nat) (f : Die → Die) : (s.onDie d f).inputs = s.inputs := rfl
@[simp] theorem State.onDist_cycle (s : State) (f : Distributor → Distributor) : (s.onDist f).cycle = s.cycle := rfl
@[simp] theorem State.onDist_cur (s : State) (f : Distributor → Distributor) : (s.onDist f).cur = s.cur := rfl
@[simp] theorem State.onDist_free (s : State) (f : Distributor → Distributor) : (s.onDist f).free = s.free := rfl
@[simp] theorem State.onDist_cores (s : State) (f : Distributor → Distributor) : (s.onDist f).cores = s.cores := rfl
@[simp] theorem State.onDist_dies (s : State) (f : Distributor → Distributor) : (s.onDist f).dies = s.dies := rfl
@[simp] theorem State.onDist_hbm (s : State) (f : Distributor → Distributor) : (s.onDist f).hbm = s.hbm := rfl
@[simp] theorem State.onDist_host (s : State) (f : Distributor → Distributor) : (s.onDist f).host = s.host := rfl
@[simp] theorem State.onDist_pod (s : State) (f : Distributor → Distributor) : (s.onDist f).pod = s.pod := rfl
@[simp] theorem State.onDist_roots (s : State) (f : Distributor → Distributor) : (s.onDist f).roots = s.roots := rfl
@[simp] theorem State.onDist_images (s : State) (f : Distributor → Distributor) : (s.onDist f).images = s.images := rfl
@[simp] theorem State.onDist_ops (s : State) (f : Distributor → Distributor) : (s.onDist f).ops = s.ops := rfl
@[simp] theorem State.onDist_nextOp (s : State) (f : Distributor → Distributor) : (s.onDist f).nextOp = s.nextOp := rfl
@[simp] theorem State.onDist_reps (s : State) (f : Distributor → Distributor) : (s.onDist f).reps = s.reps := rfl
@[simp] theorem State.onDist_nextWrite (s : State) (f : Distributor → Distributor) : (s.onDist f).nextWrite = s.nextWrite := rfl
@[simp] theorem State.onDist_hwbase (s : State) (f : Distributor → Distributor) : (s.onDist f).hwbase = s.hwbase := rfl
@[simp] theorem State.onDist_hasid (s : State) (f : Distributor → Distributor) : (s.onDist f).hasid = s.hasid := rfl
@[simp] theorem State.onDist_hstat (s : State) (f : Distributor → Distributor) : (s.onDist f).hstat = s.hstat := rfl
@[simp] theorem State.onDist_setNow (s : State) (f : Distributor → Distributor) : (s.onDist f).setNow = s.setNow := rfl
@[simp] theorem State.onDist_hostDown (s : State) (f : Distributor → Distributor) : (s.onDist f).hostDown = s.hostDown := rfl
@[simp] theorem State.onDist_stopped (s : State) (f : Distributor → Distributor) : (s.onDist f).stopped = s.stopped := rfl
@[simp] theorem State.onDist_msix (s : State) (f : Distributor → Distributor) : (s.onDist f).msix = s.msix := rfl
@[simp] theorem State.onDist_ringing (s : State) (f : Distributor → Distributor) : (s.onDist f).ringing = s.ringing := rfl
@[simp] theorem State.onDist_answer (s : State) (f : Distributor → Distributor) : (s.onDist f).answer = s.answer := rfl
@[simp] theorem State.onDist_hostSent (s : State) (f : Distributor → Distributor) : (s.onDist f).hostSent = s.hostSent := rfl
@[simp] theorem State.onDist_hostWait (s : State) (f : Distributor → Distributor) : (s.onDist f).hostWait = s.hostWait := rfl
@[simp] theorem State.onDist_inputs (s : State) (f : Distributor → Distributor) : (s.onDist f).inputs = s.inputs := rfl
@[simp] theorem State.draw_cycle (s : State) : s.draw.2.cycle = s.cycle := rfl
@[simp] theorem State.draw_cur (s : State) : s.draw.2.cur = s.cur := rfl
@[simp] theorem State.draw_cores (s : State) : s.draw.2.cores = s.cores := rfl
@[simp] theorem State.draw_dies (s : State) : s.draw.2.dies = s.dies := rfl
@[simp] theorem State.draw_hbm (s : State) : s.draw.2.hbm = s.hbm := rfl
@[simp] theorem State.draw_host (s : State) : s.draw.2.host = s.host := rfl
@[simp] theorem State.draw_pod (s : State) : s.draw.2.pod = s.pod := rfl
@[simp] theorem State.draw_roots (s : State) : s.draw.2.roots = s.roots := rfl
@[simp] theorem State.draw_images (s : State) : s.draw.2.images = s.images := rfl
@[simp] theorem State.draw_ops (s : State) : s.draw.2.ops = s.ops := rfl
@[simp] theorem State.draw_nextOp (s : State) : s.draw.2.nextOp = s.nextOp := rfl
@[simp] theorem State.draw_reps (s : State) : s.draw.2.reps = s.reps := rfl
@[simp] theorem State.draw_nextWrite (s : State) : s.draw.2.nextWrite = s.nextWrite := rfl
@[simp] theorem State.draw_dist (s : State) : s.draw.2.dist = s.dist := rfl
@[simp] theorem State.draw_hwbase (s : State) : s.draw.2.hwbase = s.hwbase := rfl
@[simp] theorem State.draw_hasid (s : State) : s.draw.2.hasid = s.hasid := rfl
@[simp] theorem State.draw_hstat (s : State) : s.draw.2.hstat = s.hstat := rfl
@[simp] theorem State.draw_setNow (s : State) : s.draw.2.setNow = s.setNow := rfl
@[simp] theorem State.draw_hostDown (s : State) : s.draw.2.hostDown = s.hostDown := rfl
@[simp] theorem State.draw_stopped (s : State) : s.draw.2.stopped = s.stopped := rfl
@[simp] theorem State.draw_msix (s : State) : s.draw.2.msix = s.msix := rfl
@[simp] theorem State.draw_ringing (s : State) : s.draw.2.ringing = s.ringing := rfl
@[simp] theorem State.draw_answer (s : State) : s.draw.2.answer = s.answer := rfl
@[simp] theorem State.draw_hostSent (s : State) : s.draw.2.hostSent = s.hostSent := rfl
@[simp] theorem State.draw_hostWait (s : State) : s.draw.2.hostWait = s.hostWait := rfl
@[simp] theorem State.draw_inputs (s : State) : s.draw.2.inputs = s.inputs := rfl
@[simp] theorem State.draw_free (s : State) : s.draw.2.free = s.free + 1 := rfl
@[simp] theorem State.draw_value (s : State) : s.draw.1 = Config.freeNat s.free := rfl
@[simp] theorem State.onDist_dist (s : State) (f : Distributor → Distributor) : (s.onDist f).dist = f s.dist := rfl

/-- A core just set is that core. -/
@[simp] theorem State.core_setCore (s : State) (n : Nat) (c : Core) : (s.setCore n c).core n = c :=
  Store.get_insert_same Core.reset s.cores n c

/-- Setting a core leaves the others. -/
theorem State.core_setCore_ne (s : State) {n k : Nat} (c : Core) (h : k ≠ n) : (s.setCore n c).core k = s.core k :=
  Store.get_insert_ne Core.reset s.cores c h

@[simp] theorem State.core_onCore (s : State) (n : Nat) (f : Core → Core) : (s.onCore n f).core n = f (s.core n) :=
  State.core_setCore s n _

theorem State.core_onCore_ne (s : State) {n k : Nat} (f : Core → Core) (h : k ≠ n) :
    (s.onCore n f).core k = s.core k := State.core_setCore_ne s _ h

@[simp] theorem State.here_onHere (s : State) (f : Core → Core) : (s.onHere f).here = f s.here :=
  State.core_onCore s s.cur f

theorem State.core_onHere_ne (s : State) {k : Nat} (f : Core → Core) (h : k ≠ s.cur) :
    (s.onHere f).core k = s.core k := State.core_onCore_ne s f h

@[simp] theorem State.act_onAct (s : State) (f : Ctx → Ctx) : (s.onAct f).act = f s.act := by
  simp [State.act, State.onAct]

@[simp] theorem State.act_onIss (s : State) (f : Iss → Iss) : (s.onIss f).act = s.act := by
  simp [State.act, State.onIss]

@[simp] theorem State.iss_onIss (s : State) (f : Iss → Iss) : (s.onIss f).here.iss = f s.here.iss := by
  simp [State.onIss]

@[simp] theorem State.die_onDie (s : State) (d : Nat) (f : Die → Die) : (s.onDie d f).die d = f (s.die d) :=
  Store.get_insert_same Die.reset s.dies d _

theorem State.die_onDie_ne (s : State) {d k : Nat} (f : Die → Die) (h : k ≠ d) : (s.onDie d f).die k = s.die k :=
  Store.get_insert_ne Die.reset s.dies _ h

@[simp] theorem State.core_onDie (s : State) (d n : Nat) (f : Die → Die) : (s.onDie d f).core n = s.core n := rfl
@[simp] theorem State.core_onDist (s : State) (n : Nat) (f : Distributor → Distributor) :
    (s.onDist f).core n = s.core n := rfl
@[simp] theorem State.core_draw (s : State) (n : Nat) : s.draw.2.core n = s.core n := rfl
@[simp] theorem State.die_setCore (s : State) (d n : Nat) (c : Core) : (s.setCore n c).die d = s.die d := rfl
@[simp] theorem State.die_onDist (s : State) (d : Nat) (f : Distributor → Distributor) :
    (s.onDist f).die d = s.die d := rfl

/-! ## The core whose slots execute -/

@[simp] theorem State.here_onIss_act (s : State) (f : Iss → Iss) : (s.onIss f).here.act = s.here.act := by
  simp [State.onIss]
@[simp] theorem State.here_onAct_shadow (s : State) (f : Ctx → Ctx) : (s.onAct f).here.shadow = s.here.shadow := by
  simp [State.onAct]
@[simp] theorem State.here_onIss_shadow (s : State) (f : Iss → Iss) : (s.onIss f).here.shadow = s.here.shadow := by
  simp [State.onIss]
@[simp] theorem State.here_onAct_iss (s : State) (f : Ctx → Ctx) : (s.onAct f).here.iss = s.here.iss := by
  simp [State.onAct]
@[simp] theorem State.here_onAct_pool (s : State) (f : Ctx → Ctx) : (s.onAct f).here.pool = s.here.pool := by
  simp [State.onAct]
@[simp] theorem State.here_onIss_pool (s : State) (f : Iss → Iss) : (s.onIss f).here.pool = s.here.pool := by
  simp [State.onIss]
@[simp] theorem State.here_onAct_late (s : State) (f : Ctx → Ctx) : (s.onAct f).here.late = s.here.late := by
  simp [State.onAct]
@[simp] theorem State.here_onIss_late (s : State) (f : Iss → Iss) : (s.onIss f).here.late = s.here.late := by
  simp [State.onIss]
@[simp] theorem State.here_onAct_ports (s : State) (f : Ctx → Ctx) : (s.onAct f).here.ports = s.here.ports := by
  simp [State.onAct]
@[simp] theorem State.here_onIss_ports (s : State) (f : Iss → Iss) : (s.onIss f).here.ports = s.here.ports := by
  simp [State.onIss]
@[simp] theorem State.here_onAct_pushAt (s : State) (f : Ctx → Ctx) : (s.onAct f).here.pushAt = s.here.pushAt := by
  simp [State.onAct]
@[simp] theorem State.here_onIss_pushAt (s : State) (f : Iss → Iss) : (s.onIss f).here.pushAt = s.here.pushAt := by
  simp [State.onIss]
@[simp] theorem State.here_onAct_reserved (s : State) (f : Ctx → Ctx) : (s.onAct f).here.reserved = s.here.reserved := by
  simp [State.onAct]
@[simp] theorem State.here_onIss_reserved (s : State) (f : Iss → Iss) : (s.onIss f).here.reserved = s.here.reserved := by
  simp [State.onIss]
@[simp] theorem State.here_onAct_parity (s : State) (f : Ctx → Ctx) : (s.onAct f).here.parity = s.here.parity := by
  simp [State.onAct]
@[simp] theorem State.here_onIss_parity (s : State) (f : Iss → Iss) : (s.onIss f).here.parity = s.here.parity := by
  simp [State.onIss]
@[simp] theorem State.here_onAct_kpad (s : State) (f : Ctx → Ctx) : (s.onAct f).here.kpad = s.here.kpad := by
  simp [State.onAct]
@[simp] theorem State.here_onIss_kpad (s : State) (f : Iss → Iss) : (s.onIss f).here.kpad = s.here.kpad := by
  simp [State.onIss]
@[simp] theorem State.here_onAct_bstore (s : State) (f : Ctx → Ctx) : (s.onAct f).here.bstore = s.here.bstore := by
  simp [State.onAct]
@[simp] theorem State.here_onIss_bstore (s : State) (f : Iss → Iss) : (s.onIss f).here.bstore = s.here.bstore := by
  simp [State.onIss]
@[simp] theorem State.here_onAct_facets (s : State) (f : Ctx → Ctx) : (s.onAct f).here.facets = s.here.facets := by
  simp [State.onAct]
@[simp] theorem State.here_onIss_facets (s : State) (f : Iss → Iss) : (s.onIss f).here.facets = s.here.facets := by
  simp [State.onIss]
@[simp] theorem State.here_onAct_widths (s : State) (f : Ctx → Ctx) : (s.onAct f).here.widths = s.here.widths := by
  simp [State.onAct]
@[simp] theorem State.here_onIss_widths (s : State) (f : Iss → Iss) : (s.onIss f).here.widths = s.here.widths := by
  simp [State.onIss]
@[simp] theorem State.here_onAct_spill (s : State) (f : Ctx → Ctx) : (s.onAct f).here.spill = s.here.spill := by
  simp [State.onAct]
@[simp] theorem State.here_onIss_spill (s : State) (f : Iss → Iss) : (s.onIss f).here.spill = s.here.spill := by
  simp [State.onIss]
@[simp] theorem State.here_onAct_mx (s : State) (f : Ctx → Ctx) : (s.onAct f).here.mx = s.here.mx := by
  simp [State.onAct]
@[simp] theorem State.here_onIss_mx (s : State) (f : Iss → Iss) : (s.onIss f).here.mx = s.here.mx := by
  simp [State.onIss]
@[simp] theorem State.here_onAct_pane (s : State) (f : Ctx → Ctx) : (s.onAct f).here.pane = s.here.pane := by
  simp [State.onAct]
@[simp] theorem State.here_onIss_pane (s : State) (f : Iss → Iss) : (s.onIss f).here.pane = s.here.pane := by
  simp [State.onIss]
@[simp] theorem State.here_onAct_facet (s : State) (f : Ctx → Ctx) : (s.onAct f).here.facet = s.here.facet := by
  simp [State.onAct]
@[simp] theorem State.here_onIss_facet (s : State) (f : Iss → Iss) : (s.onIss f).here.facet = s.here.facet := by
  simp [State.onIss]
@[simp] theorem State.here_onAct_ssqQueue (s : State) (f : Ctx → Ctx) : (s.onAct f).here.ssqQueue = s.here.ssqQueue := by
  simp [State.onAct]
@[simp] theorem State.here_onIss_ssqQueue (s : State) (f : Iss → Iss) : (s.onIss f).here.ssqQueue = s.here.ssqQueue := by
  simp [State.onIss]
@[simp] theorem State.here_onAct_ssq (s : State) (f : Ctx → Ctx) : (s.onAct f).here.ssq = s.here.ssq := by
  simp [State.onAct]
@[simp] theorem State.here_onIss_ssq (s : State) (f : Iss → Iss) : (s.onIss f).here.ssq = s.here.ssq := by
  simp [State.onIss]
@[simp] theorem State.here_onAct_trap0 (s : State) (f : Ctx → Ctx) : (s.onAct f).here.trap0 = s.here.trap0 := by
  simp [State.onAct]
@[simp] theorem State.here_onIss_trap0 (s : State) (f : Iss → Iss) : (s.onIss f).here.trap0 = s.here.trap0 := by
  simp [State.onIss]
@[simp] theorem State.here_onAct_trap1 (s : State) (f : Ctx → Ctx) : (s.onAct f).here.trap1 = s.here.trap1 := by
  simp [State.onAct]
@[simp] theorem State.here_onIss_trap1 (s : State) (f : Iss → Iss) : (s.onIss f).here.trap1 = s.here.trap1 := by
  simp [State.onIss]
@[simp] theorem State.here_onAct_trapPost (s : State) (f : Ctx → Ctx) : (s.onAct f).here.trapPost = s.here.trapPost := by
  simp [State.onAct]
@[simp] theorem State.here_onIss_trapPost (s : State) (f : Iss → Iss) : (s.onIss f).here.trapPost = s.here.trapPost := by
  simp [State.onIss]
@[simp] theorem State.here_onAct_trapCount (s : State) (f : Ctx → Ctx) : (s.onAct f).here.trapCount = s.here.trapCount := by
  simp [State.onAct]
@[simp] theorem State.here_onIss_trapCount (s : State) (f : Iss → Iss) : (s.onIss f).here.trapCount = s.here.trapCount := by
  simp [State.onIss]
@[simp] theorem State.here_onAct_mpc (s : State) (f : Ctx → Ctx) : (s.onAct f).here.mpc = s.here.mpc := by
  simp [State.onAct]
@[simp] theorem State.here_onIss_mpc (s : State) (f : Iss → Iss) : (s.onIss f).here.mpc = s.here.mpc := by
  simp [State.onIss]
@[simp] theorem State.here_onAct_spadr (s : State) (f : Ctx → Ctx) : (s.onAct f).here.spadr = s.here.spadr := by
  simp [State.onAct]
@[simp] theorem State.here_onIss_spadr (s : State) (f : Iss → Iss) : (s.onIss f).here.spadr = s.here.spadr := by
  simp [State.onIss]
@[simp] theorem State.here_onAct_resumeAt (s : State) (f : Ctx → Ctx) : (s.onAct f).here.resumeAt = s.here.resumeAt := by
  simp [State.onAct]
@[simp] theorem State.here_onIss_resumeAt (s : State) (f : Iss → Iss) : (s.onIss f).here.resumeAt = s.here.resumeAt := by
  simp [State.onIss]
@[simp] theorem State.here_onAct_swapWanted (s : State) (f : Ctx → Ctx) : (s.onAct f).here.swapWanted = s.here.swapWanted := by
  simp [State.onAct]
@[simp] theorem State.here_onIss_swapWanted (s : State) (f : Iss → Iss) : (s.onIss f).here.swapWanted = s.here.swapWanted := by
  simp [State.onIss]
@[simp] theorem State.here_onAct_swapEnd (s : State) (f : Ctx → Ctx) : (s.onAct f).here.swapEnd = s.here.swapEnd := by
  simp [State.onAct]
@[simp] theorem State.here_onIss_swapEnd (s : State) (f : Iss → Iss) : (s.onIss f).here.swapEnd = s.here.swapEnd := by
  simp [State.onIss]
@[simp] theorem State.here_onAct_saved (s : State) (f : Ctx → Ctx) : (s.onAct f).here.saved = s.here.saved := by
  simp [State.onAct]
@[simp] theorem State.here_onIss_saved (s : State) (f : Iss → Iss) : (s.onIss f).here.saved = s.here.saved := by
  simp [State.onIss]

/-! ## A context -/

@[simp] theorem Ctx.addLanding_cid (x : Ctx) (l : Landing) : (x.addLanding l).cid = x.cid := rfl
@[simp] theorem Ctx.addLanding_regs (x : Ctx) (l : Landing) : (x.addLanding l).regs = x.regs := rfl
@[simp] theorem Ctx.addLanding_marks (x : Ctx) (l : Landing) : (x.addLanding l).marks = x.marks := rfl
@[simp] theorem Ctx.addLanding_gate (x : Ctx) (l : Landing) : (x.addLanding l).gate = x.gate := rfl
@[simp] theorem Ctx.addLanding_ghosts (x : Ctx) (l : Landing) : (x.addLanding l).ghosts = x.ghosts := rfl
@[simp] theorem Ctx.addLanding_seq (x : Ctx) (l : Landing) : (x.addLanding l).seq = x.seq := rfl
@[simp] theorem Ctx.addLanding_nextAt (x : Ctx) (l : Landing) : (x.addLanding l).nextAt = x.nextAt := rfl
@[simp] theorem Ctx.addLanding_loadAt (x : Ctx) (l : Landing) : (x.addLanding l).loadAt = x.loadAt := rfl
@[simp] theorem Ctx.addLanding_waits (x : Ctx) (l : Landing) : (x.addLanding l).waits = x.waits := rfl
@[simp] theorem Ctx.addLanding_sinceMark (x : Ctx) (l : Landing) : (x.addLanding l).sinceMark = x.sinceMark := rfl
@[simp] theorem Ctx.addLanding_code (x : Ctx) (l : Landing) : (x.addLanding l).code = x.code := rfl
@[simp] theorem Ctx.addLanding_dict (x : Ctx) (l : Landing) : (x.addLanding l).dict = x.dict := rfl
@[simp] theorem Ctx.addLanding_micro (x : Ctx) (l : Landing) : (x.addLanding l).micro = x.micro := rfl
@[simp] theorem Ctx.addLanding_partition (x : Ctx) (l : Landing) : (x.addLanding l).partition = x.partition := rfl
@[simp] theorem Ctx.addLanding_codeWin (x : Ctx) (l : Landing) : (x.addLanding l).codeWin = x.codeWin := rfl
@[simp] theorem Ctx.addLanding_taskBlk (x : Ctx) (l : Landing) : (x.addLanding l).taskBlk = x.taskBlk := rfl
@[simp] theorem Ctx.addLanding_fmt (x : Ctx) (l : Landing) : (x.addLanding l).fmt = x.fmt := rfl
@[simp] theorem Ctx.addLanding_fmtSel (x : Ctx) (l : Landing) : (x.addLanding l).fmtSel = x.fmtSel := rfl
@[simp] theorem Ctx.addLanding_fstat (x : Ctx) (l : Landing) : (x.addLanding l).fstat = x.fstat := rfl
@[simp] theorem Ctx.addLanding_fresh (x : Ctx) (l : Landing) : (x.addLanding l).fresh = x.fresh := rfl
@[simp] theorem Ctx.addLanding_cstat (x : Ctx) (l : Landing) : (x.addLanding l).cstat = x.cstat := rfl
@[simp] theorem Ctx.addLanding_bcnt (x : Ctx) (l : Landing) : (x.addLanding l).bcnt = x.bcnt := rfl
@[simp] theorem Ctx.addLanding_tl (x : Ctx) (l : Landing) : (x.addLanding l).tl = x.tl := rfl
@[simp] theorem Ctx.addLanding_comps (x : Ctx) (l : Landing) : (x.addLanding l).comps = x.comps := rfl
@[simp] theorem Ctx.addLanding_clocks (x : Ctx) (l : Landing) : (x.addLanding l).clocks = x.clocks := rfl
@[simp] theorem Ctx.addLanding_dnan (x : Ctx) (l : Landing) : (x.addLanding l).dnan = x.dnan := rfl
@[simp] theorem Ctx.addLanding_dpend (x : Ctx) (l : Landing) : (x.addLanding l).dpend = x.dpend := rfl
@[simp] theorem Ctx.addLanding_dlog (x : Ctx) (l : Landing) : (x.addLanding l).dlog = x.dlog := rfl
@[simp] theorem Ctx.addLanding_sh0 (x : Ctx) (l : Landing) : (x.addLanding l).sh0 = x.sh0 := rfl
@[simp] theorem Ctx.addLanding_sh1 (x : Ctx) (l : Landing) : (x.addLanding l).sh1 = x.sh1 := rfl
@[simp] theorem Ctx.addLanding_bx (x : Ctx) (l : Landing) : (x.addLanding l).bx = x.bx := rfl
@[simp] theorem Ctx.addLanding_fpuHold (x : Ctx) (l : Landing) : (x.addLanding l).fpuHold = x.fpuHold := rfl
@[simp] theorem Ctx.addLanding_svc (x : Ctx) (l : Landing) : (x.addLanding l).svc = x.svc := rfl
@[simp] theorem Ctx.addLanding_skips (x : Ctx) (l : Landing) : (x.addLanding l).skips = x.skips := rfl
@[simp] theorem Ctx.addLanding_tried (x : Ctx) (l : Landing) : (x.addLanding l).tried = x.tried := rfl
@[simp] theorem Ctx.addLanding_yield (x : Ctx) (l : Landing) : (x.addLanding l).yield = x.yield := rfl
@[simp] theorem Ctx.addLanding_trap (x : Ctx) (l : Landing) : (x.addLanding l).trap = x.trap := rfl
@[simp] theorem Ctx.addLanding_fp (x : Ctx) (l : Landing) : (x.addLanding l).fp = x.fp := rfl
@[simp] theorem Ctx.addLanding_held (x : Ctx) (l : Landing) : (x.addLanding l).held = x.held := rfl
@[simp] theorem Ctx.addLanding_barriers (x : Ctx) (l : Landing) : (x.addLanding l).barriers = x.barriers := rfl
@[simp] theorem Ctx.addLanding_binds (x : Ctx) (l : Landing) : (x.addLanding l).binds = x.binds := rfl
@[simp] theorem Ctx.addLanding_ssu (x : Ctx) (l : Landing) : (x.addLanding l).ssu = x.ssu := rfl
@[simp] theorem Ctx.addLanding_bankBase (x : Ctx) (l : Landing) : (x.addLanding l).bankBase = x.bankBase := rfl
@[simp] theorem Ctx.addLanding_heldSince (x : Ctx) (l : Landing) : (x.addLanding l).heldSince = x.heldSince := rfl
@[simp] theorem Ctx.addLanding_heldPop (x : Ctx) (l : Landing) : (x.addLanding l).heldPop = x.heldPop := rfl
@[simp] theorem Ctx.addLanding_transferred (x : Ctx) (l : Landing) : (x.addLanding l).transferred = x.transferred := rfl
@[simp] theorem Ctx.addLanding_asked (x : Ctx) (l : Landing) : (x.addLanding l).asked = x.asked := rfl
@[simp] theorem Ctx.addLanding_phase (x : Ctx) (l : Landing) : (x.addLanding l).phase = x.phase := rfl
@[simp] theorem Ctx.addLanding_task (x : Ctx) (l : Landing) : (x.addLanding l).task = x.task := rfl
@[simp] theorem Ctx.setCstat_cid (x : Ctx) (b : Nat) : (x.setCstat b).cid = x.cid := rfl
@[simp] theorem Ctx.setCstat_regs (x : Ctx) (b : Nat) : (x.setCstat b).regs = x.regs := rfl
@[simp] theorem Ctx.setCstat_marks (x : Ctx) (b : Nat) : (x.setCstat b).marks = x.marks := rfl
@[simp] theorem Ctx.setCstat_pend (x : Ctx) (b : Nat) : (x.setCstat b).pend = x.pend := rfl
@[simp] theorem Ctx.setCstat_gate (x : Ctx) (b : Nat) : (x.setCstat b).gate = x.gate := rfl
@[simp] theorem Ctx.setCstat_ghosts (x : Ctx) (b : Nat) : (x.setCstat b).ghosts = x.ghosts := rfl
@[simp] theorem Ctx.setCstat_seq (x : Ctx) (b : Nat) : (x.setCstat b).seq = x.seq := rfl
@[simp] theorem Ctx.setCstat_nextAt (x : Ctx) (b : Nat) : (x.setCstat b).nextAt = x.nextAt := rfl
@[simp] theorem Ctx.setCstat_loadAt (x : Ctx) (b : Nat) : (x.setCstat b).loadAt = x.loadAt := rfl
@[simp] theorem Ctx.setCstat_waits (x : Ctx) (b : Nat) : (x.setCstat b).waits = x.waits := rfl
@[simp] theorem Ctx.setCstat_sinceMark (x : Ctx) (b : Nat) : (x.setCstat b).sinceMark = x.sinceMark := rfl
@[simp] theorem Ctx.setCstat_code (x : Ctx) (b : Nat) : (x.setCstat b).code = x.code := rfl
@[simp] theorem Ctx.setCstat_dict (x : Ctx) (b : Nat) : (x.setCstat b).dict = x.dict := rfl
@[simp] theorem Ctx.setCstat_micro (x : Ctx) (b : Nat) : (x.setCstat b).micro = x.micro := rfl
@[simp] theorem Ctx.setCstat_partition (x : Ctx) (b : Nat) : (x.setCstat b).partition = x.partition := rfl
@[simp] theorem Ctx.setCstat_codeWin (x : Ctx) (b : Nat) : (x.setCstat b).codeWin = x.codeWin := rfl
@[simp] theorem Ctx.setCstat_taskBlk (x : Ctx) (b : Nat) : (x.setCstat b).taskBlk = x.taskBlk := rfl
@[simp] theorem Ctx.setCstat_fmt (x : Ctx) (b : Nat) : (x.setCstat b).fmt = x.fmt := rfl
@[simp] theorem Ctx.setCstat_fmtSel (x : Ctx) (b : Nat) : (x.setCstat b).fmtSel = x.fmtSel := rfl
@[simp] theorem Ctx.setCstat_fstat (x : Ctx) (b : Nat) : (x.setCstat b).fstat = x.fstat := rfl
@[simp] theorem Ctx.setCstat_bcnt (x : Ctx) (b : Nat) : (x.setCstat b).bcnt = x.bcnt := rfl
@[simp] theorem Ctx.setCstat_tl (x : Ctx) (b : Nat) : (x.setCstat b).tl = x.tl := rfl
@[simp] theorem Ctx.setCstat_comps (x : Ctx) (b : Nat) : (x.setCstat b).comps = x.comps := rfl
@[simp] theorem Ctx.setCstat_clocks (x : Ctx) (b : Nat) : (x.setCstat b).clocks = x.clocks := rfl
@[simp] theorem Ctx.setCstat_dnan (x : Ctx) (b : Nat) : (x.setCstat b).dnan = x.dnan := rfl
@[simp] theorem Ctx.setCstat_dpend (x : Ctx) (b : Nat) : (x.setCstat b).dpend = x.dpend := rfl
@[simp] theorem Ctx.setCstat_dlog (x : Ctx) (b : Nat) : (x.setCstat b).dlog = x.dlog := rfl
@[simp] theorem Ctx.setCstat_sh0 (x : Ctx) (b : Nat) : (x.setCstat b).sh0 = x.sh0 := rfl
@[simp] theorem Ctx.setCstat_sh1 (x : Ctx) (b : Nat) : (x.setCstat b).sh1 = x.sh1 := rfl
@[simp] theorem Ctx.setCstat_bx (x : Ctx) (b : Nat) : (x.setCstat b).bx = x.bx := rfl
@[simp] theorem Ctx.setCstat_fpuHold (x : Ctx) (b : Nat) : (x.setCstat b).fpuHold = x.fpuHold := rfl
@[simp] theorem Ctx.setCstat_svc (x : Ctx) (b : Nat) : (x.setCstat b).svc = x.svc := rfl
@[simp] theorem Ctx.setCstat_skips (x : Ctx) (b : Nat) : (x.setCstat b).skips = x.skips := rfl
@[simp] theorem Ctx.setCstat_tried (x : Ctx) (b : Nat) : (x.setCstat b).tried = x.tried := rfl
@[simp] theorem Ctx.setCstat_yield (x : Ctx) (b : Nat) : (x.setCstat b).yield = x.yield := rfl
@[simp] theorem Ctx.setCstat_trap (x : Ctx) (b : Nat) : (x.setCstat b).trap = x.trap := rfl
@[simp] theorem Ctx.setCstat_fp (x : Ctx) (b : Nat) : (x.setCstat b).fp = x.fp := rfl
@[simp] theorem Ctx.setCstat_held (x : Ctx) (b : Nat) : (x.setCstat b).held = x.held := rfl
@[simp] theorem Ctx.setCstat_barriers (x : Ctx) (b : Nat) : (x.setCstat b).barriers = x.barriers := rfl
@[simp] theorem Ctx.setCstat_binds (x : Ctx) (b : Nat) : (x.setCstat b).binds = x.binds := rfl
@[simp] theorem Ctx.setCstat_ssu (x : Ctx) (b : Nat) : (x.setCstat b).ssu = x.ssu := rfl
@[simp] theorem Ctx.setCstat_bankBase (x : Ctx) (b : Nat) : (x.setCstat b).bankBase = x.bankBase := rfl
@[simp] theorem Ctx.setCstat_heldSince (x : Ctx) (b : Nat) : (x.setCstat b).heldSince = x.heldSince := rfl
@[simp] theorem Ctx.setCstat_heldPop (x : Ctx) (b : Nat) : (x.setCstat b).heldPop = x.heldPop := rfl
@[simp] theorem Ctx.setCstat_transferred (x : Ctx) (b : Nat) : (x.setCstat b).transferred = x.transferred := rfl
@[simp] theorem Ctx.setCstat_asked (x : Ctx) (b : Nat) : (x.setCstat b).asked = x.asked := rfl
@[simp] theorem Ctx.setCstat_phase (x : Ctx) (b : Nat) : (x.setCstat b).phase = x.phase := rfl
@[simp] theorem Ctx.setCstat_task (x : Ctx) (b : Nat) : (x.setCstat b).task = x.task := rfl
@[simp] theorem Ctx.takeMark_cid (x : Ctx) (n : Nat) : (x.takeMark n).cid = x.cid := rfl
@[simp] theorem Ctx.takeMark_regs (x : Ctx) (n : Nat) : (x.takeMark n).regs = x.regs := rfl
@[simp] theorem Ctx.takeMark_pend (x : Ctx) (n : Nat) : (x.takeMark n).pend = x.pend := rfl
@[simp] theorem Ctx.takeMark_gate (x : Ctx) (n : Nat) : (x.takeMark n).gate = x.gate := rfl
@[simp] theorem Ctx.takeMark_ghosts (x : Ctx) (n : Nat) : (x.takeMark n).ghosts = x.ghosts := rfl
@[simp] theorem Ctx.takeMark_seq (x : Ctx) (n : Nat) : (x.takeMark n).seq = x.seq := rfl
@[simp] theorem Ctx.takeMark_nextAt (x : Ctx) (n : Nat) : (x.takeMark n).nextAt = x.nextAt := rfl
@[simp] theorem Ctx.takeMark_loadAt (x : Ctx) (n : Nat) : (x.takeMark n).loadAt = x.loadAt := rfl
@[simp] theorem Ctx.takeMark_waits (x : Ctx) (n : Nat) : (x.takeMark n).waits = x.waits := rfl
@[simp] theorem Ctx.takeMark_code (x : Ctx) (n : Nat) : (x.takeMark n).code = x.code := rfl
@[simp] theorem Ctx.takeMark_dict (x : Ctx) (n : Nat) : (x.takeMark n).dict = x.dict := rfl
@[simp] theorem Ctx.takeMark_micro (x : Ctx) (n : Nat) : (x.takeMark n).micro = x.micro := rfl
@[simp] theorem Ctx.takeMark_partition (x : Ctx) (n : Nat) : (x.takeMark n).partition = x.partition := rfl
@[simp] theorem Ctx.takeMark_codeWin (x : Ctx) (n : Nat) : (x.takeMark n).codeWin = x.codeWin := rfl
@[simp] theorem Ctx.takeMark_taskBlk (x : Ctx) (n : Nat) : (x.takeMark n).taskBlk = x.taskBlk := rfl
@[simp] theorem Ctx.takeMark_fmt (x : Ctx) (n : Nat) : (x.takeMark n).fmt = x.fmt := rfl
@[simp] theorem Ctx.takeMark_fmtSel (x : Ctx) (n : Nat) : (x.takeMark n).fmtSel = x.fmtSel := rfl
@[simp] theorem Ctx.takeMark_fstat (x : Ctx) (n : Nat) : (x.takeMark n).fstat = x.fstat := rfl
@[simp] theorem Ctx.takeMark_fresh (x : Ctx) (n : Nat) : (x.takeMark n).fresh = x.fresh := rfl
@[simp] theorem Ctx.takeMark_cstat (x : Ctx) (n : Nat) : (x.takeMark n).cstat = x.cstat := rfl
@[simp] theorem Ctx.takeMark_bcnt (x : Ctx) (n : Nat) : (x.takeMark n).bcnt = x.bcnt := rfl
@[simp] theorem Ctx.takeMark_tl (x : Ctx) (n : Nat) : (x.takeMark n).tl = x.tl := rfl
@[simp] theorem Ctx.takeMark_comps (x : Ctx) (n : Nat) : (x.takeMark n).comps = x.comps := rfl
@[simp] theorem Ctx.takeMark_clocks (x : Ctx) (n : Nat) : (x.takeMark n).clocks = x.clocks := rfl
@[simp] theorem Ctx.takeMark_dnan (x : Ctx) (n : Nat) : (x.takeMark n).dnan = x.dnan := rfl
@[simp] theorem Ctx.takeMark_dpend (x : Ctx) (n : Nat) : (x.takeMark n).dpend = x.dpend := rfl
@[simp] theorem Ctx.takeMark_dlog (x : Ctx) (n : Nat) : (x.takeMark n).dlog = x.dlog := rfl
@[simp] theorem Ctx.takeMark_sh0 (x : Ctx) (n : Nat) : (x.takeMark n).sh0 = x.sh0 := rfl
@[simp] theorem Ctx.takeMark_sh1 (x : Ctx) (n : Nat) : (x.takeMark n).sh1 = x.sh1 := rfl
@[simp] theorem Ctx.takeMark_bx (x : Ctx) (n : Nat) : (x.takeMark n).bx = x.bx := rfl
@[simp] theorem Ctx.takeMark_fpuHold (x : Ctx) (n : Nat) : (x.takeMark n).fpuHold = x.fpuHold := rfl
@[simp] theorem Ctx.takeMark_svc (x : Ctx) (n : Nat) : (x.takeMark n).svc = x.svc := rfl
@[simp] theorem Ctx.takeMark_skips (x : Ctx) (n : Nat) : (x.takeMark n).skips = x.skips := rfl
@[simp] theorem Ctx.takeMark_tried (x : Ctx) (n : Nat) : (x.takeMark n).tried = x.tried := rfl
@[simp] theorem Ctx.takeMark_yield (x : Ctx) (n : Nat) : (x.takeMark n).yield = x.yield := rfl
@[simp] theorem Ctx.takeMark_trap (x : Ctx) (n : Nat) : (x.takeMark n).trap = x.trap := rfl
@[simp] theorem Ctx.takeMark_fp (x : Ctx) (n : Nat) : (x.takeMark n).fp = x.fp := rfl
@[simp] theorem Ctx.takeMark_held (x : Ctx) (n : Nat) : (x.takeMark n).held = x.held := rfl
@[simp] theorem Ctx.takeMark_barriers (x : Ctx) (n : Nat) : (x.takeMark n).barriers = x.barriers := rfl
@[simp] theorem Ctx.takeMark_binds (x : Ctx) (n : Nat) : (x.takeMark n).binds = x.binds := rfl
@[simp] theorem Ctx.takeMark_ssu (x : Ctx) (n : Nat) : (x.takeMark n).ssu = x.ssu := rfl
@[simp] theorem Ctx.takeMark_bankBase (x : Ctx) (n : Nat) : (x.takeMark n).bankBase = x.bankBase := rfl
@[simp] theorem Ctx.takeMark_heldSince (x : Ctx) (n : Nat) : (x.takeMark n).heldSince = x.heldSince := rfl
@[simp] theorem Ctx.takeMark_heldPop (x : Ctx) (n : Nat) : (x.takeMark n).heldPop = x.heldPop := rfl
@[simp] theorem Ctx.takeMark_transferred (x : Ctx) (n : Nat) : (x.takeMark n).transferred = x.transferred := rfl
@[simp] theorem Ctx.takeMark_asked (x : Ctx) (n : Nat) : (x.takeMark n).asked = x.asked := rfl
@[simp] theorem Ctx.takeMark_phase (x : Ctx) (n : Nat) : (x.takeMark n).phase = x.phase := rfl
@[simp] theorem Ctx.takeMark_task (x : Ctx) (n : Nat) : (x.takeMark n).task = x.task := rfl
@[simp] theorem Ctx.landEngine_cid (x : Ctx) (q p d : Nat) (e : Eff) : (x.landEngine q p d e).cid = x.cid := rfl
@[simp] theorem Ctx.landEngine_regs (x : Ctx) (q p d : Nat) (e : Eff) : (x.landEngine q p d e).regs = x.regs := rfl
@[simp] theorem Ctx.landEngine_marks (x : Ctx) (q p d : Nat) (e : Eff) : (x.landEngine q p d e).marks = x.marks := rfl
@[simp] theorem Ctx.landEngine_gate (x : Ctx) (q p d : Nat) (e : Eff) : (x.landEngine q p d e).gate = x.gate := rfl
@[simp] theorem Ctx.landEngine_ghosts (x : Ctx) (q p d : Nat) (e : Eff) : (x.landEngine q p d e).ghosts = x.ghosts := rfl
@[simp] theorem Ctx.landEngine_seq (x : Ctx) (q p d : Nat) (e : Eff) : (x.landEngine q p d e).seq = x.seq := rfl
@[simp] theorem Ctx.landEngine_nextAt (x : Ctx) (q p d : Nat) (e : Eff) : (x.landEngine q p d e).nextAt = x.nextAt := rfl
@[simp] theorem Ctx.landEngine_loadAt (x : Ctx) (q p d : Nat) (e : Eff) : (x.landEngine q p d e).loadAt = x.loadAt := rfl
@[simp] theorem Ctx.landEngine_waits (x : Ctx) (q p d : Nat) (e : Eff) : (x.landEngine q p d e).waits = x.waits := rfl
@[simp] theorem Ctx.landEngine_sinceMark (x : Ctx) (q p d : Nat) (e : Eff) : (x.landEngine q p d e).sinceMark = x.sinceMark := rfl
@[simp] theorem Ctx.landEngine_code (x : Ctx) (q p d : Nat) (e : Eff) : (x.landEngine q p d e).code = x.code := rfl
@[simp] theorem Ctx.landEngine_dict (x : Ctx) (q p d : Nat) (e : Eff) : (x.landEngine q p d e).dict = x.dict := rfl
@[simp] theorem Ctx.landEngine_micro (x : Ctx) (q p d : Nat) (e : Eff) : (x.landEngine q p d e).micro = x.micro := rfl
@[simp] theorem Ctx.landEngine_partition (x : Ctx) (q p d : Nat) (e : Eff) : (x.landEngine q p d e).partition = x.partition := rfl
@[simp] theorem Ctx.landEngine_codeWin (x : Ctx) (q p d : Nat) (e : Eff) : (x.landEngine q p d e).codeWin = x.codeWin := rfl
@[simp] theorem Ctx.landEngine_taskBlk (x : Ctx) (q p d : Nat) (e : Eff) : (x.landEngine q p d e).taskBlk = x.taskBlk := rfl
@[simp] theorem Ctx.landEngine_fmt (x : Ctx) (q p d : Nat) (e : Eff) : (x.landEngine q p d e).fmt = x.fmt := rfl
@[simp] theorem Ctx.landEngine_fmtSel (x : Ctx) (q p d : Nat) (e : Eff) : (x.landEngine q p d e).fmtSel = x.fmtSel := rfl
@[simp] theorem Ctx.landEngine_fstat (x : Ctx) (q p d : Nat) (e : Eff) : (x.landEngine q p d e).fstat = x.fstat := rfl
@[simp] theorem Ctx.landEngine_fresh (x : Ctx) (q p d : Nat) (e : Eff) : (x.landEngine q p d e).fresh = x.fresh := rfl
@[simp] theorem Ctx.landEngine_cstat (x : Ctx) (q p d : Nat) (e : Eff) : (x.landEngine q p d e).cstat = x.cstat := rfl
@[simp] theorem Ctx.landEngine_bcnt (x : Ctx) (q p d : Nat) (e : Eff) : (x.landEngine q p d e).bcnt = x.bcnt := rfl
@[simp] theorem Ctx.landEngine_tl (x : Ctx) (q p d : Nat) (e : Eff) : (x.landEngine q p d e).tl = x.tl := rfl
@[simp] theorem Ctx.landEngine_comps (x : Ctx) (q p d : Nat) (e : Eff) : (x.landEngine q p d e).comps = x.comps := rfl
@[simp] theorem Ctx.landEngine_clocks (x : Ctx) (q p d : Nat) (e : Eff) : (x.landEngine q p d e).clocks = x.clocks := rfl
@[simp] theorem Ctx.landEngine_dnan (x : Ctx) (q p d : Nat) (e : Eff) : (x.landEngine q p d e).dnan = x.dnan := rfl
@[simp] theorem Ctx.landEngine_dpend (x : Ctx) (q p d : Nat) (e : Eff) : (x.landEngine q p d e).dpend = x.dpend := rfl
@[simp] theorem Ctx.landEngine_dlog (x : Ctx) (q p d : Nat) (e : Eff) : (x.landEngine q p d e).dlog = x.dlog := rfl
@[simp] theorem Ctx.landEngine_sh0 (x : Ctx) (q p d : Nat) (e : Eff) : (x.landEngine q p d e).sh0 = x.sh0 := rfl
@[simp] theorem Ctx.landEngine_sh1 (x : Ctx) (q p d : Nat) (e : Eff) : (x.landEngine q p d e).sh1 = x.sh1 := rfl
@[simp] theorem Ctx.landEngine_bx (x : Ctx) (q p d : Nat) (e : Eff) : (x.landEngine q p d e).bx = x.bx := rfl
@[simp] theorem Ctx.landEngine_fpuHold (x : Ctx) (q p d : Nat) (e : Eff) : (x.landEngine q p d e).fpuHold = x.fpuHold := rfl
@[simp] theorem Ctx.landEngine_svc (x : Ctx) (q p d : Nat) (e : Eff) : (x.landEngine q p d e).svc = x.svc := rfl
@[simp] theorem Ctx.landEngine_skips (x : Ctx) (q p d : Nat) (e : Eff) : (x.landEngine q p d e).skips = x.skips := rfl
@[simp] theorem Ctx.landEngine_tried (x : Ctx) (q p d : Nat) (e : Eff) : (x.landEngine q p d e).tried = x.tried := rfl
@[simp] theorem Ctx.landEngine_yield (x : Ctx) (q p d : Nat) (e : Eff) : (x.landEngine q p d e).yield = x.yield := rfl
@[simp] theorem Ctx.landEngine_trap (x : Ctx) (q p d : Nat) (e : Eff) : (x.landEngine q p d e).trap = x.trap := rfl
@[simp] theorem Ctx.landEngine_fp (x : Ctx) (q p d : Nat) (e : Eff) : (x.landEngine q p d e).fp = x.fp := rfl
@[simp] theorem Ctx.landEngine_held (x : Ctx) (q p d : Nat) (e : Eff) : (x.landEngine q p d e).held = x.held := rfl
@[simp] theorem Ctx.landEngine_barriers (x : Ctx) (q p d : Nat) (e : Eff) : (x.landEngine q p d e).barriers = x.barriers := rfl
@[simp] theorem Ctx.landEngine_binds (x : Ctx) (q p d : Nat) (e : Eff) : (x.landEngine q p d e).binds = x.binds := rfl
@[simp] theorem Ctx.landEngine_ssu (x : Ctx) (q p d : Nat) (e : Eff) : (x.landEngine q p d e).ssu = x.ssu := rfl
@[simp] theorem Ctx.landEngine_bankBase (x : Ctx) (q p d : Nat) (e : Eff) : (x.landEngine q p d e).bankBase = x.bankBase := rfl
@[simp] theorem Ctx.landEngine_heldSince (x : Ctx) (q p d : Nat) (e : Eff) : (x.landEngine q p d e).heldSince = x.heldSince := rfl
@[simp] theorem Ctx.landEngine_heldPop (x : Ctx) (q p d : Nat) (e : Eff) : (x.landEngine q p d e).heldPop = x.heldPop := rfl
@[simp] theorem Ctx.landEngine_transferred (x : Ctx) (q p d : Nat) (e : Eff) : (x.landEngine q p d e).transferred = x.transferred := rfl
@[simp] theorem Ctx.landEngine_asked (x : Ctx) (q p d : Nat) (e : Eff) : (x.landEngine q p d e).asked = x.asked := rfl
@[simp] theorem Ctx.landEngine_phase (x : Ctx) (q p d : Nat) (e : Eff) : (x.landEngine q p d e).phase = x.phase := rfl
@[simp] theorem Ctx.landEngine_task (x : Ctx) (q p d : Nat) (e : Eff) : (x.landEngine q p d e).task = x.task := rfl
@[simp] theorem Ctx.number_cid (x : Ctx) (n : Nat) : (x.number n).cid = x.cid := rfl
@[simp] theorem Ctx.number_regs (x : Ctx) (n : Nat) : (x.number n).regs = x.regs := rfl
@[simp] theorem Ctx.number_marks (x : Ctx) (n : Nat) : (x.number n).marks = x.marks := rfl
@[simp] theorem Ctx.number_pend (x : Ctx) (n : Nat) : (x.number n).pend = x.pend := rfl
@[simp] theorem Ctx.number_gate (x : Ctx) (n : Nat) : (x.number n).gate = x.gate := rfl
@[simp] theorem Ctx.number_ghosts (x : Ctx) (n : Nat) : (x.number n).ghosts = x.ghosts := rfl
@[simp] theorem Ctx.number_seq (x : Ctx) (n : Nat) : (x.number n).seq = x.seq := rfl
@[simp] theorem Ctx.number_nextAt (x : Ctx) (n : Nat) : (x.number n).nextAt = x.nextAt := rfl
@[simp] theorem Ctx.number_loadAt (x : Ctx) (n : Nat) : (x.number n).loadAt = x.loadAt := rfl
@[simp] theorem Ctx.number_waits (x : Ctx) (n : Nat) : (x.number n).waits = x.waits := rfl
@[simp] theorem Ctx.number_sinceMark (x : Ctx) (n : Nat) : (x.number n).sinceMark = x.sinceMark := rfl
@[simp] theorem Ctx.number_code (x : Ctx) (n : Nat) : (x.number n).code = x.code := rfl
@[simp] theorem Ctx.number_dict (x : Ctx) (n : Nat) : (x.number n).dict = x.dict := rfl
@[simp] theorem Ctx.number_micro (x : Ctx) (n : Nat) : (x.number n).micro = x.micro := rfl
@[simp] theorem Ctx.number_partition (x : Ctx) (n : Nat) : (x.number n).partition = x.partition := rfl
@[simp] theorem Ctx.number_codeWin (x : Ctx) (n : Nat) : (x.number n).codeWin = x.codeWin := rfl
@[simp] theorem Ctx.number_taskBlk (x : Ctx) (n : Nat) : (x.number n).taskBlk = x.taskBlk := rfl
@[simp] theorem Ctx.number_fmt (x : Ctx) (n : Nat) : (x.number n).fmt = x.fmt := rfl
@[simp] theorem Ctx.number_fmtSel (x : Ctx) (n : Nat) : (x.number n).fmtSel = x.fmtSel := rfl
@[simp] theorem Ctx.number_fstat (x : Ctx) (n : Nat) : (x.number n).fstat = x.fstat := rfl
@[simp] theorem Ctx.number_fresh (x : Ctx) (n : Nat) : (x.number n).fresh = x.fresh := rfl
@[simp] theorem Ctx.number_cstat (x : Ctx) (n : Nat) : (x.number n).cstat = x.cstat := rfl
@[simp] theorem Ctx.number_bcnt (x : Ctx) (n : Nat) : (x.number n).bcnt = x.bcnt := rfl
@[simp] theorem Ctx.number_comps (x : Ctx) (n : Nat) : (x.number n).comps = x.comps := rfl
@[simp] theorem Ctx.number_clocks (x : Ctx) (n : Nat) : (x.number n).clocks = x.clocks := rfl
@[simp] theorem Ctx.number_dnan (x : Ctx) (n : Nat) : (x.number n).dnan = x.dnan := rfl
@[simp] theorem Ctx.number_dpend (x : Ctx) (n : Nat) : (x.number n).dpend = x.dpend := rfl
@[simp] theorem Ctx.number_dlog (x : Ctx) (n : Nat) : (x.number n).dlog = x.dlog := rfl
@[simp] theorem Ctx.number_sh0 (x : Ctx) (n : Nat) : (x.number n).sh0 = x.sh0 := rfl
@[simp] theorem Ctx.number_sh1 (x : Ctx) (n : Nat) : (x.number n).sh1 = x.sh1 := rfl
@[simp] theorem Ctx.number_bx (x : Ctx) (n : Nat) : (x.number n).bx = x.bx := rfl
@[simp] theorem Ctx.number_fpuHold (x : Ctx) (n : Nat) : (x.number n).fpuHold = x.fpuHold := rfl
@[simp] theorem Ctx.number_svc (x : Ctx) (n : Nat) : (x.number n).svc = x.svc := rfl
@[simp] theorem Ctx.number_skips (x : Ctx) (n : Nat) : (x.number n).skips = x.skips := rfl
@[simp] theorem Ctx.number_tried (x : Ctx) (n : Nat) : (x.number n).tried = x.tried := rfl
@[simp] theorem Ctx.number_yield (x : Ctx) (n : Nat) : (x.number n).yield = x.yield := rfl
@[simp] theorem Ctx.number_trap (x : Ctx) (n : Nat) : (x.number n).trap = x.trap := rfl
@[simp] theorem Ctx.number_fp (x : Ctx) (n : Nat) : (x.number n).fp = x.fp := rfl
@[simp] theorem Ctx.number_held (x : Ctx) (n : Nat) : (x.number n).held = x.held := rfl
@[simp] theorem Ctx.number_barriers (x : Ctx) (n : Nat) : (x.number n).barriers = x.barriers := rfl
@[simp] theorem Ctx.number_binds (x : Ctx) (n : Nat) : (x.number n).binds = x.binds := rfl
@[simp] theorem Ctx.number_ssu (x : Ctx) (n : Nat) : (x.number n).ssu = x.ssu := rfl
@[simp] theorem Ctx.number_bankBase (x : Ctx) (n : Nat) : (x.number n).bankBase = x.bankBase := rfl
@[simp] theorem Ctx.number_heldSince (x : Ctx) (n : Nat) : (x.number n).heldSince = x.heldSince := rfl
@[simp] theorem Ctx.number_heldPop (x : Ctx) (n : Nat) : (x.number n).heldPop = x.heldPop := rfl
@[simp] theorem Ctx.number_transferred (x : Ctx) (n : Nat) : (x.number n).transferred = x.transferred := rfl
@[simp] theorem Ctx.number_asked (x : Ctx) (n : Nat) : (x.number n).asked = x.asked := rfl
@[simp] theorem Ctx.number_phase (x : Ctx) (n : Nat) : (x.number n).phase = x.phase := rfl
@[simp] theorem Ctx.number_task (x : Ctx) (n : Nat) : (x.number n).task = x.task := rfl
@[simp] theorem Ctx.complete_cid (x : Ctx) (t n c : Nat) : (x.complete t n c).cid = x.cid := rfl
@[simp] theorem Ctx.complete_regs (x : Ctx) (t n c : Nat) : (x.complete t n c).regs = x.regs := rfl
@[simp] theorem Ctx.complete_marks (x : Ctx) (t n c : Nat) : (x.complete t n c).marks = x.marks := rfl
@[simp] theorem Ctx.complete_pend (x : Ctx) (t n c : Nat) : (x.complete t n c).pend = x.pend := rfl
@[simp] theorem Ctx.complete_gate (x : Ctx) (t n c : Nat) : (x.complete t n c).gate = x.gate := rfl
@[simp] theorem Ctx.complete_ghosts (x : Ctx) (t n c : Nat) : (x.complete t n c).ghosts = x.ghosts := rfl
@[simp] theorem Ctx.complete_seq (x : Ctx) (t n c : Nat) : (x.complete t n c).seq = x.seq := rfl
@[simp] theorem Ctx.complete_nextAt (x : Ctx) (t n c : Nat) : (x.complete t n c).nextAt = x.nextAt := rfl
@[simp] theorem Ctx.complete_loadAt (x : Ctx) (t n c : Nat) : (x.complete t n c).loadAt = x.loadAt := rfl
@[simp] theorem Ctx.complete_waits (x : Ctx) (t n c : Nat) : (x.complete t n c).waits = x.waits := rfl
@[simp] theorem Ctx.complete_sinceMark (x : Ctx) (t n c : Nat) : (x.complete t n c).sinceMark = x.sinceMark := rfl
@[simp] theorem Ctx.complete_code (x : Ctx) (t n c : Nat) : (x.complete t n c).code = x.code := rfl
@[simp] theorem Ctx.complete_dict (x : Ctx) (t n c : Nat) : (x.complete t n c).dict = x.dict := rfl
@[simp] theorem Ctx.complete_micro (x : Ctx) (t n c : Nat) : (x.complete t n c).micro = x.micro := rfl
@[simp] theorem Ctx.complete_partition (x : Ctx) (t n c : Nat) : (x.complete t n c).partition = x.partition := rfl
@[simp] theorem Ctx.complete_codeWin (x : Ctx) (t n c : Nat) : (x.complete t n c).codeWin = x.codeWin := rfl
@[simp] theorem Ctx.complete_taskBlk (x : Ctx) (t n c : Nat) : (x.complete t n c).taskBlk = x.taskBlk := rfl
@[simp] theorem Ctx.complete_fmt (x : Ctx) (t n c : Nat) : (x.complete t n c).fmt = x.fmt := rfl
@[simp] theorem Ctx.complete_fmtSel (x : Ctx) (t n c : Nat) : (x.complete t n c).fmtSel = x.fmtSel := rfl
@[simp] theorem Ctx.complete_fstat (x : Ctx) (t n c : Nat) : (x.complete t n c).fstat = x.fstat := rfl
@[simp] theorem Ctx.complete_fresh (x : Ctx) (t n c : Nat) : (x.complete t n c).fresh = x.fresh := rfl
@[simp] theorem Ctx.complete_cstat (x : Ctx) (t n c : Nat) : (x.complete t n c).cstat = x.cstat := rfl
@[simp] theorem Ctx.complete_bcnt (x : Ctx) (t n c : Nat) : (x.complete t n c).bcnt = x.bcnt := rfl
@[simp] theorem Ctx.complete_tl (x : Ctx) (t n c : Nat) : (x.complete t n c).tl = x.tl := rfl
@[simp] theorem Ctx.complete_clocks (x : Ctx) (t n c : Nat) : (x.complete t n c).clocks = x.clocks := rfl
@[simp] theorem Ctx.complete_dnan (x : Ctx) (t n c : Nat) : (x.complete t n c).dnan = x.dnan := rfl
@[simp] theorem Ctx.complete_dpend (x : Ctx) (t n c : Nat) : (x.complete t n c).dpend = x.dpend := rfl
@[simp] theorem Ctx.complete_dlog (x : Ctx) (t n c : Nat) : (x.complete t n c).dlog = x.dlog := rfl
@[simp] theorem Ctx.complete_sh0 (x : Ctx) (t n c : Nat) : (x.complete t n c).sh0 = x.sh0 := rfl
@[simp] theorem Ctx.complete_sh1 (x : Ctx) (t n c : Nat) : (x.complete t n c).sh1 = x.sh1 := rfl
@[simp] theorem Ctx.complete_bx (x : Ctx) (t n c : Nat) : (x.complete t n c).bx = x.bx := rfl
@[simp] theorem Ctx.complete_fpuHold (x : Ctx) (t n c : Nat) : (x.complete t n c).fpuHold = x.fpuHold := rfl
@[simp] theorem Ctx.complete_svc (x : Ctx) (t n c : Nat) : (x.complete t n c).svc = x.svc := rfl
@[simp] theorem Ctx.complete_skips (x : Ctx) (t n c : Nat) : (x.complete t n c).skips = x.skips := rfl
@[simp] theorem Ctx.complete_tried (x : Ctx) (t n c : Nat) : (x.complete t n c).tried = x.tried := rfl
@[simp] theorem Ctx.complete_yield (x : Ctx) (t n c : Nat) : (x.complete t n c).yield = x.yield := rfl
@[simp] theorem Ctx.complete_trap (x : Ctx) (t n c : Nat) : (x.complete t n c).trap = x.trap := rfl
@[simp] theorem Ctx.complete_fp (x : Ctx) (t n c : Nat) : (x.complete t n c).fp = x.fp := rfl
@[simp] theorem Ctx.complete_held (x : Ctx) (t n c : Nat) : (x.complete t n c).held = x.held := rfl
@[simp] theorem Ctx.complete_barriers (x : Ctx) (t n c : Nat) : (x.complete t n c).barriers = x.barriers := rfl
@[simp] theorem Ctx.complete_binds (x : Ctx) (t n c : Nat) : (x.complete t n c).binds = x.binds := rfl
@[simp] theorem Ctx.complete_ssu (x : Ctx) (t n c : Nat) : (x.complete t n c).ssu = x.ssu := rfl
@[simp] theorem Ctx.complete_bankBase (x : Ctx) (t n c : Nat) : (x.complete t n c).bankBase = x.bankBase := rfl
@[simp] theorem Ctx.complete_heldSince (x : Ctx) (t n c : Nat) : (x.complete t n c).heldSince = x.heldSince := rfl
@[simp] theorem Ctx.complete_heldPop (x : Ctx) (t n c : Nat) : (x.complete t n c).heldPop = x.heldPop := rfl
@[simp] theorem Ctx.complete_transferred (x : Ctx) (t n c : Nat) : (x.complete t n c).transferred = x.transferred := rfl
@[simp] theorem Ctx.complete_asked (x : Ctx) (t n c : Nat) : (x.complete t n c).asked = x.asked := rfl
@[simp] theorem Ctx.complete_phase (x : Ctx) (t n c : Nat) : (x.complete t n c).phase = x.phase := rfl
@[simp] theorem Ctx.complete_task (x : Ctx) (t n c : Nat) : (x.complete t n c).task = x.task := rfl
@[simp] theorem Ctx.onRegs_cid (x : Ctx) (q : Nat) (f : Regs → Regs) : (x.onRegs q f).cid = x.cid := rfl
@[simp] theorem Ctx.onRegs_pend (x : Ctx) (q : Nat) (f : Regs → Regs) : (x.onRegs q f).pend = x.pend := rfl
@[simp] theorem Ctx.onRegs_gate (x : Ctx) (q : Nat) (f : Regs → Regs) : (x.onRegs q f).gate = x.gate := rfl
@[simp] theorem Ctx.onRegs_ghosts (x : Ctx) (q : Nat) (f : Regs → Regs) : (x.onRegs q f).ghosts = x.ghosts := rfl
@[simp] theorem Ctx.onRegs_seq (x : Ctx) (q : Nat) (f : Regs → Regs) : (x.onRegs q f).seq = x.seq := rfl
@[simp] theorem Ctx.onRegs_nextAt (x : Ctx) (q : Nat) (f : Regs → Regs) : (x.onRegs q f).nextAt = x.nextAt := rfl
@[simp] theorem Ctx.onRegs_loadAt (x : Ctx) (q : Nat) (f : Regs → Regs) : (x.onRegs q f).loadAt = x.loadAt := rfl
@[simp] theorem Ctx.onRegs_waits (x : Ctx) (q : Nat) (f : Regs → Regs) : (x.onRegs q f).waits = x.waits := rfl
@[simp] theorem Ctx.onRegs_sinceMark (x : Ctx) (q : Nat) (f : Regs → Regs) : (x.onRegs q f).sinceMark = x.sinceMark := rfl
@[simp] theorem Ctx.onRegs_code (x : Ctx) (q : Nat) (f : Regs → Regs) : (x.onRegs q f).code = x.code := rfl
@[simp] theorem Ctx.onRegs_dict (x : Ctx) (q : Nat) (f : Regs → Regs) : (x.onRegs q f).dict = x.dict := rfl
@[simp] theorem Ctx.onRegs_micro (x : Ctx) (q : Nat) (f : Regs → Regs) : (x.onRegs q f).micro = x.micro := rfl
@[simp] theorem Ctx.onRegs_partition (x : Ctx) (q : Nat) (f : Regs → Regs) : (x.onRegs q f).partition = x.partition := rfl
@[simp] theorem Ctx.onRegs_codeWin (x : Ctx) (q : Nat) (f : Regs → Regs) : (x.onRegs q f).codeWin = x.codeWin := rfl
@[simp] theorem Ctx.onRegs_taskBlk (x : Ctx) (q : Nat) (f : Regs → Regs) : (x.onRegs q f).taskBlk = x.taskBlk := rfl
@[simp] theorem Ctx.onRegs_fmt (x : Ctx) (q : Nat) (f : Regs → Regs) : (x.onRegs q f).fmt = x.fmt := rfl
@[simp] theorem Ctx.onRegs_fmtSel (x : Ctx) (q : Nat) (f : Regs → Regs) : (x.onRegs q f).fmtSel = x.fmtSel := rfl
@[simp] theorem Ctx.onRegs_fstat (x : Ctx) (q : Nat) (f : Regs → Regs) : (x.onRegs q f).fstat = x.fstat := rfl
@[simp] theorem Ctx.onRegs_fresh (x : Ctx) (q : Nat) (f : Regs → Regs) : (x.onRegs q f).fresh = x.fresh := rfl
@[simp] theorem Ctx.onRegs_cstat (x : Ctx) (q : Nat) (f : Regs → Regs) : (x.onRegs q f).cstat = x.cstat := rfl
@[simp] theorem Ctx.onRegs_bcnt (x : Ctx) (q : Nat) (f : Regs → Regs) : (x.onRegs q f).bcnt = x.bcnt := rfl
@[simp] theorem Ctx.onRegs_tl (x : Ctx) (q : Nat) (f : Regs → Regs) : (x.onRegs q f).tl = x.tl := rfl
@[simp] theorem Ctx.onRegs_comps (x : Ctx) (q : Nat) (f : Regs → Regs) : (x.onRegs q f).comps = x.comps := rfl
@[simp] theorem Ctx.onRegs_clocks (x : Ctx) (q : Nat) (f : Regs → Regs) : (x.onRegs q f).clocks = x.clocks := rfl
@[simp] theorem Ctx.onRegs_dnan (x : Ctx) (q : Nat) (f : Regs → Regs) : (x.onRegs q f).dnan = x.dnan := rfl
@[simp] theorem Ctx.onRegs_dpend (x : Ctx) (q : Nat) (f : Regs → Regs) : (x.onRegs q f).dpend = x.dpend := rfl
@[simp] theorem Ctx.onRegs_dlog (x : Ctx) (q : Nat) (f : Regs → Regs) : (x.onRegs q f).dlog = x.dlog := rfl
@[simp] theorem Ctx.onRegs_sh0 (x : Ctx) (q : Nat) (f : Regs → Regs) : (x.onRegs q f).sh0 = x.sh0 := rfl
@[simp] theorem Ctx.onRegs_sh1 (x : Ctx) (q : Nat) (f : Regs → Regs) : (x.onRegs q f).sh1 = x.sh1 := rfl
@[simp] theorem Ctx.onRegs_bx (x : Ctx) (q : Nat) (f : Regs → Regs) : (x.onRegs q f).bx = x.bx := rfl
@[simp] theorem Ctx.onRegs_fpuHold (x : Ctx) (q : Nat) (f : Regs → Regs) : (x.onRegs q f).fpuHold = x.fpuHold := rfl
@[simp] theorem Ctx.onRegs_svc (x : Ctx) (q : Nat) (f : Regs → Regs) : (x.onRegs q f).svc = x.svc := rfl
@[simp] theorem Ctx.onRegs_skips (x : Ctx) (q : Nat) (f : Regs → Regs) : (x.onRegs q f).skips = x.skips := rfl
@[simp] theorem Ctx.onRegs_tried (x : Ctx) (q : Nat) (f : Regs → Regs) : (x.onRegs q f).tried = x.tried := rfl
@[simp] theorem Ctx.onRegs_yield (x : Ctx) (q : Nat) (f : Regs → Regs) : (x.onRegs q f).yield = x.yield := rfl
@[simp] theorem Ctx.onRegs_trap (x : Ctx) (q : Nat) (f : Regs → Regs) : (x.onRegs q f).trap = x.trap := rfl
@[simp] theorem Ctx.onRegs_fp (x : Ctx) (q : Nat) (f : Regs → Regs) : (x.onRegs q f).fp = x.fp := rfl
@[simp] theorem Ctx.onRegs_held (x : Ctx) (q : Nat) (f : Regs → Regs) : (x.onRegs q f).held = x.held := rfl
@[simp] theorem Ctx.onRegs_barriers (x : Ctx) (q : Nat) (f : Regs → Regs) : (x.onRegs q f).barriers = x.barriers := rfl
@[simp] theorem Ctx.onRegs_binds (x : Ctx) (q : Nat) (f : Regs → Regs) : (x.onRegs q f).binds = x.binds := rfl
@[simp] theorem Ctx.onRegs_ssu (x : Ctx) (q : Nat) (f : Regs → Regs) : (x.onRegs q f).ssu = x.ssu := rfl
@[simp] theorem Ctx.onRegs_bankBase (x : Ctx) (q : Nat) (f : Regs → Regs) : (x.onRegs q f).bankBase = x.bankBase := rfl
@[simp] theorem Ctx.onRegs_heldSince (x : Ctx) (q : Nat) (f : Regs → Regs) : (x.onRegs q f).heldSince = x.heldSince := rfl
@[simp] theorem Ctx.onRegs_heldPop (x : Ctx) (q : Nat) (f : Regs → Regs) : (x.onRegs q f).heldPop = x.heldPop := rfl
@[simp] theorem Ctx.onRegs_transferred (x : Ctx) (q : Nat) (f : Regs → Regs) : (x.onRegs q f).transferred = x.transferred := rfl
@[simp] theorem Ctx.onRegs_asked (x : Ctx) (q : Nat) (f : Regs → Regs) : (x.onRegs q f).asked = x.asked := rfl
@[simp] theorem Ctx.onRegs_phase (x : Ctx) (q : Nat) (f : Regs → Regs) : (x.onRegs q f).phase = x.phase := rfl
@[simp] theorem Ctx.onRegs_task (x : Ctx) (q : Nat) (f : Regs → Regs) : (x.onRegs q f).task = x.task := rfl
@[simp] theorem Ctx.onAllRegs_cid (x : Ctx) (f : Regs → Regs) : (x.onAllRegs f).cid = x.cid := rfl
@[simp] theorem Ctx.onAllRegs_pend (x : Ctx) (f : Regs → Regs) : (x.onAllRegs f).pend = x.pend := rfl
@[simp] theorem Ctx.onAllRegs_gate (x : Ctx) (f : Regs → Regs) : (x.onAllRegs f).gate = x.gate := rfl
@[simp] theorem Ctx.onAllRegs_ghosts (x : Ctx) (f : Regs → Regs) : (x.onAllRegs f).ghosts = x.ghosts := rfl
@[simp] theorem Ctx.onAllRegs_seq (x : Ctx) (f : Regs → Regs) : (x.onAllRegs f).seq = x.seq := rfl
@[simp] theorem Ctx.onAllRegs_nextAt (x : Ctx) (f : Regs → Regs) : (x.onAllRegs f).nextAt = x.nextAt := rfl
@[simp] theorem Ctx.onAllRegs_loadAt (x : Ctx) (f : Regs → Regs) : (x.onAllRegs f).loadAt = x.loadAt := rfl
@[simp] theorem Ctx.onAllRegs_waits (x : Ctx) (f : Regs → Regs) : (x.onAllRegs f).waits = x.waits := rfl
@[simp] theorem Ctx.onAllRegs_sinceMark (x : Ctx) (f : Regs → Regs) : (x.onAllRegs f).sinceMark = x.sinceMark := rfl
@[simp] theorem Ctx.onAllRegs_code (x : Ctx) (f : Regs → Regs) : (x.onAllRegs f).code = x.code := rfl
@[simp] theorem Ctx.onAllRegs_dict (x : Ctx) (f : Regs → Regs) : (x.onAllRegs f).dict = x.dict := rfl
@[simp] theorem Ctx.onAllRegs_micro (x : Ctx) (f : Regs → Regs) : (x.onAllRegs f).micro = x.micro := rfl
@[simp] theorem Ctx.onAllRegs_partition (x : Ctx) (f : Regs → Regs) : (x.onAllRegs f).partition = x.partition := rfl
@[simp] theorem Ctx.onAllRegs_codeWin (x : Ctx) (f : Regs → Regs) : (x.onAllRegs f).codeWin = x.codeWin := rfl
@[simp] theorem Ctx.onAllRegs_taskBlk (x : Ctx) (f : Regs → Regs) : (x.onAllRegs f).taskBlk = x.taskBlk := rfl
@[simp] theorem Ctx.onAllRegs_fmt (x : Ctx) (f : Regs → Regs) : (x.onAllRegs f).fmt = x.fmt := rfl
@[simp] theorem Ctx.onAllRegs_fmtSel (x : Ctx) (f : Regs → Regs) : (x.onAllRegs f).fmtSel = x.fmtSel := rfl
@[simp] theorem Ctx.onAllRegs_fstat (x : Ctx) (f : Regs → Regs) : (x.onAllRegs f).fstat = x.fstat := rfl
@[simp] theorem Ctx.onAllRegs_fresh (x : Ctx) (f : Regs → Regs) : (x.onAllRegs f).fresh = x.fresh := rfl
@[simp] theorem Ctx.onAllRegs_cstat (x : Ctx) (f : Regs → Regs) : (x.onAllRegs f).cstat = x.cstat := rfl
@[simp] theorem Ctx.onAllRegs_bcnt (x : Ctx) (f : Regs → Regs) : (x.onAllRegs f).bcnt = x.bcnt := rfl
@[simp] theorem Ctx.onAllRegs_tl (x : Ctx) (f : Regs → Regs) : (x.onAllRegs f).tl = x.tl := rfl
@[simp] theorem Ctx.onAllRegs_comps (x : Ctx) (f : Regs → Regs) : (x.onAllRegs f).comps = x.comps := rfl
@[simp] theorem Ctx.onAllRegs_clocks (x : Ctx) (f : Regs → Regs) : (x.onAllRegs f).clocks = x.clocks := rfl
@[simp] theorem Ctx.onAllRegs_dnan (x : Ctx) (f : Regs → Regs) : (x.onAllRegs f).dnan = x.dnan := rfl
@[simp] theorem Ctx.onAllRegs_dpend (x : Ctx) (f : Regs → Regs) : (x.onAllRegs f).dpend = x.dpend := rfl
@[simp] theorem Ctx.onAllRegs_dlog (x : Ctx) (f : Regs → Regs) : (x.onAllRegs f).dlog = x.dlog := rfl
@[simp] theorem Ctx.onAllRegs_sh0 (x : Ctx) (f : Regs → Regs) : (x.onAllRegs f).sh0 = x.sh0 := rfl
@[simp] theorem Ctx.onAllRegs_sh1 (x : Ctx) (f : Regs → Regs) : (x.onAllRegs f).sh1 = x.sh1 := rfl
@[simp] theorem Ctx.onAllRegs_bx (x : Ctx) (f : Regs → Regs) : (x.onAllRegs f).bx = x.bx := rfl
@[simp] theorem Ctx.onAllRegs_fpuHold (x : Ctx) (f : Regs → Regs) : (x.onAllRegs f).fpuHold = x.fpuHold := rfl
@[simp] theorem Ctx.onAllRegs_svc (x : Ctx) (f : Regs → Regs) : (x.onAllRegs f).svc = x.svc := rfl
@[simp] theorem Ctx.onAllRegs_skips (x : Ctx) (f : Regs → Regs) : (x.onAllRegs f).skips = x.skips := rfl
@[simp] theorem Ctx.onAllRegs_tried (x : Ctx) (f : Regs → Regs) : (x.onAllRegs f).tried = x.tried := rfl
@[simp] theorem Ctx.onAllRegs_yield (x : Ctx) (f : Regs → Regs) : (x.onAllRegs f).yield = x.yield := rfl
@[simp] theorem Ctx.onAllRegs_trap (x : Ctx) (f : Regs → Regs) : (x.onAllRegs f).trap = x.trap := rfl
@[simp] theorem Ctx.onAllRegs_fp (x : Ctx) (f : Regs → Regs) : (x.onAllRegs f).fp = x.fp := rfl
@[simp] theorem Ctx.onAllRegs_held (x : Ctx) (f : Regs → Regs) : (x.onAllRegs f).held = x.held := rfl
@[simp] theorem Ctx.onAllRegs_barriers (x : Ctx) (f : Regs → Regs) : (x.onAllRegs f).barriers = x.barriers := rfl
@[simp] theorem Ctx.onAllRegs_binds (x : Ctx) (f : Regs → Regs) : (x.onAllRegs f).binds = x.binds := rfl
@[simp] theorem Ctx.onAllRegs_ssu (x : Ctx) (f : Regs → Regs) : (x.onAllRegs f).ssu = x.ssu := rfl
@[simp] theorem Ctx.onAllRegs_bankBase (x : Ctx) (f : Regs → Regs) : (x.onAllRegs f).bankBase = x.bankBase := rfl
@[simp] theorem Ctx.onAllRegs_heldSince (x : Ctx) (f : Regs → Regs) : (x.onAllRegs f).heldSince = x.heldSince := rfl
@[simp] theorem Ctx.onAllRegs_heldPop (x : Ctx) (f : Regs → Regs) : (x.onAllRegs f).heldPop = x.heldPop := rfl
@[simp] theorem Ctx.onAllRegs_transferred (x : Ctx) (f : Regs → Regs) : (x.onAllRegs f).transferred = x.transferred := rfl
@[simp] theorem Ctx.onAllRegs_asked (x : Ctx) (f : Regs → Regs) : (x.onAllRegs f).asked = x.asked := rfl
@[simp] theorem Ctx.onAllRegs_phase (x : Ctx) (f : Regs → Regs) : (x.onAllRegs f).phase = x.phase := rfl
@[simp] theorem Ctx.onAllRegs_task (x : Ctx) (f : Regs → Regs) : (x.onAllRegs f).task = x.task := rfl
@[simp] theorem Ctx.onRegs_regs (x : Ctx) (q : Nat) (f : Regs → Regs) : (x.onRegs q f).regs = f x.regs := rfl
@[simp] theorem Ctx.onAllRegs_regs (x : Ctx) (f : Regs → Regs) : (x.onAllRegs f).regs = f x.regs := rfl
@[simp] theorem Ctx.takeMark_marks (x : Ctx) (n : Nat) :
    (x.takeMark n).marks = x.marks ++ [⟨x.seq, n, false, x.regs⟩] := rfl
@[simp] theorem Ctx.landEngine_pend (x : Ctx) (q p d : Nat) (e : Eff) :
    (x.landEngine q p d e).pend = x.pend ++ [⟨d, q, .e, p, true, true, e⟩] := rfl
@[simp] theorem Ctx.complete_comps (x : Ctx) (t n c : Nat) : (x.complete t n c).comps = x.comps ++ [⟨t, n, c⟩] := rfl

end Sys2Proof.Machine
end

