-- ==== Sys2Proof/Laws/Ops.lean ====
section
/-! SUPPORT. What the shared operations do, said once: results put in flight, traps raised, counters, wakes of the issue
context. -/

namespace Sys2Proof

/-- Listing a key twice leaves the later value. -/
@[simp] theorem Store.insert_insert {α : Type} (l : Store α) (k : Nat) (x y : α) :
    Store.insert (Store.insert l k x) k y = Store.insert l k y := by
  induction l with
  | nil => simp [Store.insert]
  | cons e l ih =>
    obtain ⟨k', v⟩ := e
    simp only [Store.insert]
    repeat' split
    all_goals simp_all [Store.insert]

end Sys2Proof

namespace Sys2Proof.Machine

/-! ## One core -/

/-- A core replaced twice holds the later one. -/
@[simp] theorem State.setCore_setCore (s : State) (n : Nat) (c d : Core) : (s.setCore n c).setCore n d = s.setCore n d := by
  simp [State.setCore]

/-- Two changes of one core are one change. -/
theorem State.onCore_onCore (s : State) (n : Nat) (f g : Core → Core) : (s.onCore n f).onCore n g = s.onCore n (g ∘ f) := by
  simp [State.onCore]

/-- Two changes of the issue context are one change. -/
theorem State.onIss_onIss (s : State) (f g : Iss → Iss) : (s.onIss f).onIss g = s.onIss (g ∘ f) := by
  simp only [State.onIss, State.onHere, State.onCore_cur, State.onCore_onCore]; rfl

/-- Two changes of the active context are one change. -/
theorem State.onAct_onAct (s : State) (f g : Ctx → Ctx) : (s.onAct f).onAct g = s.onAct (g ∘ f) := by
  simp only [State.onAct, State.onHere, State.onCore_cur, State.onCore_onCore]; rfl

/-- The issue context of the core after a change of it. -/
@[simp] theorem State.here_onIss (s : State) (f : Iss → Iss) : (s.onIss f).here.iss = f s.here.iss := by
  simp [State.onIss]

/-- The issue context is not touched by a change of the active context. -/
@[simp] theorem State.iss_onAct (s : State) (f : Ctx → Ctx) : (s.onAct f).here.iss = s.here.iss := by
  simp [State.onAct]

/-! ## Results in flight (R8, R102) -/

/-- What a result leaves of another that clashes with nothing: all of it. -/
theorem Eff.without_of_clash (a b : Eff) (h : Eff.clash a b = none) : Eff.without a b = some a := by
  have key {α : Type} (l k : List (Nat × α)) (g : Nat × α → Nat)
      (h : firstSome (fun c => if k.any (fun d => decide (d.1 = c.1)) then some (g c) else none) l = none) :
      l.filter (fun c => !(k.any fun d => decide (d.1 = c.1))) = l := by
    induction l with
    | nil => rfl
    | cons c l ih =>
      simp only [firstSome] at h
      split at h
      · cases h
      · rename_i hc
        have : (k.any fun d => decide (d.1 = c.1)) = false := by
          by_contra hne
          simp only [Bool.not_eq_false] at hne
          rw [if_pos hne] at hc
          cases hc
        rw [List.filter_cons_of_pos (by simp only [this]; rfl), ih h]
  have shut (h : Nat) (target : Nat) (drop : List Nat) (k : List (Nat × Word))
      (hc : Eff.clash (.shut h true target drop) (.m k) = none) :
      Eff.without (.shut h true target drop) (.m k) = some (.shut h true target drop) := by
    simp only [Eff.clash, ite_eq_right_iff, reduceCtorEq, imp_false, Bool.not_eq_true, List.any_eq_false] at hc
    simp only [Eff.without]
    rw [List.filter_eq_nil_iff.mpr fun a ha => ?_, List.append_nil]
    obtain ⟨c, hk, rfl⟩ := List.mem_map.mp ha
    simpa using hc c hk
  cases a <;> cases b <;> first
    | (simp only [Eff.clash] at h; simp only [Eff.without]; rw [key _ _ _ h])
    | (simp only [Eff.without, h])
  rename_i h' commit target drop k
  cases commit
  · rfl
  · exact shut h' target drop k h

/-- A result that clashes with none in flight joins them at the end, and no dual write is seen (R102). -/
theorem Ctx.addLanding_clear (x : Ctx) (l : Landing) (h : ∀ o ∈ x.pend, o.meets l = true → Eff.clash o.eff l.eff = none) :
    x.dualWrite l = none ∧ x.addLanding l = { x with pend := x.pend ++ [l] } := by
  have h1 : ∀ p : List Landing, (∀ o ∈ p, o.meets l = true → Eff.clash o.eff l.eff = none) →
      firstSome (fun o : Landing => if o.meets l then Eff.clash o.eff l.eff else none) p = none ∧
      p.filterMap (fun o => if o.meets l then (Eff.without o.eff l.eff).map fun e => { o with eff := e } else some o) = p := by
    intro p hp
    induction p with
    | nil => exact ⟨rfl, rfl⟩
    | cons o p ih =>
      have hi := ih fun q hq => hp q (List.mem_cons_of_mem o hq)
      have ho := hp o List.mem_cons_self
      by_cases hm : o.meets l = true
      · have hc := ho hm
        refine ⟨by simp only [firstSome, hm, if_true, hc]; exact hi.1, ?_⟩
        rw [List.filterMap_cons, if_pos hm, Eff.without_of_clash _ _ hc]
        simp only [Option.map_some, hi.2]
      · refine ⟨by simp only [firstSome, hm]; exact hi.1, ?_⟩
        rw [List.filterMap_cons, if_neg hm]
        simp only [hi.2]
  have := h1 x.pend h
  exact ⟨this.1, by rw [Ctx.addLanding, this.2]⟩

/-- A slot's result with no clash is in flight, and nothing else changes (R8, R102). -/
theorem State.land_clear (s : State) (slot : Slot) (due : Nat) (e : Eff) (h : s.clear slot e) :
    s.land slot due e = s.inFlight [s.flight slot due e] := by
  have hc := Ctx.addLanding_clear s.act (s.flight slot due e) fun o ho hm => by
    simp only [Landing.meets, Bool.and_eq_true] at hm
    have := hm.2
    simp only [Bool.or_eq_true, Bool.not_eq_true', decide_eq_true_eq] at this
    exact h o ho (of_decide_eq_true hm.1.1) this (of_decide_eq_true hm.1.2)
  change s.putLanding (s.flight slot due e) = _
  rw [State.putLanding, hc.1]
  exact congrArg (fun y => s.setCore s.cur { s.core s.cur with act := y }) hc.2

/-- A result to s0 is discarded (R21). -/
@[simp] theorem State.landS_zero (s : State) (slot : Slot) (latency : Nat) (x : Word) : s.landS slot latency 0 x = s := rfl

/-- A result to sp0 is discarded (R21). -/
@[simp] theorem State.landSp_zero (s : State) (slot : Slot) (latency : Nat) (x : Bool) : s.landSp slot latency 0 x = s := rfl

/-! ## Traps (R232, R235) -/

/-- The first trap that a slot of a bundle raises is kept, and nothing else changes. -/
theorem State.raise_first (s : State) (cause : Nat) (slot : Slot) (cluster detail : Nat) (h : s.here.iss.trap = none) :
    s.raise cause slot cluster detail =
      s.onIss fun i => { i with trap := some ⟨cause, slot.code, cluster, i.pc, detail⟩ } := by
  have h' : (s.core s.cur).iss.trap = none := h
  simp only [State.raise, State.onIss, State.onHere, State.onCore, h']
  rfl

/-! ## Counters (R30) -/

/-- C is the largest number with which, and below which, every operation has completed (R30). -/
theorem Timeline.le_c (t : Timeline) (n : Nat) (h : ∀ o ∈ t.out, 1 ≤ o) :
    n ≤ t.c ↔ n ≤ t.i ∧ ∀ o ∈ t.out, n < o := by
  obtain ⟨i, out⟩ := t
  simp only [Timeline.c] at *
  induction out generalizing i with
  | nil => simp
  | cons o out ih =>
    have ho := h o List.mem_cons_self
    simp only [List.foldl_cons]
    rw [ih (min i (o - 1)) fun p hp => h p (List.mem_cons_of_mem o hp)]
    simp only [List.forall_mem_cons, Nat.le_min]
    constructor
    · rintro ⟨⟨h1, h2⟩, h3⟩; exact ⟨h1, by omega, h3⟩
    · rintro ⟨h1, h2, h3⟩; exact ⟨⟨h1, by omega⟩, h3⟩

end Sys2Proof.Machine
end

