-- ==== Sys2Proof/Laws/PerInstr.lean ====
section
/-! SUPPORT. Laws of every instruction as syntax, one lemma per constructor: its word fits its slot. -/

namespace Sys2Proof.Laws.Encoding

/-- The word of an instruction fits its slot: 32 bits for the C, S0 and S1 slots and for a micro-operation, 64 for the others
(R75, R84 to R98). A step of the machine has no word. -/
def Statement (i : Instr) : Prop := ∀ k w, encode i = some (k, w) → w < 2 ^ (if k < 3 ∨ k = 7 then 32 else 64)

/-- A flag is at most 1. -/
theorem flag_le (b : Bool) : b2n b ≤ 1 := by cases b <;> decide

/-- The statement of an instruction whose slot and word are known. -/
theorem of_word {n x k w : Nat} (h : some (n, x) = some (k, w)) (hx : x < 2 ^ (if n < 3 ∨ n = 7 then 32 else 64)) :
    w < 2 ^ (if k < 3 ∨ k = 7 then 32 else 64) := by
  cases h
  exact hx

/-- Guard and sense lie in bits 25 to 22. -/
theorem guard_lt (g : SGuard) : encCGuard g + 2 ^ 22 ≤ 2 ^ 26 := by
  have := flag_le g.sense
  unfold encCGuard
  omega

/-- The common fields of a scalar word. -/
theorem scalar_lt {c d a b : Nat} (g : SHead) (hc : c < 128) (hd : d < 64) (ha : a < 64) (hb : b < 1024) :
    encS c g d a + b < 2 ^ 32 := by
  unfold encS
  omega

/-- A vector doubleword. -/
theorem vector_lt {c : Nat} (o : VOp) (hc : c < 512) : encV c o < 2 ^ 64 := by
  have := flag_le o.gs
  have := flag_le o.d
  have := flag_le o.sat
  unfold encV
  omega

/-- The head of an engine doubleword. -/
theorem engine_head {c : Nat} (h : EHead) (hc : c < 128) : encE c h + 2 ^ 44 ≤ 2 ^ 64 := by
  have := flag_le h.guard.sense
  have := flag_le h.d
  unfold encE
  omega

/-- Format EM. -/
theorem em_lt {c : Nat} (o : EmOp) (hc : c < 128) : encEM c o < 2 ^ 64 := by
  have := engine_head o.head hc
  have := flag_le o.tri
  have := flag_le o.ovr
  unfold encEM
  omega

/-- Format EX. -/
theorem ex_lt {c : Nat} (o : ExOp) (hc : c < 128) : encEX c o < 2 ^ 64 := by
  have := engine_head o.head hc
  have := flag_le o.qn
  unfold encEX
  omega

/-- The head of a memory doubleword. -/
theorem memory_head {c : Nat} (h : MHead) (hc : c < 128) : encM c h + 2 ^ 42 ≤ 2 ^ 64 := by
  have := flag_le h.gk
  have := flag_le h.gs
  have := flag_le h.d
  unfold encM
  omega

/-- Format MV. -/
theorem mv_lt {c : Nat} (o : MvOp) (hc : c < 128) : encMV c o < 2 ^ 64 := by
  have := memory_head o.head hc
  have := flag_le o.pi
  unfold encMV
  omega

/-- Format MS. -/
theorem ms_lt {c : Nat} (o : MsOp) (hc : c < 128) : encMS c o < 2 ^ 64 := by
  have := memory_head o.head hc
  have := flag_le o.pi
  unfold encMS
  omega

/-- Format MX. -/
theorem mx_lt {c : Nat} (o : MxOp) (hc : c < 128) : encMX c o < 2 ^ 64 := by
  have := memory_head o.head hc
  unfold encMX
  omega

/-- Format MM. -/
theorem mm_lt {c : Nat} (o : MmOp) (hc : c < 128) : encMM c o < 2 ^ 64 := by
  have := memory_head o.head hc
  have := flag_le o.ki
  unfold encMM
  omega

/-- Format MA. -/
theorem ma_lt {c : Nat} (o : MaOp) (hc : c < 128) : encMA c o < 2 ^ 64 := by
  have := memory_head o.head hc
  unfold encMA
  omega

/-- Format MB. -/
theorem mb_lt {c : Nat} (o : MbOp) (hc : c < 128) : encMB c o < 2 ^ 64 := by
  have := memory_head o.head hc
  unfold encMB
  omega

/-- Format MC. -/
theorem mc_lt {c : Nat} (o : McOp) (hc : c < 128) : encMC c o < 2 ^ 64 := by
  have := memory_head o.head hc
  unfold encMC
  omega

/-! ## The instructions -/

theorem bundleIssue (x0) : Statement (.bundleIssue x0) := fun _ _ h => nomatch h

theorem nullifierSkip (x0) : Statement (.nullifierSkip x0) := fun _ _ h => nomatch h

theorem markCommit (x0) : Statement (.markCommit x0) := fun _ _ h => nomatch h

theorem markDistanceTrap (x0) : Statement (.markDistanceTrap x0) := fun _ _ h => nomatch h

theorem fpTrap (x0) : Statement (.fpTrap x0) := fun _ _ h => nomatch h

theorem rollback (x0) : Statement (.rollback x0) := fun _ _ h => nomatch h

theorem nop (g) : Statement (.nop g) := fun _ _ h => of_word (n := 0) h
  (show encCGuard g < 2 ^ 32 by have := guard_lt g; omega)

theorem br (g t) : Statement (.br g t) := fun _ _ h => of_word (n := 0) h
  (show 0x01 * 2 ^ 26 + encCGuard g + t.toNat < 2 ^ 32 by have := guard_lt g; omega)

theorem brx (g n) : Statement (.brx g n) := fun _ _ h => of_word (n := 0) h
  (show 0x02 * 2 ^ 26 + encCGuard g + n.toNat * 2 ^ 16 < 2 ^ 32 by have := guard_lt g; omega)

theorem call (g t) : Statement (.call g t) := fun _ _ h => of_word (n := 0) h
  (show 0x03 * 2 ^ 26 + encCGuard g + t.toNat < 2 ^ 32 by have := guard_lt g; omega)

theorem ret (g) : Statement (.ret g) := fun _ _ h => of_word (n := 0) h
  (show 0x04 * 2 ^ 26 + encCGuard g < 2 ^ 32 by have := guard_lt g; omega)

theorem loop (g c e) : Statement (.loop g c e) := fun _ _ h => of_word (n := 0) h
  (show 0x05 * 2 ^ 26 + encCGuard g + c.toNat * 2 ^ 12 + e.toNat < 2 ^ 32 by have := guard_lt g; omega)

theorem loops (g n e) : Statement (.loops g n e) := fun _ _ h => of_word (n := 0) h
  (show 0x06 * 2 ^ 26 + encCGuard g + n.toNat * 2 ^ 16 + e.toNat < 2 ^ 32 by have := guard_lt g; omega)

theorem loopsW (g n e) : Statement (.loopsW g n e) := fun _ _ h => of_word (n := 0) h
  (show 0x06 * 2 ^ 26 + encCGuard g + n.toNat * 2 ^ 16 + 2 ^ 12 + e.toNat < 2 ^ 32 by have := guard_lt g; omega)

theorem brk (g) : Statement (.brk g) := fun _ _ h => of_word (n := 0) h
  (show 0x07 * 2 ^ 26 + encCGuard g < 2 ^ 32 by have := guard_lt g; omega)

theorem halt (g) : Statement (.halt g) := fun _ _ h => of_word (n := 0) h
  (show 0x08 * 2 ^ 26 + encCGuard g < 2 ^ 32 by have := guard_lt g; omega)

theorem trap (g k) : Statement (.trap g k) := fun _ _ h => of_word (n := 0) h
  (show 0x09 * 2 ^ 26 + encCGuard g + k.toNat < 2 ^ 32 by have := guard_lt g; omega)

theorem wait (g t n) : Statement (.wait g t n) := fun _ _ h => of_word (n := 0) h
  (show 0x0A * 2 ^ 26 + encCGuard g + t.toNat * 2 ^ 17 + n.toNat * 2 ^ 10 < 2 ^ 32 by have := guard_lt g; omega)

theorem waitRel (g t e) : Statement (.waitRel g t e) := fun _ _ h => of_word (n := 0) h
  (show 0x0A * 2 ^ 26 + encCGuard g + t.toNat * 2 ^ 17 + 2 ^ 16 + e.toNat < 2 ^ 32 by have := guard_lt g; omega)

theorem waito (g t n) : Statement (.waito g t n) := fun _ _ h => of_word (n := 0) h
  (show 0x0B * 2 ^ 26 + encCGuard g + t.toNat * 2 ^ 17 + n.toNat * 2 ^ 10 < 2 ^ 32 by have := guard_lt g; omega)

theorem waitoImm (g t e) : Statement (.waitoImm g t e) := fun _ _ h => of_word (n := 0) h
  (show 0x0B * 2 ^ 26 + encCGuard g + t.toNat * 2 ^ 17 + 2 ^ 16 + e.toNat < 2 ^ 32 by have := guard_lt g; omega)

theorem waitSatisfied (x0) : Statement (.waitSatisfied x0) := fun _ _ h => nomatch h

theorem bar (g c) : Statement (.bar g c) := fun _ _ h => of_word (n := 0) h
  (show 0x0C * 2 ^ 26 + encCGuard g + c.toNat * 2 ^ 19 < 2 ^ 32 by have := guard_lt g; omega)

theorem barrierRelease (x0) : Statement (.barrierRelease x0) := fun _ _ h => nomatch h

theorem yield (g) : Statement (.yield g) := fun _ _ h => of_word (n := 0) h
  (show 0x0D * 2 ^ 26 + encCGuard g < 2 ^ 32 by have := guard_lt g; omega)

theorem shutc (g sh) : Statement (.shutc g sh) := fun _ _ h => of_word (n := 0) h
  (show 0x0E * 2 ^ 26 + encCGuard g + sh.toNat < 2 ^ 32 by have := guard_lt g; omega)

theorem shutd (g sh) : Statement (.shutd g sh) := fun _ _ h => of_word (n := 0) h
  (show 0x0F * 2 ^ 26 + encCGuard g + sh.toNat < 2 ^ 32 by have := guard_lt g; omega)

theorem sysrd (g n r) : Statement (.sysrd g n r) := fun _ _ h => of_word (n := 0) h
  (show 0x10 * 2 ^ 26 + encCGuard g + n.toNat * 2 ^ 16 + r.toNat < 2 ^ 32 by have := guard_lt g; omega)

theorem syswr (g n r) : Statement (.syswr g n r) := fun _ _ h => of_word (n := 0) h
  (show 0x11 * 2 ^ 26 + encCGuard g + n.toNat * 2 ^ 16 + r.toNat < 2 ^ 32 by have := guard_lt g; omega)

theorem launch (g n t) : Statement (.launch g n t) := fun _ _ h => of_word (n := 0) h
  (show 0x12 * 2 ^ 26 + encCGuard g + n.toNat * 2 ^ 16 + t.toNat * 2 ^ 11 < 2 ^ 32 by have := guard_lt g; omega)

theorem relaunch (g n t) : Statement (.relaunch g n t) := fun _ _ h => of_word (n := 0) h
  (show 0x13 * 2 ^ 26 + encCGuard g + n.toNat * 2 ^ 16 + t.toNat * 2 ^ 11 < 2 ^ 32 by have := guard_lt g; omega)

theorem trace (g n t) : Statement (.trace g n t) := fun _ _ h => of_word (n := 0) h
  (show 0x14 * 2 ^ 26 + encCGuard g + n.toNat * 2 ^ 16 + t.toNat * 2 ^ 11 < 2 ^ 32 by have := guard_lt g; omega)

theorem add (g d a b) : Statement (.add g d a b) := by
  intro k w h
  rcases g with ⟨_ | _, sp⟩
  · exact of_word (n := 1) h (show encS 0x01 ⟨.s0, sp⟩ d.toNat a.toNat + b.toNat < 2 ^ 32 by unfold encS; omega)
  · exact of_word (n := 2) h (show encS 0x01 ⟨.s1, sp⟩ d.toNat a.toNat + b.toNat < 2 ^ 32 by unfold encS; omega)

theorem sub (g d a b) : Statement (.sub g d a b) := by
  intro k w h
  rcases g with ⟨_ | _, sp⟩
  · exact of_word (n := 1) h (show encS 0x02 ⟨.s0, sp⟩ d.toNat a.toNat + b.toNat < 2 ^ 32 by unfold encS; omega)
  · exact of_word (n := 2) h (show encS 0x02 ⟨.s1, sp⟩ d.toNat a.toNat + b.toNat < 2 ^ 32 by unfold encS; omega)

theorem mul (g d a b) : Statement (.mul g d a b) := by
  intro k w h
  rcases g with ⟨_ | _, sp⟩
  · exact of_word (n := 1) h (show encS 0x03 ⟨.s0, sp⟩ d.toNat a.toNat + b.toNat < 2 ^ 32 by unfold encS; omega)
  · exact of_word (n := 2) h (show encS 0x03 ⟨.s1, sp⟩ d.toNat a.toNat + b.toNat < 2 ^ 32 by unfold encS; omega)

theorem mulh (g d a b) : Statement (.mulh g d a b) := by
  intro k w h
  rcases g with ⟨_ | _, sp⟩
  · exact of_word (n := 1) h (show encS 0x04 ⟨.s0, sp⟩ d.toNat a.toNat + b.toNat < 2 ^ 32 by unfold encS; omega)
  · exact of_word (n := 2) h (show encS 0x04 ⟨.s1, sp⟩ d.toNat a.toNat + b.toNat < 2 ^ 32 by unfold encS; omega)

theorem and (g d a b) : Statement (.and g d a b) := by
  intro k w h
  rcases g with ⟨_ | _, sp⟩
  · exact of_word (n := 1) h (show encS 0x05 ⟨.s0, sp⟩ d.toNat a.toNat + b.toNat < 2 ^ 32 by unfold encS; omega)
  · exact of_word (n := 2) h (show encS 0x05 ⟨.s1, sp⟩ d.toNat a.toNat + b.toNat < 2 ^ 32 by unfold encS; omega)

theorem or (g d a b) : Statement (.or g d a b) := by
  intro k w h
  rcases g with ⟨_ | _, sp⟩
  · exact of_word (n := 1) h (show encS 0x06 ⟨.s0, sp⟩ d.toNat a.toNat + b.toNat < 2 ^ 32 by unfold encS; omega)
  · exact of_word (n := 2) h (show encS 0x06 ⟨.s1, sp⟩ d.toNat a.toNat + b.toNat < 2 ^ 32 by unfold encS; omega)

theorem xor (g d a b) : Statement (.xor g d a b) := by
  intro k w h
  rcases g with ⟨_ | _, sp⟩
  · exact of_word (n := 1) h (show encS 0x07 ⟨.s0, sp⟩ d.toNat a.toNat + b.toNat < 2 ^ 32 by unfold encS; omega)
  · exact of_word (n := 2) h (show encS 0x07 ⟨.s1, sp⟩ d.toNat a.toNat + b.toNat < 2 ^ 32 by unfold encS; omega)

theorem andn (g d a b) : Statement (.andn g d a b) := by
  intro k w h
  rcases g with ⟨_ | _, sp⟩
  · exact of_word (n := 1) h (show encS 0x08 ⟨.s0, sp⟩ d.toNat a.toNat + b.toNat < 2 ^ 32 by unfold encS; omega)
  · exact of_word (n := 2) h (show encS 0x08 ⟨.s1, sp⟩ d.toNat a.toNat + b.toNat < 2 ^ 32 by unfold encS; omega)

theorem shl (g d a b) : Statement (.shl g d a b) := by
  intro k w h
  rcases g with ⟨_ | _, sp⟩
  · exact of_word (n := 1) h (show encS 0x09 ⟨.s0, sp⟩ d.toNat a.toNat + b.toNat < 2 ^ 32 by unfold encS; omega)
  · exact of_word (n := 2) h (show encS 0x09 ⟨.s1, sp⟩ d.toNat a.toNat + b.toNat < 2 ^ 32 by unfold encS; omega)

theorem shlImm (g d a kk) : Statement (.shlImm g d a kk) := by
  intro k w h
  rcases g with ⟨_ | _, sp⟩
  · exact of_word (n := 1) h (show encS 0x09 ⟨.s0, sp⟩ d.toNat a.toNat + 2 ^ 9 + kk.toNat < 2 ^ 32 by unfold encS; omega)
  · exact of_word (n := 2) h (show encS 0x09 ⟨.s1, sp⟩ d.toNat a.toNat + 2 ^ 9 + kk.toNat < 2 ^ 32 by unfold encS; omega)

theorem shr (g d a b) : Statement (.shr g d a b) := by
  intro k w h
  rcases g with ⟨_ | _, sp⟩
  · exact of_word (n := 1) h (show encS 0x0A ⟨.s0, sp⟩ d.toNat a.toNat + b.toNat < 2 ^ 32 by unfold encS; omega)
  · exact of_word (n := 2) h (show encS 0x0A ⟨.s1, sp⟩ d.toNat a.toNat + b.toNat < 2 ^ 32 by unfold encS; omega)

theorem shrImm (g d a kk) : Statement (.shrImm g d a kk) := by
  intro k w h
  rcases g with ⟨_ | _, sp⟩
  · exact of_word (n := 1) h (show encS 0x0A ⟨.s0, sp⟩ d.toNat a.toNat + 2 ^ 9 + kk.toNat < 2 ^ 32 by unfold encS; omega)
  · exact of_word (n := 2) h (show encS 0x0A ⟨.s1, sp⟩ d.toNat a.toNat + 2 ^ 9 + kk.toNat < 2 ^ 32 by unfold encS; omega)

theorem sar (g d a b) : Statement (.sar g d a b) := by
  intro k w h
  rcases g with ⟨_ | _, sp⟩
  · exact of_word (n := 1) h (show encS 0x0B ⟨.s0, sp⟩ d.toNat a.toNat + b.toNat < 2 ^ 32 by unfold encS; omega)
  · exact of_word (n := 2) h (show encS 0x0B ⟨.s1, sp⟩ d.toNat a.toNat + b.toNat < 2 ^ 32 by unfold encS; omega)

theorem sarImm (g d a kk) : Statement (.sarImm g d a kk) := by
  intro k w h
  rcases g with ⟨_ | _, sp⟩
  · exact of_word (n := 1) h (show encS 0x0B ⟨.s0, sp⟩ d.toNat a.toNat + 2 ^ 9 + kk.toNat < 2 ^ 32 by unfold encS; omega)
  · exact of_word (n := 2) h (show encS 0x0B ⟨.s1, sp⟩ d.toNat a.toNat + 2 ^ 9 + kk.toNat < 2 ^ 32 by unfold encS; omega)

theorem min (g d a b) : Statement (.min g d a b) := by
  intro k w h
  rcases g with ⟨_ | _, sp⟩
  · exact of_word (n := 1) h (show encS 0x0C ⟨.s0, sp⟩ d.toNat a.toNat + b.toNat < 2 ^ 32 by unfold encS; omega)
  · exact of_word (n := 2) h (show encS 0x0C ⟨.s1, sp⟩ d.toNat a.toNat + b.toNat < 2 ^ 32 by unfold encS; omega)

theorem max (g d a b) : Statement (.max g d a b) := by
  intro k w h
  rcases g with ⟨_ | _, sp⟩
  · exact of_word (n := 1) h (show encS 0x0D ⟨.s0, sp⟩ d.toNat a.toNat + b.toNat < 2 ^ 32 by unfold encS; omega)
  · exact of_word (n := 2) h (show encS 0x0D ⟨.s1, sp⟩ d.toNat a.toNat + b.toNat < 2 ^ 32 by unfold encS; omega)

theorem sel (g d a p b) : Statement (.sel g d a p b) := by
  intro k w h
  rcases g with ⟨_ | _, sp⟩
  · exact of_word (n := 1) h (show encS 0x0E ⟨.s0, sp⟩ d.toNat a.toNat + p.toNat * 2 ^ 7 + b.toNat < 2 ^ 32 by unfold encS; omega)
  · exact of_word (n := 2) h (show encS 0x0E ⟨.s1, sp⟩ d.toNat a.toNat + p.toNat * 2 ^ 7 + b.toNat < 2 ^ 32 by unfold encS; omega)

theorem popc (g d a) : Statement (.popc g d a) := by
  intro k w h
  rcases g with ⟨_ | _, sp⟩
  · exact of_word (n := 1) h (show encS 0x0F ⟨.s0, sp⟩ d.toNat a.toNat < 2 ^ 32 by unfold encS; omega)
  · exact of_word (n := 2) h (show encS 0x0F ⟨.s1, sp⟩ d.toNat a.toNat < 2 ^ 32 by unfold encS; omega)

theorem clz (g d a) : Statement (.clz g d a) := by
  intro k w h
  rcases g with ⟨_ | _, sp⟩
  · exact of_word (n := 1) h (show encS 0x10 ⟨.s0, sp⟩ d.toNat a.toNat < 2 ^ 32 by unfold encS; omega)
  · exact of_word (n := 2) h (show encS 0x10 ⟨.s1, sp⟩ d.toNat a.toNat < 2 ^ 32 by unfold encS; omega)

theorem addi (g d a e) : Statement (.addi g d a e) := by
  intro k w h
  rcases g with ⟨_ | _, sp⟩
  · exact of_word (n := 1) h (show encS 0x11 ⟨.s0, sp⟩ d.toNat a.toNat + e.toNat < 2 ^ 32 by unfold encS; omega)
  · exact of_word (n := 2) h (show encS 0x11 ⟨.s1, sp⟩ d.toNat a.toNat + e.toNat < 2 ^ 32 by unfold encS; omega)

theorem andi (g d a e) : Statement (.andi g d a e) := by
  intro k w h
  rcases g with ⟨_ | _, sp⟩
  · exact of_word (n := 1) h (show encS 0x12 ⟨.s0, sp⟩ d.toNat a.toNat + e.toNat < 2 ^ 32 by unfold encS; omega)
  · exact of_word (n := 2) h (show encS 0x12 ⟨.s1, sp⟩ d.toNat a.toNat + e.toNat < 2 ^ 32 by unfold encS; omega)

theorem ori (g d a e) : Statement (.ori g d a e) := by
  intro k w h
  rcases g with ⟨_ | _, sp⟩
  · exact of_word (n := 1) h (show encS 0x13 ⟨.s0, sp⟩ d.toNat a.toNat + e.toNat < 2 ^ 32 by unfold encS; omega)
  · exact of_word (n := 2) h (show encS 0x13 ⟨.s1, sp⟩ d.toNat a.toNat + e.toNat < 2 ^ 32 by unfold encS; omega)

theorem xori (g d a e) : Statement (.xori g d a e) := by
  intro k w h
  rcases g with ⟨_ | _, sp⟩
  · exact of_word (n := 1) h (show encS 0x14 ⟨.s0, sp⟩ d.toNat a.toNat + e.toNat < 2 ^ 32 by unfold encS; omega)
  · exact of_word (n := 2) h (show encS 0x14 ⟨.s1, sp⟩ d.toNat a.toNat + e.toNat < 2 ^ 32 by unfold encS; omega)

theorem movi (g d e) : Statement (.movi g d e) := by
  intro k w h
  rcases g with ⟨_ | _, sp⟩
  · exact of_word (n := 1) h (show encS 0x15 ⟨.s0, sp⟩ d.toNat 0 + e.toNat < 2 ^ 32 by unfold encS; omega)
  · exact of_word (n := 2) h (show encS 0x15 ⟨.s1, sp⟩ d.toNat 0 + e.toNat < 2 ^ 32 by unfold encS; omega)

theorem movhi (g d e) : Statement (.movhi g d e) := by
  intro k w h
  rcases g with ⟨_ | _, sp⟩
  · exact of_word (n := 1) h (show encS 0x16 ⟨.s0, sp⟩ d.toNat 0 + e.toNat < 2 ^ 32 by unfold encS; omega)
  · exact of_word (n := 2) h (show encS 0x16 ⟨.s1, sp⟩ d.toNat 0 + e.toNat < 2 ^ 32 by unfold encS; omega)

theorem mova (g a n) : Statement (.mova g a n) := by
  intro k w h
  rcases g with ⟨_ | _, sp⟩
  · exact of_word (n := 1) h (show encS 0x17 ⟨.s0, sp⟩ a.toNat n.toNat < 2 ^ 32 by unfold encS; omega)
  · exact of_word (n := 2) h (show encS 0x17 ⟨.s1, sp⟩ a.toNat n.toNat < 2 ^ 32 by unfold encS; omega)

theorem movaD (g a n l) : Statement (.movaD g a n l) := by
  intro k w h
  rcases g with ⟨_ | _, sp⟩
  · exact of_word (n := 1) h (show encS 0x17 ⟨.s0, sp⟩ a.toNat n.toNat + 2 ^ 9 + l.toNat * 2 ^ 6 < 2 ^ 32 by unfold encS; omega)
  · exact of_word (n := 2) h (show encS 0x17 ⟨.s1, sp⟩ a.toNat n.toNat + 2 ^ 9 + l.toNat * 2 ^ 6 < 2 ^ 32 by unfold encS; omega)

theorem movs (g d a) : Statement (.movs g d a) := by
  intro k w h
  rcases g with ⟨_ | _, sp⟩
  · exact of_word (n := 1) h (show encS 0x18 ⟨.s0, sp⟩ d.toNat a.toNat < 2 ^ 32 by unfold encS; omega)
  · exact of_word (n := 2) h (show encS 0x18 ⟨.s1, sp⟩ d.toNat a.toNat < 2 ^ 32 by unfold encS; omega)

theorem pset (g p a b) : Statement (.pset g p a b) := by
  intro k w h
  rcases g with ⟨_ | _, sp⟩
  · exact of_word (n := 1) h (show encS 0x19 ⟨.s0, sp⟩ p.toNat a.toNat + b.toNat < 2 ^ 32 by unfold encS; omega)
  · exact of_word (n := 2) h (show encS 0x19 ⟨.s1, sp⟩ p.toNat a.toNat + b.toNat < 2 ^ 32 by unfold encS; omega)

theorem bext (g d a q ww) : Statement (.bext g d a q ww) := by
  intro k w h
  rcases g with ⟨_ | _, sp⟩
  · exact of_word (n := 1) h (show encS 0x1A ⟨.s0, sp⟩ d.toNat a.toNat + q.toNat * 2 ^ 5 + ww.toNat < 2 ^ 32 by unfold encS; omega)
  · exact of_word (n := 2) h (show encS 0x1A ⟨.s1, sp⟩ d.toNat a.toNat + q.toNat * 2 ^ 5 + ww.toNat < 2 ^ 32 by unfold encS; omega)

theorem bins (g d a q ww) : Statement (.bins g d a q ww) := by
  intro k w h
  rcases g with ⟨_ | _, sp⟩
  · exact of_word (n := 1) h (show encS 0x1B ⟨.s0, sp⟩ d.toNat a.toNat + q.toNat * 2 ^ 5 + ww.toNat < 2 ^ 32 by unfold encS; omega)
  · exact of_word (n := 2) h (show encS 0x1B ⟨.s1, sp⟩ d.toNat a.toNat + q.toNat * 2 ^ 5 + ww.toNat < 2 ^ 32 by unfold encS; omega)

theorem cmp (g c p a b) : Statement (.cmp g c p a b) := by
  intro k w h
  rcases g with ⟨_ | _, sp⟩
  · exact of_word (n := 1) h (show encS (0x20 + c.toNat) ⟨.s0, sp⟩ p.toNat a.toNat + b.toNat < 2 ^ 32 by unfold encS; omega)
  · exact of_word (n := 2) h (show encS (0x20 + c.toNat) ⟨.s1, sp⟩ p.toNat a.toNat + b.toNat < 2 ^ 32 by unfold encS; omega)

theorem cmpi (g c p a e) : Statement (.cmpi g c p a e) := by
  intro k w h
  rcases g with ⟨_ | _, sp⟩
  · exact of_word (n := 1) h (show encS (0x28 + c.toNat) ⟨.s0, sp⟩ p.toNat a.toNat + e.toNat < 2 ^ 32 by unfold encS; omega)
  · exact of_word (n := 2) h (show encS (0x28 + c.toNat) ⟨.s1, sp⟩ p.toNat a.toNat + e.toNat < 2 ^ 32 by unfold encS; omega)

theorem vadd (o) : Statement (.vadd o) := by
  intro k w h
  rcases o with ⟨_ | _, mask⟩
  · exact of_word (n := 4) h (vector_lt _ (by omega))
  · exact of_word (n := 5) h (vector_lt _ (by omega))

theorem vsub (o) : Statement (.vsub o) := by
  intro k w h
  rcases o with ⟨_ | _, mask⟩
  · exact of_word (n := 4) h (vector_lt _ (by omega))
  · exact of_word (n := 5) h (vector_lt _ (by omega))

theorem vmul (o) : Statement (.vmul o) := by
  intro k w h
  rcases o with ⟨_ | _, mask⟩
  · exact of_word (n := 4) h (vector_lt _ (by omega))
  · exact of_word (n := 5) h (vector_lt _ (by omega))

theorem vmulh (o) : Statement (.vmulh o) := by
  intro k w h
  rcases o with ⟨_ | _, mask⟩
  · exact of_word (n := 4) h (vector_lt _ (by omega))
  · exact of_word (n := 5) h (vector_lt _ (by omega))

theorem vmad (o) : Statement (.vmad o) := by
  intro k w h
  rcases o with ⟨_ | _, mask⟩
  · exact of_word (n := 4) h (vector_lt _ (by omega))
  · exact of_word (n := 5) h (vector_lt _ (by omega))

theorem vabs (o) : Statement (.vabs o) := by
  intro k w h
  rcases o with ⟨_ | _, mask⟩
  · exact of_word (n := 4) h (vector_lt _ (by omega))
  · exact of_word (n := 5) h (vector_lt _ (by omega))

theorem vmin (o) : Statement (.vmin o) := by
  intro k w h
  rcases o with ⟨_ | _, mask⟩
  · exact of_word (n := 4) h (vector_lt _ (by omega))
  · exact of_word (n := 5) h (vector_lt _ (by omega))

theorem vmax (o) : Statement (.vmax o) := by
  intro k w h
  rcases o with ⟨_ | _, mask⟩
  · exact of_word (n := 4) h (vector_lt _ (by omega))
  · exact of_word (n := 5) h (vector_lt _ (by omega))

theorem vand (o) : Statement (.vand o) := by
  intro k w h
  rcases o with ⟨_ | _, mask⟩
  · exact of_word (n := 4) h (vector_lt _ (by omega))
  · exact of_word (n := 5) h (vector_lt _ (by omega))

theorem vor (o) : Statement (.vor o) := by
  intro k w h
  rcases o with ⟨_ | _, mask⟩
  · exact of_word (n := 4) h (vector_lt _ (by omega))
  · exact of_word (n := 5) h (vector_lt _ (by omega))

theorem vxor (o) : Statement (.vxor o) := by
  intro k w h
  rcases o with ⟨_ | _, mask⟩
  · exact of_word (n := 4) h (vector_lt _ (by omega))
  · exact of_word (n := 5) h (vector_lt _ (by omega))

theorem vshl (o) : Statement (.vshl o) := by
  intro k w h
  rcases o with ⟨_ | _, mask⟩
  · exact of_word (n := 4) h (vector_lt _ (by omega))
  · exact of_word (n := 5) h (vector_lt _ (by omega))

theorem vshr (o) : Statement (.vshr o) := by
  intro k w h
  rcases o with ⟨_ | _, mask⟩
  · exact of_word (n := 4) h (vector_lt _ (by omega))
  · exact of_word (n := 5) h (vector_lt _ (by omega))

theorem vsar (o) : Statement (.vsar o) := by
  intro k w h
  rcases o with ⟨_ | _, mask⟩
  · exact of_word (n := 4) h (vector_lt _ (by omega))
  · exact of_word (n := 5) h (vector_lt _ (by omega))

theorem vpopc (o) : Statement (.vpopc o) := by
  intro k w h
  rcases o with ⟨_ | _, mask⟩
  · exact of_word (n := 4) h (vector_lt _ (by omega))
  · exact of_word (n := 5) h (vector_lt _ (by omega))

theorem vclz (o) : Statement (.vclz o) := by
  intro k w h
  rcases o with ⟨_ | _, mask⟩
  · exact of_word (n := 4) h (vector_lt _ (by omega))
  · exact of_word (n := 5) h (vector_lt _ (by omega))

theorem vsel (o) : Statement (.vsel o) := by
  intro k w h
  rcases o with ⟨_ | _, mask⟩
  · exact of_word (n := 4) h (vector_lt _ (by omega))
  · exact of_word (n := 5) h (vector_lt _ (by omega))

theorem vcmp (c o) : Statement (.vcmp c o) := by
  intro k w h
  rcases o with ⟨_ | _, mask⟩
  · exact of_word (n := 4) h (vector_lt _ (by omega))
  · exact of_word (n := 5) h (vector_lt _ (by omega))

theorem fadd (o) : Statement (.fadd o) := by
  intro k w h
  rcases o with ⟨_ | _, mask⟩
  · exact of_word (n := 4) h (vector_lt _ (by omega))
  · exact of_word (n := 5) h (vector_lt _ (by omega))

theorem fsub (o) : Statement (.fsub o) := by
  intro k w h
  rcases o with ⟨_ | _, mask⟩
  · exact of_word (n := 4) h (vector_lt _ (by omega))
  · exact of_word (n := 5) h (vector_lt _ (by omega))

theorem fmul (o) : Statement (.fmul o) := by
  intro k w h
  rcases o with ⟨_ | _, mask⟩
  · exact of_word (n := 4) h (vector_lt _ (by omega))
  · exact of_word (n := 5) h (vector_lt _ (by omega))

theorem ffma (o) : Statement (.ffma o) := by
  intro k w h
  rcases o with ⟨_ | _, mask⟩
  · exact of_word (n := 4) h (vector_lt _ (by omega))
  · exact of_word (n := 5) h (vector_lt _ (by omega))

theorem fmin (o) : Statement (.fmin o) := by
  intro k w h
  rcases o with ⟨_ | _, mask⟩
  · exact of_word (n := 4) h (vector_lt _ (by omega))
  · exact of_word (n := 5) h (vector_lt _ (by omega))

theorem fmax (o) : Statement (.fmax o) := by
  intro k w h
  rcases o with ⟨_ | _, mask⟩
  · exact of_word (n := 4) h (vector_lt _ (by omega))
  · exact of_word (n := 5) h (vector_lt _ (by omega))

theorem fclass (o) : Statement (.fclass o) := by
  intro k w h
  rcases o with ⟨_ | _, mask⟩
  · exact of_word (n := 4) h (vector_lt _ (by omega))
  · exact of_word (n := 5) h (vector_lt _ (by omega))

theorem fdiv (o) : Statement (.fdiv o) := by
  intro k w h
  rcases o with ⟨_ | _, mask⟩
  · exact of_word (n := 4) h (vector_lt _ (by omega))
  · exact of_word (n := 5) h (vector_lt _ (by omega))

theorem fsqrt (o) : Statement (.fsqrt o) := by
  intro k w h
  rcases o with ⟨_ | _, mask⟩
  · exact of_word (n := 4) h (vector_lt _ (by omega))
  · exact of_word (n := 5) h (vector_lt _ (by omega))

theorem frcp (o) : Statement (.frcp o) := by
  intro k w h
  rcases o with ⟨_ | _, mask⟩
  · exact of_word (n := 4) h (vector_lt _ (by omega))
  · exact of_word (n := 5) h (vector_lt _ (by omega))

theorem fexp2 (o) : Statement (.fexp2 o) := by
  intro k w h
  rcases o with ⟨_ | _, mask⟩
  · exact of_word (n := 4) h (vector_lt _ (by omega))
  · exact of_word (n := 5) h (vector_lt _ (by omega))

theorem flog2 (o) : Statement (.flog2 o) := by
  intro k w h
  rcases o with ⟨_ | _, mask⟩
  · exact of_word (n := 4) h (vector_lt _ (by omega))
  · exact of_word (n := 5) h (vector_lt _ (by omega))

theorem fsin (o) : Statement (.fsin o) := by
  intro k w h
  rcases o with ⟨_ | _, mask⟩
  · exact of_word (n := 4) h (vector_lt _ (by omega))
  · exact of_word (n := 5) h (vector_lt _ (by omega))

theorem fcos (o) : Statement (.fcos o) := by
  intro k w h
  rcases o with ⟨_ | _, mask⟩
  · exact of_word (n := 4) h (vector_lt _ (by omega))
  · exact of_word (n := 5) h (vector_lt _ (by omega))

theorem frnd (o) : Statement (.frnd o) := by
  intro k w h
  rcases o with ⟨_ | _, mask⟩
  · exact of_word (n := 4) h (vector_lt _ (by omega))
  · exact of_word (n := 5) h (vector_lt _ (by omega))

theorem fcmp (c o) : Statement (.fcmp c o) := by
  intro k w h
  rcases o with ⟨_ | _, mask⟩
  · exact of_word (n := 4) h (vector_lt _ (by omega))
  · exact of_word (n := 5) h (vector_lt _ (by omega))

theorem cvt (o) : Statement (.cvt o) := by
  intro k w h
  rcases o with ⟨_ | _, mask⟩
  · exact of_word (n := 4) h (vector_lt _ (by omega))
  · exact of_word (n := 5) h (vector_lt _ (by omega))

theorem dsplit (o) : Statement (.dsplit o) := by
  intro k w h
  rcases o with ⟨_ | _, mask⟩
  · exact of_word (n := 4) h (vector_lt _ (by omega))
  · exact of_word (n := 5) h (vector_lt _ (by omega))

theorem qpack (o) : Statement (.qpack o) := by
  intro k w h
  rcases o with ⟨_ | _, mask⟩
  · exact of_word (n := 4) h (vector_lt _ (by omega))
  · exact of_word (n := 5) h (vector_lt _ (by omega))

theorem qunpack (o) : Statement (.qunpack o) := by
  intro k w h
  rcases o with ⟨_ | _, mask⟩
  · exact of_word (n := 4) h (vector_lt _ (by omega))
  · exact of_word (n := 5) h (vector_lt _ (by omega))

theorem vimm (o) : Statement (.vimm o) := by
  intro k w h
  rcases o with ⟨_ | _, mask⟩
  · exact of_word (n := 4) h (vector_lt _ (by omega))
  · exact of_word (n := 5) h (vector_lt _ (by omega))

theorem vmov (o) : Statement (.vmov o) := by
  intro k w h
  rcases o with ⟨_ | _, mask⟩
  · exact of_word (n := 4) h (vector_lt _ (by omega))
  · exact of_word (n := 5) h (vector_lt _ (by omega))

theorem vbcast (o) : Statement (.vbcast o) := by
  intro k w h
  rcases o with ⟨_ | _, mask⟩
  · exact of_word (n := 4) h (vector_lt _ (by omega))
  · exact of_word (n := 5) h (vector_lt _ (by omega))

theorem vmovs (o) : Statement (.vmovs o) := by
  intro k w h
  rcases o with ⟨_ | _, mask⟩
  · exact of_word (n := 4) h (vector_lt _ (by omega))
  · exact of_word (n := 5) h (vector_lt _ (by omega))

theorem vshuf (o) : Statement (.vshuf o) := by
  intro k w h
  rcases o with ⟨_ | _, mask⟩
  · exact of_word (n := 4) h (vector_lt _ (by omega))
  · exact of_word (n := 5) h (vector_lt _ (by omega))

theorem vxcl (o) : Statement (.vxcl o) := by
  intro k w h
  rcases o with ⟨_ | _, mask⟩
  · exact of_word (n := 4) h (vector_lt _ (by omega))
  · exact of_word (n := 5) h (vector_lt _ (by omega))

theorem vlane (o) : Statement (.vlane o) := by
  intro k w h
  rcases o with ⟨_ | _, mask⟩
  · exact of_word (n := 4) h (vector_lt _ (by omega))
  · exact of_word (n := 5) h (vector_lt _ (by omega))

theorem vred (o) : Statement (.vred o) := by
  intro k w h
  rcases o with ⟨_ | _, mask⟩
  · exact of_word (n := 4) h (vector_lt _ (by omega))
  · exact of_word (n := 5) h (vector_lt _ (by omega))

theorem rdrain (o) : Statement (.rdrain o) := by
  intro k w h
  rcases o with ⟨_ | _, mask⟩
  · exact of_word (n := 4) h (vector_lt _ (by omega))
  · exact of_word (n := 5) h (vector_lt _ (by omega))

theorem vmrd (o) : Statement (.vmrd o) := by
  intro k w h
  rcases o with ⟨_ | _, mask⟩
  · exact of_word (n := 4) h (vector_lt _ (by omega))
  · exact of_word (n := 5) h (vector_lt _ (by omega))

theorem vmwr (o) : Statement (.vmwr o) := by
  intro k w h
  rcases o with ⟨_ | _, mask⟩
  · exact of_word (n := 4) h (vector_lt _ (by omega))
  · exact of_word (n := 5) h (vector_lt _ (by omega))

theorem ldv (o) : Statement (.ldv o) := fun _ _ h => of_word (n := 6) h
  (mv_lt o (by decide))

theorem stv (o) : Statement (.stv o) := fun _ _ h => of_word (n := 6) h
  (mv_lt o (by decide))

theorem lds (o) : Statement (.lds o) := fun _ _ h => of_word (n := 6) h
  (ms_lt o (by decide))

theorem sts (o) : Statement (.sts o) := fun _ _ h => of_word (n := 6) h
  (ms_lt o (by decide))

theorem ldx (o) : Statement (.ldx o) := fun _ _ h => of_word (n := 6) h
  (mx_lt o (by decide))

theorem stx (o) : Statement (.stx o) := fun _ _ h => of_word (n := 6) h
  (mx_lt o (by decide))

theorem ldt (o) : Statement (.ldt o) := fun _ _ h => of_word (n := 6) h
  (mv_lt o (by decide))

theorem stt (o) : Statement (.stt o) := fun _ _ h => of_word (n := 6) h
  (mv_lt o (by decide))

theorem ldm (o) : Statement (.ldm o) := fun _ _ h => of_word (n := 6) h
  (mm_lt o (by decide))

theorem stm (o) : Statement (.stm o) := fun _ _ h => of_word (n := 6) h
  (mm_lt o (by decide))

theorem amo (o) : Statement (.amo o) := fun _ _ h => of_word (n := 6) h
  (ma_lt o (by decide))

theorem fence (hd set) : Statement (.fence hd set) := fun _ _ h => of_word (n := 6) h
  (show encM 0x0C hd + set.toNat * 2 ^ 40 < 2 ^ 64 by have := memory_head (c := 0x0C) hd (by decide); omega)

theorem bind (o) : Statement (.bind o) := fun _ _ h => of_word (n := 6) h
  (mb_lt o (by decide))

theorem unbind (o) : Statement (.unbind o) := fun _ _ h => of_word (n := 6) h
  (mb_lt o (by decide))

theorem cbset (o) : Statement (.cbset o) := fun _ _ h => of_word (n := 6) h
  (mb_lt o (by decide))

theorem copy (o) : Statement (.copy o) := fun _ _ h => of_word (n := 6) h
  (mc_lt o (by decide))

theorem copyo (o) : Statement (.copyo o) := fun _ _ h => of_word (n := 6) h
  (mc_lt o (by decide))

theorem gatherp (o) : Statement (.gatherp o) := fun _ _ h => of_word (n := 6) h
  (mc_lt o (by decide))

theorem mpost (o) : Statement (.mpost o) := fun _ _ h => of_word (n := 6) h
  (mc_lt o (by decide))

theorem tqpush (o) : Statement (.tqpush o) := fun _ _ h => of_word (n := 6) h
  (mc_lt o (by decide))

theorem streamPushLand (x0) : Statement (.streamPushLand x0) := fun _ _ h => nomatch h

theorem mma (o) : Statement (.mma o) := fun _ _ h => of_word (n := 3) h
  (em_lt o (by decide))

theorem mmaSplit (o) : Statement (.mmaSplit o) := fun _ _ h => of_word (n := 3) h
  (em_lt o (by decide))

theorem mmas (o) : Statement (.mmas o) := fun _ _ h => of_word (n := 3) h
  (em_lt o (by decide))

theorem mmaRepeat (x0) : Statement (.mmaRepeat x0) := fun _ _ h => nomatch h

theorem mmaComplete (x0) : Statement (.mmaComplete x0) := fun _ _ h => nomatch h

theorem mzero (hd acc) : Statement (.mzero hd acc) := fun _ _ h => of_word (n := 3) h
  (show encE 0x03 hd + acc.toNat * 2 ^ 38 < 2 ^ 64 by have := engine_head (c := 0x03) hd (by decide); omega)

theorem mdrain (hd acc m t rows) : Statement (.mdrain hd acc m t rows) := fun _ _ h => of_word (n := 3) h
  (show encE 0x04 hd + acc.toNat * 2 ^ 38 + m.toNat * 2 ^ 33 + t.toNat * 2 ^ 29 + rows.toNat * 2 ^ 23 < 2 ^ 64 by have := engine_head (c := 0x04) hd (by decide); omega)

theorem mdrainComplete (x0) : Statement (.mdrainComplete x0) := fun _ _ h => nomatch h

theorem mbsel (hd a) : Statement (.mbsel hd a) := fun _ _ h => of_word (n := 3) h
  (show encE 0x05 hd + a.toNat * 2 ^ 40 < 2 ^ 64 by have := engine_head (c := 0x05) hd (by decide); omega)

theorem fmtt (hd e s) : Statement (.fmtt hd e s) := fun _ _ h => of_word (n := 3) h
  (show encE 0x06 hd + e.toNat * 2 ^ 40 + s.toNat * 2 ^ 34 < 2 ^ 64 by have := engine_head (c := 0x06) hd (by decide); omega)

theorem pload (hd a n) : Statement (.pload hd a n) := fun _ _ h => of_word (n := 3) h
  (show encE 0x10 hd + a.toNat * 2 ^ 40 + n.toNat * 2 ^ 32 < 2 ^ 64 by have := engine_head (c := 0x10) hd (by decide); omega)

theorem ploadStart (x0) : Statement (.ploadStart x0) := fun _ _ h => nomatch h

theorem ploadComplete (x0) : Statement (.ploadComplete x0) := fun _ _ h => nomatch h

theorem prun (hd b x) : Statement (.prun hd b x) := fun _ _ h => of_word (n := 3) h
  (show encE 0x11 hd + b.toNat * 2 ^ 38 + x.toNat * 2 ^ 30 < 2 ^ 64 by have := engine_head (c := 0x11) hd (by decide); omega)

theorem paneRunStart (x0) : Statement (.paneRunStart x0) := fun _ _ h => nomatch h

theorem wact (x y a b) : Statement (.wact x y a b) := fun _ _ h => of_word (n := 7) h
  (show 1 * 2 ^ 29 + b2n x * 2 ^ 28 + b2n y * 2 ^ 27 + a.toNat * 2 ^ 19 + b.toNat * 2 ^ 11 < 2 ^ 32 by have := flag_le x; have := flag_le y; omega)

theorem wwb (l p f r) : Statement (.wwb l p f r) := fun _ _ h => of_word (n := 7) h
  (show 2 * 2 ^ 29 + b2n l * 2 ^ 28 + b2n p * 2 ^ 27 + f.toNat * 2 ^ 24 + r.toNat * 2 ^ 16 < 2 ^ 32 by have := flag_le l; have := flag_le p; omega)

theorem wlat (l t c r) : Statement (.wlat l t c r) := fun _ _ h => of_word (n := 7) h
  (show 3 * 2 ^ 29 + b2n l * 2 ^ 28 + b2n t * 2 ^ 27 + c.toNat * 2 ^ 25 + r.toNat * 2 ^ 17 < 2 ^ 32 by have := flag_le l; have := flag_le t; omega)

theorem wbr (t c s) : Statement (.wbr t c s) := fun _ _ h => of_word (n := 7) h
  (show 4 * 2 ^ 29 + t.toNat * 2 ^ 21 + c.toNat * 2 ^ 13 + s.toNat * 2 ^ 9 < 2 ^ 32 by omega)

theorem wend : Statement (.wend) := fun _ _ h => of_word (n := 7) h
  (show 5 * 2 ^ 29 < 2 ^ 32 by omega)

theorem arbitrationWindow (x0) : Statement (.arbitrationWindow x0) := fun _ _ h => nomatch h

theorem paneRunComplete (x0) : Statement (.paneRunComplete x0) := fun _ _ h => nomatch h

theorem fsel (o) : Statement (.fsel o) := fun _ _ h => of_word (n := 3) h
  (ex_lt o (by decide))

theorem fselm (o) : Statement (.fselm o) := fun _ _ h => of_word (n := 3) h
  (ex_lt o (by decide))

theorem fins (o) : Statement (.fins o) := fun _ _ h => of_word (n := 3) h
  (ex_lt o (by decide))

theorem fupd (o) : Statement (.fupd o) := fun _ _ h => of_word (n := 3) h
  (ex_lt o (by decide))

theorem fdel (o) : Statement (.fdel o) := fun _ _ h => of_word (n := 3) h
  (ex_lt o (by decide))

theorem fspill (o) : Statement (.fspill o) := fun _ _ h => of_word (n := 3) h
  (ex_lt o (by decide))

theorem ffill (o) : Statement (.ffill o) := fun _ _ h => of_word (n := 3) h
  (ex_lt o (by decide))

theorem fclr (o) : Statement (.fclr o) := fun _ _ h => of_word (n := 3) h
  (ex_lt o (by decide))

theorem ssq (o) : Statement (.ssq o) := fun _ _ h => of_word (n := 3) h
  (ex_lt o (by decide))

theorem facetCommandStart (x0) : Statement (.facetCommandStart x0) := fun _ _ h => nomatch h

theorem facetMerge (x0) : Statement (.facetMerge x0) := fun _ _ h => nomatch h

theorem ssuRequest (x0) : Statement (.ssuRequest x0) := fun _ _ h => nomatch h

theorem ssuScan (x0 x1) : Statement (.ssuScan x0 x1) := fun _ _ h => nomatch h

theorem spillVisible (x0) : Statement (.spillVisible x0) := fun _ _ h => nomatch h

theorem fillTransitEnd (x0) : Statement (.fillTransitEnd x0) := fun _ _ h => nomatch h

theorem facetCommandComplete (x0) : Statement (.facetCommandComplete x0) := fun _ _ h => nomatch h

theorem copyRow (x0) : Statement (.copyRow x0) := fun _ _ h => nomatch h

theorem pageWalk (x0) : Statement (.pageWalk x0) := fun _ _ h => nomatch h

theorem copyComplete (x0) : Statement (.copyComplete x0) := fun _ _ h => nomatch h

theorem launchAccept (x0) : Statement (.launchAccept x0) := fun _ _ h => nomatch h

theorem relaunchRun (x0) : Statement (.relaunchRun x0) := fun _ _ h => nomatch h

theorem relaunchComplete (x0) : Statement (.relaunchComplete x0) := fun _ _ h => nomatch h

theorem traceComplete (x0) : Statement (.traceComplete x0) := fun _ _ h => nomatch h

theorem launchComplete (x0) : Statement (.launchComplete x0) := fun _ _ h => nomatch h

theorem distributorPlace : Statement (.distributorPlace) := fun _ _ h => nomatch h

theorem dieReport : Statement (.dieReport) := fun _ _ h => nomatch h

theorem tickAdvance : Statement (.tickAdvance) := fun _ _ h => nomatch h

theorem runmaxBreach (x0) : Statement (.runmaxBreach x0) := fun _ _ h => nomatch h

theorem taskStart (x0) : Statement (.taskStart x0) := fun _ _ h => nomatch h

theorem taskRetire (x0) : Statement (.taskRetire x0) := fun _ _ h => nomatch h

theorem lentSlotMove (x0) : Statement (.lentSlotMove x0) := fun _ _ h => nomatch h

theorem swapRequest (x0) : Statement (.swapRequest x0) := fun _ _ h => nomatch h

theorem quantumExpiry (x0) : Statement (.quantumExpiry x0) := fun _ _ h => nomatch h

theorem contextSwap (x0) : Statement (.contextSwap x0) := fun _ _ h => nomatch h

theorem park (x0) : Statement (.park x0) := fun _ _ h => nomatch h

theorem waitTableWake (x0) : Statement (.waitTableWake x0) := fun _ _ h => nomatch h

theorem mailboxRegister (x0 x1 x2 x3 x4 x5 x6) : Statement (.mailboxRegister x0 x1 x2 x3 x4 x5 x6) := fun _ _ h => nomatch h

theorem mailboxAccept (x0) : Statement (.mailboxAccept x0) := fun _ _ h => nomatch h

theorem hostMessage (x0 x1) : Statement (.hostMessage x0 x1) := fun _ _ h => nomatch h

theorem hostMemoryWrite (x0 x1) : Statement (.hostMemoryWrite x0 x1) := fun _ _ h => nomatch h

theorem hostMemoryRead (x0 x1) : Statement (.hostMemoryRead x0 x1) := fun _ _ h => nomatch h

theorem stampedWriteApply (x0) : Statement (.stampedWriteApply x0) := fun _ _ h => nomatch h

theorem frontierPublish (x0) : Statement (.frontierPublish x0) := fun _ _ h => nomatch h

theorem replicatedWrite (x0) : Statement (.replicatedWrite x0) := fun _ _ h => nomatch h

theorem linkIngressWrite (x0 x1 x2) : Statement (.linkIngressWrite x0 x1 x2) := fun _ _ h => nomatch h

theorem linkReplay (x0) : Statement (.linkReplay x0) := fun _ _ h => nomatch h

theorem coreResume (x0) : Statement (.coreResume x0) := fun _ _ h => nomatch h

theorem taskKill (x0) : Statement (.taskKill x0) := fun _ _ h => nomatch h

theorem cwinWrite (x0 x1) : Statement (.cwinWrite x0 x1) := fun _ _ h => nomatch h

theorem cpartWrite (x0 x1) : Statement (.cpartWrite x0 x1) := fun _ _ h => nomatch h

theorem cfstatWrite (x0 x1 x2) : Statement (.cfstatWrite x0 x1 x2) := fun _ _ h => nomatch h

theorem spdatRead (x0) : Statement (.spdatRead x0) := fun _ _ h => nomatch h

theorem spdatWrite (x0 x1) : Statement (.spdatWrite x0 x1) := fun _ _ h => nomatch h

theorem ticklenWrite (x0) : Statement (.ticklenWrite x0) := fun _ _ h => nomatch h

theorem slipLogPop : Statement (.slipLogPop) := fun _ _ h => nomatch h

theorem tlbInvalidate (x0) : Statement (.tlbInvalidate x0) := fun _ _ h => nomatch h

theorem tlbInvalidateAsid (x0) : Statement (.tlbInvalidateAsid x0) := fun _ _ h => nomatch h

theorem splinter (x0) : Statement (.splinter x0) := fun _ _ h => nomatch h

theorem invalidationComplete (x0) : Statement (.invalidationComplete x0) := fun _ _ h => nomatch h

theorem faultRetry (x0 x1) : Statement (.faultRetry x0 x1) := fun _ _ h => nomatch h

theorem faultRefuse (x0 x1) : Statement (.faultRefuse x0 x1) := fun _ _ h => nomatch h

theorem faultLogPop (x0) : Statement (.faultLogPop x0) := fun _ _ h => nomatch h

theorem trsbaseWrite (x0) : Statement (.trsbaseWrite x0) := fun _ _ h => nomatch h

theorem registerWrite (x0 x1 x2 x3) : Statement (.registerWrite x0 x1 x2 x3) := fun _ _ h => nomatch h

theorem deviceReset : Statement (.deviceReset) := fun _ _ h => nomatch h

theorem powerOn : Statement (.powerOn) := fun _ _ h => nomatch h

theorem bootStageAdvance (x0) : Statement (.bootStageAdvance x0) := fun _ _ h => nomatch h

theorem recoveryImage (x0 x1) : Statement (.recoveryImage x0 x1) := fun _ _ h => nomatch h

theorem channelFence (x0 x1) : Statement (.channelFence x0 x1) := fun _ _ h => nomatch h

theorem softErrorCorrect (x0) : Statement (.softErrorCorrect x0) := fun _ _ h => nomatch h

theorem powerThrottle (x0) : Statement (.powerThrottle x0) := fun _ _ h => nomatch h

theorem thermalTrip (x0) : Statement (.thermalTrip x0) := fun _ _ h => nomatch h

theorem packageRestart (x0) : Statement (.packageRestart x0) := fun _ _ h => nomatch h

theorem routeReturn (x0 x1) : Statement (.routeReturn x0 x1) := fun _ _ h => nomatch h

theorem hostLinkDown : Statement (.hostLinkDown) := fun _ _ h => nomatch h

theorem firmwareMemoryWrite (x0 x1 x2) : Statement (.firmwareMemoryWrite x0 x1 x2) := fun _ _ h => nomatch h

end Sys2Proof.Laws.Encoding
end

