-- ==== Sys2Proof/Tests/Slice0.lean ====
section
/-! SUPPORT. Tests: ill-formed instructions are refused, the spec's words decode, the spec's worked examples, and for every
statement with premises a state and operands that meet them, each clause of its own. Expected results are the spec's. -/

namespace Sys2Proof.Tests

open Sys2Proof.Machine

set_option exponentiation.threshold 400

/-! ## Small states -/

/-- A task. -/
def aTask : Task := ⟨0, 0, 0, 0, 0, [], false, none, 0, none, none, 0, [], 0, 0, 0⟩

/-- A context that runs it, with VB = 8 and MB = 4 (R31). -/
def aCtx : Ctx := { Ctx.reset false with partition := 0x82000000#32, phase := .running, task := some aTask }

/-- The machine with that context on core 0, changed. -/
def on (f : Ctx → Ctx) : State := State.reset.setCore 0 { Core.reset with act := f aCtx }

/-- The machine with a core 0 that runs that context, changed. -/
def onCore0 (f : Core → Core) : State := State.reset.setCore 0 (f { Core.reset with act := aCtx })

/-- A vector operation on .i32 in cluster 0. -/
def aVOp (slot : VSlot) (d a b : BitVec 10) : VOp := ⟨slot, 1#8, 0#4, false, d, a, b, false, 4#4, false, 0#2, 0#2⟩

/-- Guards that are true and false. -/
def yes : SGuard := ⟨0#3, false⟩

/-- A guard that is false. -/
def no : SGuard := ⟨0#3, true⟩

/-- A scalar head with a true guard. -/
def head0 : SHead := ⟨.s0, 0#3⟩

/-- A scalar result in flight. -/
def aLanding (e : Eff) : Landing := ⟨1, 0, .s0, 0, false, false, e⟩

/-- Operands that a slot may name, and a guard under which it runs. -/
def fit (s : State) (o : VOp) (l : List (Nat × Nat)) : Bool :=
  (l.all fun e => !s.act.badName e.1) && !(decide (o.gp = 0#4) && o.gs) &&
    !(s.act.fpuHold.any fun h => decide (h.1 = o.slotOf) && decide (h.2 = s.cycle))

/-- A state of core 0 whose scalar registers hold something. -/
def withS (l : List (Nat × Word)) : State := on fun x => { x with regs := { x.regs with s := l } }

/-- A state of core 0 whose address registers hold something. -/
def withA (l : List (Nat × Word)) : State := on fun x => { x with regs := { x.regs with a := l } }

/-- A drain and a matrix command that use m0, and the sums that are not final. -/
def using_ (cycle : Nat) (u : MxUse) : State :=
  { (onCore0 fun c => { c with mx := { c.mx with uses := [u] } }) with cycle := cycle }

/-- The head of an unguarded memory instruction of one cluster. -/
def mh (mask : BitVec 8) : MHead := ⟨true, 0#4, false, false, mask⟩

theorem clear_on (a d : Nat) (l : List (Nat × Word)) : (withA l).clearMemory a d := fun _ h => nomatch h

/-- A machine with page tables, entries of eight bytes: the root of address space 0 is at 0x100000. -/
def tables (s : State) (l : List (Nat × Nat)) : State := { s with
  roots := [(0, 0x100000)]
  hbm := l.foldl (fun m e => Memory.writeBytes m e.1 (toBytes e.2 8)) s.hbm }

/-- A machine in which 1 GiB from address 0 on translates to itself for address space 0. -/
def mapped (s : State) : State := tables s [(0x100000, 0x200001), (0x200000, 0xF)]

/-- The leaf of that page. -/
def wide : Leaf := ⟨0, 0, 30, true, true, 0, false, 0⟩

/-- The same with the leaf in the TLB of a copy engine of die 0. -/
def cached (s : State) : State := (mapped s).onDie 0 fun d => { d with tlbs := [⟨0, 0, 0, wide⟩] }

/-- A matrix operation of four beats into m4 from m1, a2 and a3. -/
def anEm (acc : BitVec 6) : EmOp := ⟨⟨yes, false, 3#8⟩, acc, 0#2, 1#5, 2#4, 3#4, 0#2, false, 0#2, false⟩

/-! ## Encoding and the step -/

theorem met_DecodeEncode : let i := Instr.vadd (aVOp .v0 5#10 3#10 4#10);
    wf i = true ∧ microOk i = true ∧ encode i = some (4, 0x0100040500C04200) := by decide

theorem met_EncodeDecode : decodeSlot 1 0x44021005 = some (.cmp head0 2#3 2#3 4#6 5#6) := by decide

theorem met_RefusedBundleNamesLowestSyllable : (decodeBundle (2 ^ 384 - 1)).toOption = none := by decide

theorem met_StepRunsWhatIsDue :
    nextEvent (on id) = .event 0 (.bundleIssue 0) ∧
    nextEvent { State.reset with stopped := true, inputs := [(0, .packageRestart 50)] } = .input (.packageRestart 50) [] ∧
    (let s := stateOf State.reset (step State.reset); nextEvent s = .idle ∧ s.stopped = false) ∧
    (let s := { State.reset with stopped := true }; nextEvent s = .idle ∧ s.stopped = true) := by decide;

theorem met_BundleSlotsRunExec : (decodeBundle (0x20000000 * 2 ^ 32)).toOption.map (fun b => b.c) = some (.halt yes) := by
  decide

theorem met_GuardFalse : let s := on id
    (wf (.ret no) = true ∧ Instr.controlGuard (.ret no) = some no ∧ no.holds s.act.regs = false) ∧
    (let i := Instr.add ⟨.s0, 1#3⟩ 1#6 2#6 3#6;
      wf i = true ∧ i.scalarHead = some ⟨.s0, 1#3⟩ ∧ s.act.regs.readSp 1 = false) ∧
    (let i := Instr.lds ⟨⟨false, 0#4, true, false, 0#8⟩, 9#6, 2#4, 0#16, 4#4, false⟩;
      wf i = true ∧ (i.memoryHead.map fun h => h.never s.act.regs) = some true) ∧
    (let o : VOp := { aVOp .v0 5#10 3#10 4#10 with gs := true };
      wf (.vadd o) = true ∧ (vRule (.vadd o)).map (fun e => e.2) = some o ∧ o.gp = 0#4 ∧ o.gs = true) ∧
    (Instr.controlGuard (.sysrd no 3#6 8#12) = some no ∧ Instr.controlGuard (.syswr no 3#6 4#12) = some no) ∧
    (let i := Instr.mzero ⟨no, false, 0#8⟩ 4#6;
      wf i = true ∧ i.engineHead = some ⟨no, false, 0#8⟩ ∧ no.holds s.act.regs = false) := by decide

theorem met_GuardFalse_names : (on id).plainNames (.lds ⟨⟨false, 0#4, true, false, 0#8⟩, 9#6, 2#4, 0#16, 4#4, false⟩) := by
  unfold State.plainNames
  decide

/-! ## The scalar slots -/

theorem met_ScalarResults : let s := on id
    (scalarEffect s.act.regs (.movi head0 1#6 0x8000#16) = some (head0, 1, .s 1 0xFFFF8000#32) ∧
      head0.holds s.act.regs = true ∧ (Eff.s 1 0xFFFF8000#32).discarded = false) ∧
    (scalarEffect s.act.regs (.movi head0 0#6 1#16) = some (head0, 1, .s 0 1#32) ∧ (Eff.s 0 1#32).discarded = true) := by
  decide

theorem met_ScalarResults_clear : (on id).clear head0.slotOf (.s 1 0xFFFF8000#32) := by
  unfold State.clear
  decide

theorem met_ScalarLandings : let x := aCtx
    (Store.wf 0#32 x.regs.s = true ∧ Store.wf false x.regs.sp = true ∧ Store.wf 0#32 x.regs.a = true) ∧
    (let l := aLanding (.s 63 7#32); { x with pend := [l] }.pend = [l] ∧ 0 < l.due ∧ l.due ≤ 1) ∧
    (let s := on fun x => { x with pend := [aLanding (.s 63 7#32)] };
      s.act.pend = [s.flight .s0 1 (.s (63#6).toNat 7#32)] ∧ s.act.chk = false ∧ 63#6 ≠ 0#6) ∧
    (let s := on fun x => { x with pend := [aLanding (.s 1 7#32)], task := some { aTask with chk := true } };
      s.act.pend = [s.flight .s0 1 (.s (1#6).toNat 7#32)] ∧ s.act.chk = true ∧ s.here.iss.trap = none ∧ 1#6 ≠ 0#6) := by
  decide

/-- A result of S0 in flight, and what S1 is to write over it: each kind of destination. -/
theorem met_ScalarLandings_dual : let old := aLanding (.s 1 7#32);
    let s := on fun x => { x with pend := [old] };
    let k := vKey 3 5 15;
    (s.act.pend = [old] ∧ old.seq = s.act.seq ∧ old.slot ≠ Slot.s1 ∧ old.eng = false ∧ s.act.chk = false ∧
      (on fun x => { x with task := some { aTask with chk := true } }).act.chk = true) ∧
    ([(k, 1#32), (k + 1, 2#32)].find? fun c => (cellOf [(k + 1, 3#32)] c.1).isSome) = some (k + 1, 2#32) ∧
    ([(mKey 31 63 63, 1#32)].find? fun c => (cellOf [(mKey 31 63 63, 3#32)] c.1).isSome) = some (mKey 31 63 63, 1#32) ∧
    ([(4095, true)].find? fun c => [(4095, false)].any fun d => decide (d.1 = c.1)) = some (4095, true) ∧
    (∃ c ∈ [(mKey 31 0 1, 1#32)], c.1 / 4096 = 31 ∧ c.1 ∉ ([] : List Nat)) := by decide

/-! ## The vector slots -/

theorem met_VectorIntegerResults : let i := Instr.vabs (aVOp .v0 511#10 0#10 0#10)
    ((vectorInt i).map fun e => (e.1, e.2.1)) = some (aVOp .v0 511#10 0#10 0#10, 2) ∧ wf i = true ∧
    fit (on id) (aVOp .v0 511#10 0#10 0#10) (namesOf (aVOp .v0 511#10 0#10 0#10) true (hasSource2 i) true) = true := by decide

theorem met_VectorFloatResults : let o : VOp := { aVOp .v1 5#10 3#10 4#10 with type := 9#4 }
    ((vectorFloat (.fadd o)).map fun e => (e.1, e.2.1, e.2.2.1)) = some (o, 4, 6) ∧ wf (.fadd o) = true ∧ o.type ≠ 10#4 ∧
    fit (on id) o (namesOf o true (floatSource2 (.fadd o)) true) = true := by decide

theorem met_VectorDoubleResults : let o : VOp := { aVOp .v1 5#10 3#10 4#10 with type := 10#4 }
    ((vectorFloat (.fsqrt { o with src2 := 0#10 })).map fun e => e.2.1) = some 24 ∧
    ((vectorFloat (.fadd o)).map fun e => (e.1, e.2.1, e.2.2.1)) = some (o, 4, 6) ∧ wf (.fadd o) = true ∧ o.type = 10#4 ∧
    fit (on id) o (namesOf o true (floatSource2 (.fadd o)) true) = true := by decide

theorem met_VectorDestinations : let s := on id
    s.act.pend = [] ∧ 767 < 768 ∧ 768 ≤ 768 ∧ [0, 1].Nodup ∧ 15 < 16 := by decide

/-- An affine stream bound to q0 and a value in bx0. -/
def streaming : State := on fun x => { x with
  bx := [(0, 2, [7#32])], regs := { x.regs with q := [(0, some ⟨.affine 64 [(4, 2)] false, 0, false, 0, 1⟩)] } }

theorem met_OperandForms : let s := streaming
    (0, 2, [7#32]) ∈ s.act.bx ∧ (∀ b ∈ s.act.bx, b.1 = 784 - 784 → b.2.1 = 2 → b.2.2 = [7#32]) ∧
    (∀ b ∈ s.act.bx, ¬(b.1 = 791 - 784 ∧ b.2.1 = 2)) ∧
    (let b : Binding := ⟨.affine 64 [(4, 2)] false, 0, false, 0, 1⟩;
      s.act.binding (768 - 768) = some b ∧ b.push = false ∧ b.pos < affineTotal [(4, 2)] ∧
      affineAddr 64 b.pos [(4, 2)] + ewBytes b.ew ≤ s.act.window ∧ s.act.svc.bytes = []) := by decide

theorem met_VectorComparisons : let o := aVOp .v0 15#10 3#10 4#10
    let f : VOp := { o with type := 9#4 };
    wf (.vcmp 5#3 o) = true ∧ fit (on id) o (namesOf o true true false) = true ∧
    wf (.fcmp 7#3 f) = true ∧ fit (on id) f (namesOf f true true false) = true ∧
    wf (.vsel o) = true ∧ fit (on id) o (namesOf o true true true) = true := by decide

theorem met_MovementResults : let s := on id
    let o := aVOp .v0 5#10 3#10 0#10;
    let w : VOp := { o with src1 := 0#10, src2 := 2#10, kind := 2#2 };
    (wf (.vbcast w) = true ∧ fit s w (namesOf w true false true) = true ∧ controlOk (.vbcast w) (s.control w) = true) ∧
    (wf (.vmov o) = true ∧ fit s o (namesOf o true false true) = true) ∧
    (let x : VOp := { o with kind := 2#2 };
      wf (.vxcl x) = true ∧ fit s x (namesOf x true false true) = true ∧ controlOk (.vxcl x) (s.control x) = true) := by
  decide


theorem met_BadControlValues : let s := withS [(2, 16#32)];
    let x : VOp := { aVOp .v0 5#10 3#10 2#10 with kind := 1#2 };
    (movement (.vbcast x)).map (fun e => e.2) = some (true, true) ∧
    wf (.vbcast x) = true ∧ controlOk (.vbcast x) (s.control x) = false ∧
    wf (.vxcl x) = true ∧ fit s x (namesOf x true false true) = true ∧ s.here.iss.trap = none ∧
    controlOk (.vxcl x) (s.control x) = false ∧ controlOk (.vxcl x) 15 = true := by decide

theorem met_GroupResults : let s := on id;
    let o : VOp := { aVOp .v0 4#10 3#10 0#10 with type := 10#4, kind := 2#2 };
    let q : VOp := { aVOp .v0 4#10 8#10 12#10 with type := 9#4, kind := 2#2 };
    (wf (.dsplit o) = true ∧ fit s o [(o.src1.toNat, 22), (o.dst.toNat, 32), (o.dst.toNat + 1, 32)] = true ∧
      controlOk (.dsplit o) (s.control o) = true ∧
      ((decodeVal 10 (s.act.regs.pairLane 0 o.src1.toNat 7)).exact).isSome = true) ∧
    (wf (.qpack q) = true ∧ controlOk (.qpack q) (s.control q) = true ∧
      fit s q [(8, 22), (9, 22), (10, 22), (11, 22), (4, 32), (5, 32)] = true ∧ (s.control q).testBit 4 = false) ∧
    (wf (.qunpack q) = true ∧ controlOk (.qunpack q) (s.control q) = true ∧
      fit s q [(8, 22), (9, 22), (4, 32), (5, 32), (6, 32), (7, 32)] = true) := by decide

theorem met_GroupResults_clear : (on id).clearVectors .v0 := fun _ h => nomatch h

theorem met_ConversionResults : let s := on id;
    let o : VOp := { aVOp .v0 2#10 3#10 9#10 with type := 13#4 };
    (wf (.cvt o) = true ∧ fit s o (namesOf o true false true) = true) ∧
    (let d : VOp := { o with type := 10#4 }; wf (.cvt d) = true ∧ fit s d (namesOf d true false true) = true) := by decide

theorem met_ReductionResults : let s := on id;
    let o : VOp := { aVOp .v0 3#10 5#10 0#10 with mask := 0xFF#8 };
    let d : VOp := { aVOp .v1 5#10 3#10 0#10 with mask := 0xFF#8 };
    let f : VOp := { o with type := 9#4 };
    (wf (.vred o) = true ∧ fit s o (namesOf o true false false) = true ∧
      Store.get Latch.empty s.act.regs.ps (o.dst.toNat % 4) = Latch.empty ∧ Latch.empty.type = 0 ∧
      Store.wf 0#32 (Latch.empty.lanes.map fun e => (e.1, 1#32)) = true) ∧
    (wf (.vred f) = true ∧ fit s f (namesOf f true false false) = true ∧ Latch.empty.lanes = [] ∧
      ∀ cl, cl < 8 → f.active s.act.regs cl 15 = true) ∧
    (wf (.rdrain d) = true ∧ fit s d (namesOf d false false true) = true ∧ s.anyLane d false = true) ∧
    (let e : VOp := { d with gp := 1#4 }; wf (.rdrain e) = true ∧ s.anyLane e false = false) := by decide

theorem met_MatrixMoves : let s := on id;
    let r : VOp := { aVOp .v0 5#10 3#10 2#10 with kind := 1#2 };
    let w : VOp := { aVOp .v0 3#10 5#10 2#10 with kind := 1#2 };
    (wf (.vmrd r) = true ∧ fit s r (namesOf r false false true) = true ∧ r.src1.toNat % 32 < s.act.mBound ∧
      s.here.mx.uses = [] ∧ s.here.iss.uses = []) ∧
    (wf (.vmwr w) = true ∧ fit s w (namesOf w true false false) = true ∧ w.dst.toNat % 32 < s.act.mBound) ∧
    (let u : MxUse := ⟨[3], 0, 5, 8, 0⟩;
     let t := using_ 5 u;
     let t2 := using_ 6 u;
     t.here.mx.uses = [u] ∧ 3 ∈ u.regs ∧ t.cycle ≤ u.last ∧ u.kind ≠ 2 ∧ t.here.iss.trap = none ∧
     fit t r (namesOf r false false true) = true ∧ t2.here.mx.uses = [u] ∧ u.last < t2.cycle ∧ t2.cycle < u.final) := by
  decide

theorem met_RoundingCases : decodeVal 9 0x3F800000 = .num false 8388608 (-23) ∧ decodeVal 8 1 = .num false 1 (-133) := by
  decide

theorem met_RoundsToNearest : (Val.num false 3 (-1)).exact.isSome = true ∧
    (decodeVal 9 (roundVal 9 0 (.num false 3 (-1))).1).exact.isSome = true ∧
    (decodeVal 9 0x3FC00000).exact.isSome = true := by
  decide

theorem met_LoadResults : let s := withA [(3, 64#32), (9, 2#32)];
    (s.here.pane.run = none ∧ s.act.svc.bytes = []) ∧
    (let o : MsOp := ⟨{ mh 0#8 with gk := false }, 9#6, 9#4, 2#16, 2#4, true⟩;
      wf (.lds o) = true ∧ o.head.never s.act.regs = false ∧ s.ea o.base o.off o.pi = 2 ∧ width o.type.toNat / 8 = 2) ∧
    (let o : MvOp := ⟨mh 0xFF#8, 20#10, 3#4, 128#16, 4#4, false⟩;
      wf (.ldv o) = true ∧ o.head.never s.act.regs = false ∧ s.act.badName (20#10).toNat = false ∧
      s.ea o.base o.off o.pi = 192 ∧ ∀ c ∈ maskClusters 0xFF, 192 + 64 * c + 64 ≤ s.act.window) ∧
    (let o : MxOp := ⟨mh 1#8, 20#10, 21#10, 3#4, 4#4⟩;
      wf (.ldx o) = true ∧ o.head.never s.act.regs = false ∧
      ∀ l, l < 16 → nth0 (clLanes (s.readField .m 22 21 (maskClusters 1)).1 0) l = 0#32) ∧
    (let o : MmOp := ⟨{ mh 0#8 with gk := false }, 3#5, 0#2, false, 5#6, 3#4, 0#16⟩;
      wf (.ldm o) = true ∧ o.head.never s.act.regs = false ∧ o.m.toNat < s.act.mBound ∧ s.here.mx.uses = [] ∧
      s.here.iss.uses = [] ∧ s.ea o.base o.off false = 64 ∧ 64 + 256 ≤ s.act.window) := by decide

theorem met_StoreResults : let s := withA [(3, 64#32), (9, 1703934#32)];
    (let o : MsOp := ⟨{ mh 0#8 with gk := false }, 9#6, 9#4, 2#16, 2#4, true⟩;
      wf (.sts o) = true ∧ o.head.never s.act.regs = false ∧ s.ea o.base o.off o.pi + 2 = s.act.window) ∧
    (let o : MvOp := ⟨mh 0xFF#8, 20#10, 3#4, 128#16, 4#4, false⟩; wf (.stv o) = true ∧ o.head.never s.act.regs = false) ∧
    (let o : MxOp := ⟨mh 1#8, 20#10, 21#10, 3#4, 4#4⟩; wf (.stx o) = true ∧ o.head.never s.act.regs = false) ∧
    (let o : MmOp := ⟨{ mh 0#8 with gk := false }, 3#5, 0#2, false, 5#6, 3#4, 0#16⟩;
      wf (.stm o) = true ∧ o.head.never s.act.regs = false ∧ s.ea o.base o.off false = 64) ∧
    (let g := s.storeEntry [(64, 1#8), (65, 2#8)]; g.masks = [] ∧ (g.cells.map fun e => e.1).Nodup ∧
      Memory.wf [(64, 3#8)] = true) := by decide

theorem met_RangeFaults : let s := withA [(3, 1703936#32), (9, 1703935#32)];
    let h := { mh 0#8 with gk := false };
    (extents s (.lds ⟨h, 9#6, 9#4, 0#16, 2#4, false⟩)).map (fun e => e.2) = some (1703935, 2, [(1703935, 2)]) ∧ 1703935 % 2 ≠ 0 ∧
    wf (.lds ⟨h, 9#6, 9#4, 0#16, 2#4, false⟩) = true ∧ h.never s.act.regs = false ∧ s.here.iss.trap = none ∧
    (extents s (.copy ⟨h, 6#5, 3#4, 10#6⟩)).map (fun e => e.2) = some (1703936, 64, [(1703936, 64)]) ∧ s.act.window < 1703936 + 64 := by decide

theorem met_RangeFaults_lanes : let s := withA [(3, 1703936#32)];
    (let o : MxOp := ⟨mh 1#8, 20#10, 21#10, 3#4, 4#4⟩;
      wf (.ldx o) = true ∧ wf (.stx o) = true ∧ o.head.never s.act.regs = false ∧ o.head.laneOn s.act.regs 0 0 = true ∧
      0 ∈ maskClusters 1 ∧ s.act.window < 1703936 + 4) ∧
    (let o : MvOp := ⟨mh 0xFF#8, 20#10, 3#4, 0#16, 4#4, false⟩;
      wf (.ldt o) = true ∧ wf (.stt o) = true ∧ o.head.never s.act.regs = false ∧ s.act.window ≤ s.ea o.base o.off o.pi ∧
      s.here.iss.trap = none) := by decide

theorem met_TransposedTransfers : let s := withA [(3, 256#32)];
    let o : MvOp := ⟨mh 0xFF#8, 20#10, 3#4, 0#16, 4#4, false⟩;
    wf (.ldt o) = true ∧ wf (.stt o) = true ∧ o.head.never s.act.regs = false ∧ s.act.badName (20#10).toNat = false ∧
    s.ea o.base o.off o.pi = 256 ∧ s.act.pend = [] ∧ o.head.laneOn s.act.regs 7 15 = true ∧
    (let g : MvOp := { o with head := ⟨true, 1#4, false, false, 0xFF#8⟩ };
      wf (.stt g) = true ∧ g.head.never s.act.regs = false ∧ g.head.laneOn s.act.regs 7 15 = false) := by decide

theorem met_TransposedTransfers_fits : fieldFits (withA []).act 256 32 ∧ ¬ fieldFits (withA []).act (256 + 8) 32 := by
  unfold fieldFits
  decide

theorem met_AtomicsAndFences : let s := withA [(4, 64#32)];
    (let o : MaOp := ⟨{ mh 0#8 with gk := false }, 5#6, 6#6, 4#4, 0#4, 0#6, 4#4⟩;
      wf (.amo o) = true ∧ o.head.never s.act.regs = false ∧ (s.act.regs.readA o.addr.toNat).toNat = 64) ∧
    (s.act.pend = [] ∧ s.here.iss.scope = 0 ∧ (s.onIss fun i => { i with scope := 3 }).here.iss.scope = 3) ∧
    (aLanding (.amo 64 9 1#32 0#32 5)).eff = .amo 64 (9#4).toNat 1#32 0#32 5 ∧
    (let h := { mh 0#8 with gk := false }; wf (.fence h 2#2) = true ∧ h.never s.act.regs = false) := by decide

/-- A core whose context names a descriptor at byte 64 of its window with a1, and holds these words from there on. -/
def described (l : List Nat) : State := onCore0 fun c => { c with
  act := { c.act with regs := { c.act.regs with a := [(1, 64#32), (2, 66#32)] } }
  pool := Memory.writeBytes [] (393216 + 64) ((l.map fun w => toBytes w 4).flatten) }

theorem met_StreamBindings : let s := described [8, 64, 4, 2];
    let h := { mh 0#8 with gk := false };
    let o : MbOp := ⟨h, 2#4, 0#2, 1#4⟩;
    let d := (List.range 16).map fun k => Memory.word s.here.pool (s.act.poolAddr (64 + 4 * k));
    (wf (.bind o) = true ∧ h.never s.act.regs = false ∧ (s.act.regs.readA o.addr.toNat).toNat = 64 ∧
      (nth0 d 0).toNat = 8 ∧ s.act.sourceOf d 2 false = some (.affine 64 [(4, 2)] false)) ∧
    ((8 : Nat) % 4 ≠ ({ o with kind := 1#2 } : MbOp).kind.toNat ∧ wf (.bind { o with kind := 1#2 }) = true ∧
      s.here.iss.trap = none) ∧
    (d.length = 16 ∧ (nth0 d 3).toNat = 2) ∧ wf (.unbind { o with addr := 0#4 }) = true ∧
    (let t := described [128, 64, 4];
     let u : MbOp := { o with kind := 0#2 };
     wf (.cbset u) = true ∧ (Memory.word t.here.pool (t.act.poolAddr 68)).toNat = 64 ∧ 128 + 64 * 4 ≤ t.act.window ∧
      t.act.bufferBound u.q.toNat = false ∧ t.ops = []) := by decide

theorem met_CopyIssue : let s := described [0, 0];
    let o : McOp := ⟨{ mh 0#8 with gk := false }, 6#5, 1#4, 10#6⟩;
    (wf (.copy o) = true ∧ wf (.copyo o) = true ∧ wf (.gatherp o) = true ∧ wf (.mpost o) = true ∧ wf (.tqpush o) = true) ∧
    o.head.never s.act.regs = false ∧ (s.act.regs.readA o.addr.toNat).toNat = 64 ∧
    s.here.act.outstanding + s.here.shadow.outstanding = 0 ∧ s.act.pend = [] := by decide

/-- A running loop level. -/
def looping (fin idx cnt : Nat) : Ctx := { aCtx with regs := { aCtx.regs with loops := [⟨idx, cnt, 2, fin⟩], pc := 7 } }

theorem met_ControlTransfers : yes.holds (on id).act.regs = true ∧ (on id).act.pend = [] ∧
    (on fun _ => looping 9 0 2).act.regs.loops.getLast? = some ⟨0, 2, 2, 9⟩ ∧ (on id).act.regs.loops = [] ∧
    (on id).here.iss.trap = none := by decide

theorem met_HardwareLoops :
    (let s := withS [(4, 3#32), (5, 0x80000400#32)];
     let d := (s.act.regs.readS ((4#6).toNat + 1)).toNat;
     let t := on fun x => { x with regs := { x.regs with s := [(4, 3#32)], loops := List.replicate 6 ⟨0, 2, 2, 9⟩ } };
     ((t.act.regs.readS 4).toNat = 3 ∧ 6 ≤ t.act.regs.loops.length ∧ (t.act.regs.readS 5).toNat.testBit 31 = false) ∧
     (s.act.regs.readS (4#6).toNat).toNat = 3 ∧ s.act.regs.loops.length < 6 ∧ s.act.regs.loops.getLast? = none ∧
      d.testBit 31 = true ∧ d / 2 ^ 18 % 2 ^ 13 = 0 ∧ d % 1024 + d / 1024 % 256 + 1 ≤ s.act.vBound) ∧
    ((on id).act.regs.readS 4).toNat = 0 ∧
    (let s := withS [(4, 65536#32), (5, 0x80040000#32)];
     65535 < (s.act.regs.readS 4).toNat ∧ 0x80040000 / 2 ^ 18 % 2 ^ 13 ≠ 0 ∧ s.here.iss.trap = none) ∧
    (let s := on fun _ => looping 9 0 2;
      s.act.regs.loops.length < 6 ∧ s.act.regs.loops.getLast? = some ⟨0, 2, 2, 9⟩ ∧
      s.after s.here.iss.pc + (8#12).toNat ≤ 9 ∧ ¬ s.after s.here.iss.pc + (9#12).toNat ≤ 9) ∧
    (let s := on fun x => { x with regs := { x.regs with loops := List.replicate 6 ⟨0, 2, 2, 9⟩ } };
      6 ≤ s.act.regs.loops.length) ∧
    (let x := looping 7 0 2; x.regs.loops = [] ++ [⟨0, 2, 2, 7⟩] ∧ x.regs.rot = none ∧ Store.wf 0#32 x.regs.a = true ∧
      (0 : Nat) + 1 < 2) ∧
    ((looping 7 1 2).regs.loops = [] ++ [⟨1, 2, 2, 7⟩] ∧ (2 : Nat) ≤ 1 + 1) ∧
    ((looping 9 0 2).regs.loops = [] ++ [⟨0, 2, 2, 9⟩] ∧ (9 : Nat) ≠ 7) := by decide

theorem met_WaitsAndBarriers :
    (∀ o ∈ (⟨5, [4, 5]⟩ : Timeline).out, 1 ≤ o) ∧
    (let s := on fun x => { x with waits := [.barrier 1, .count 0 0 0] };
      Wait.count 0 0 0 ∈ (s.core 0).act.waits ∧ 0 ≤ ((s.core 0).act.timeline 0).c) ∧
    (let s := on fun x => { x with task := some { aTask with bars := 0xF, gang := some 0 } };
      (s.group s.cur s.act (1#3).toNat).isSome = true ∧ (s.group s.cur s.act (2#3).toNat).isSome = true ∧
      (s.group s.cur s.act (3#3).toNat).isSome = true) ∧
    (on id).group (on id).cur (on id).act (1#3).toNat = none ∧
    (let b : Barrier := ⟨3, 1, 0, 0, 1, [(0, false)], [(0, false)], some 0⟩;
     let s := { on id with cycle := 8, dist := { (on id).dist with barriers := [b] } };
     s.dist.barriers.find? (fun e => decide (e.id = b.id)) = some b ∧ b.full = some 0 ∧ 0 + 8 ≤ s.cycle ∧
      (s.die 0).routesDown = []) := by decide

theorem met_WaitsAndBarriers_holds : (on id).act.conditionHolds (.outstanding 5 0) ∧
    (on fun x => { x with gate := [(on id).storeEntry []] }).act.conditionHolds (.stores 0) := by
  unfold Ctx.conditionHolds
  decide

theorem met_ControlEffects :
    (let s := on id; yes.holds s.act.regs = true ∧ s.here.iss.trap = none ∧ s.here.mx.rep = none ∧ s.here.mx.uses = [] ∧
      s.act.shutter 0 = none) ∧
    (let s := on fun x => { x with sh0 := some ⟨2, [(65, 7#32)]⟩ }; s.act.shutter (0#1).toNat = some ⟨2, [(65, 7#32)]⟩) := by
  decide

theorem met_SystemRegisters :
    (let s := on id; s.cur < 512 ∧ s.systemValue 2 = some 0x82000000#32 ∧ s.act.pend = []) ∧ (4 : Nat) ≤ 8 ∧
    (let l := aLanding (.sysw 4 1#32);
     let x := aCtx; l.eff = .sysw 4 1#32 ∧ x.fresh = [] ∧ Store.wf 0#32 x.fstat = true) ∧
    ((aLanding (.fmt 15 0x7F0000#32)).eff = .fmt 15 0x7F0000#32 ∧ Store.wf 0#32 aCtx.fmt = true) := by decide

theorem met_SystemRegisters_known : knownSystem 8 ∧ knownSystem 0x10 ∧ knownSystem 0x17 ∧ knownSystem 0x2F ∧
    ¬ knownSystem 9 ∧ ¬ knownSystem 0x30 ∧ ¬ knownSystem 0x1F := by
  unfold knownSystem
  decide

theorem met_LaunchIssue :
    (let s := on fun x => { x with regs := { x.regs with s := [(7, 64#32)] } };
      yes.holds s.act.regs = true ∧ (s.act.regs.readS 7).toNat % 64 = 0 ∧ 64 + 64 ≤ s.act.window ∧ s.act.svc.bytes = []) ∧
    (let s := on fun x => { x with regs := { x.regs with s := [(7, 1703936#32), (8, 2#32)] } };
      s.act.window < (s.act.regs.readS 7).toNat + 64 ∧ (s.act.regs.readS 8).toNat % 64 ≠ 0 ∧ s.here.iss.trap = none) := by
  decide

/-- A context whose window is 16 indices, the first of them this one, and entry 1 of its dictionary. -/
def coded (index : Nat) (entry : BitVec 384) : Ctx := { aCtx with
  codeWin := 0x10000#32, code := [(0, BitVec.ofNat 16 index)], dict := [(1, some entry)] }

/-- A bundle without slots and with STALL 1, and one with NUL. -/
def plainBundle : BitVec 384 := 0x10000000#384

/-- A bundle that may be skipped. -/
def nulBundle : BitVec 384 := 0x800000#384

theorem met_BundleSequencing :
    (aCtx.windowEnd ≤ aCtx.regs.pc) ∧
    (let x := coded 0 plainBundle; x.regs.pc < x.windowEnd ∧ x.index x.regs.pc = 0 ∧ x.regs.loops = [] ∧ x.regs.rot = none ∧
      x.gateCount ≤ 64 ∧ x.sinceMark < 4096) ∧
    (let x := coded 1 plainBundle; x.regs.pc < x.windowEnd ∧ x.index x.regs.pc = 1 ∧
      (Store.get none x.dict 1).isSome = true ∧ (decodeBundle 0x10000000).toOption.isSome = true) ∧
    (let x := coded 0x7FF plainBundle; x.index x.regs.pc < 0x800 ∧ Store.get none x.dict 0x7FF = none) ∧
    (let x := coded 0x800 plainBundle; 0x800 ≤ x.index x.regs.pc ∧ x.index x.regs.pc < 0xFFFF) ∧
    (let x := { coded 0xFFFF plainBundle with codeWin := 0x20000#32 };
      x.index x.regs.pc = 0xFFFF ∧ x.regs.pc + 24 < x.windowEnd) ∧
    ((decodeBundle 0).toOption.isSome = true ∧ (decodeBundle (2 ^ 384 - 1)).toOption = none) ∧
    (let s := on fun _ => coded 1 plainBundle;
     let u := s.execute (((coded 1 plainBundle).fetch.toOption).getD Bundle.empty);
     ((coded 1 plainBundle).fetch.toOption.map fun b => (b.head.mark, committing b, s.act.regs.skippable b)) =
        some (false, false, false) ∧ u.here.iss.held = false ∧ u.here.iss.trap = none ∧ u.here.iss.rows = [] ∧
      u.here.iss.halt = false ∧ u.act.gateCount ≤ 64 ∧ u.cur = 0 ∧ u.act.regs.loops = [] ∧ u.here.iss.push = none) ∧
    ((coded 1 nulBundle).fetch.toOption.map fun b => (b.head.mark, (coded 1 nulBundle).regs.skippable b)) =
      some (false, true) ∧ (coded 1 nulBundle).skips < 4 := by decide

/-- A bundle with HALT, and the same with MARK. -/
def haltBundle : BitVec 384 := 0x2000000000000000#384

/-- Does an attempt issue? -/
def issued : Attempt → Bool
  | .issues _ _ => true
  | _ => false

theorem met_BundleSequencing_committing :
    (let s := on fun _ => coded 1 haltBundle;
     ((coded 1 haltBundle).fetch.toOption.map fun b =>
       (committing b, s.act.regs.skippable b, issued (({ s with cur := 0 }).attempt 0 b))) = some (true, false, true)) ∧
    ((coded 1 (haltBundle ||| 0x1000000#384)).fetch.toOption.map fun b => (committing b, b.head.mark)) = some (true, true) ∧
    ((coded 1 (plainBundle ||| 0x1000000#384)).fetch.toOption.map fun b => (committing b, b.head.mark)) = some (false, true) ∧
    (let x := { coded 1 haltBundle with seq := 1, pend := [aLanding .fpu] }; x.flagPendingBefore x.seq = true) ∧
    (let s := on fun _ => coded 1 haltBundle;
     s.act.yield = false ∧ s.act.regs.loops = [] ∧ s.here.iss.push = none ∧ s.act.gate = [] ∧ s.act.pend = [] ∧
      s.act.marks = [] ∧ s.here.iss.halt = false ∧ (s.onIss fun i => { i with halt := true }).here.iss.halt = true) := by
  decide

theorem met_BundleSequencing_issuable : (on fun _ => coded 1 plainBundle).issuable 0 := by
  unfold State.issuable
  decide

theorem met_MarksCommit : let k1 : Mark := ⟨3, 0, false, aCtx.regs⟩;
    let x := { aCtx with marks := [⟨1, 0, true, aCtx.regs⟩, k1], pend := [aLanding (.s 1 1#32)] };
    (∀ o ∈ x.pend, o.eff.flagPending = false) ∧ x.marks = [⟨1, 0, true, aCtx.regs⟩] ++ k1 :: [] ∧ k1.committed = false ∧
      x.gang = none ∧ x.gate = [] := by decide

theorem met_TrapsAreTaken : let k : Mark := ⟨0, 0, true, aCtx.regs⟩;
    let x := { aCtx with marks := [k] };
    (x.marks = [] ++ k :: [] ∧ k.seq ≤ 0) ∧
    ((on fun _ => coded 0x800 plainBundle).core 0).act.fetch = .error ⟨1, 7, 0, 0, 0x800⟩ ∧
    (let y := { coded 0 plainBundle with sinceMark := 4096 }; 4096 ≤ y.sinceMark ∧ y.regs.pc < y.windowEnd ∧
      y.index y.regs.pc = 0 ∧ y.gateCount ≤ 64) ∧
    (let y := { aCtx with fp := [⟨2, .v0, 0, 7, 7, false⟩, ⟨1, .v1, 0, 0, 0, true⟩] };
      y.fp ≠ [] ∧ ∀ f ∈ y.fp, f.cluster < 8 ∧ f.order < 8) := by decide

theorem met_RollbackAndResume : let k : Mark := ⟨0, 0, true, aCtx.regs⟩;
    let t : PendingTrap := ⟨⟨4, 6, 7, 32767, 0⟩, 0, 0, false, 0⟩;
    let c := (on fun x => { x with marks := [k], trap := some t }).core 0;
    (c.act.trap = some t ∧ t.due ≤ 0 ∧ c.act.marks.getLast? = some k ∧ c.pane.busy = none ∧ c.act.gang = none ∧
      Memory.wf c.pool = true ∧ t.cause.slot < 8 ∧ t.cause.cluster < 8 ∧ t.cause.pc < 2 ^ 15) ∧
    ((on fun x => { x with held := true }).core 0).act.held = true ∧ ((on id).core 0).act.held = false ∧
    (let d := { Core.reset with resumeAt := some 5 }; d.resumeAt = some 5 ∧ d.pane.accesses = []) := by decide

/-! ## The matrix engine -/

theorem met_MatrixAccumulation : let s := on id;
    (Instr.mma (anEm 7#6) = .mma (anEm 7#6) ∧ (anEm 7#6).head.guard.holds s.act.regs = true ∧
      s.act.pend = [] ∧ Store.wf 0#32 s.act.regs.m = true ∧ s.act.fmtEntry = (0, 0, 0) ∧
      (anEm 7#6).areg.toNat < s.act.mBound ∧ (7#6).toNat < s.act.mBound) ∧
    (s.act.shutter 0 = none ∧ (s.act.regs.readA 2).toNat / 256 % 32 < s.act.mBound) ∧
    (let h : Shutter := ⟨2, [(0, 1#32)]⟩; (on fun x => { x with sh1 := some h }).act.shutter (33 - 32) = some h ∧
      Store.wf 0#32 h.cells = true) ∧
    (let p : Repeat := ⟨anEm 4#6, some (0, 0, 0), 1, 1, 1, 0, 0, [], 0, 0, false⟩;
     let c := ({ (onCore0 fun c => { c with mx := { c.mx with rep := some p } }) with cycle := 1 }).core 0;
     c.mx.rep = some p ∧ 0 < p.left ∧ p.at_ ≤ 1 ∧ 0 < p.count ∧ p.entry = some (0, 0, 0) ∧ (c.ctx p.cid).pend = []) := by
  decide

theorem met_MatrixAccumulation_fits : (on id).engineFree ∧ matrixFits 0 0 0 4 ∧ matrixFits 0 3 0 8 ∧ matrixFits 1 0 0 32 ∧
    matrixFits 0 7 7 4 ∧ ¬ matrixFits 0 0 0 3 := by
  unfold State.engineFree matrixFits
  refine ⟨by decide, ?_, ?_, ?_, ?_, ?_⟩ <;> dsimp only <;> decide

theorem met_SplitAccumulation : let s := on id;
    let o : EmOp := { anEm 2#6 with head := ⟨yes, false, 35#8⟩, mode := 3#2 };
    o.mode = 3#2 ∧ o.sl ≠ 3#2 ∧ o.head.guard.holds s.act.regs = true ∧ s.act.pend = [] ∧
    (o.head.beats.toNat + 1) % (6 * 6) = 0 ∧ o.acc.toNat + 5 < s.act.mBound ∧
    (let q : EmOp := { o with head := ⟨yes, false, 20#8⟩, tri := true }; (q.head.beats.toNat + 1) % (6 * 7 / 2) = 0) := by
  decide

theorem met_MatrixCommands : let s := on id;
    (yes.holds s.act.regs = true ∧ s.here.mx.busyTo ≤ s.cycle ∧ s.here.iss.trap = none ∧ Store.wf 0#32 s.act.regs.m = true ∧
      (7#6).toNat < s.act.mBound ∧ s.act.pend = []) ∧
    (s.act.fmtEntry = (0, 0, 0) ∧ entryKind (0, 0, 0) = some false) ∧
    (let t := on fun x => { x with fmt := [(0, 0x447F0000#32)] };
      t.act.fmtEntry = (4, 4, 127) ∧ entryKind (4, 4, 127) = some true) ∧
    (2 + 5 < s.act.mBound ∧ (0 : Nat) + 1 < s.act.mBound ∧
      s.cycle < (onCore0 fun c => { c with mx := { c.mx with busyTo := 1 } }).here.mx.busyTo) ∧
    (let p : MxPending := ⟨1, false, 0, true⟩;
     let q : MxPending := ⟨2, false, 0, false⟩;
     let c := (onCore0 fun c => { c with mx := { c.mx with pending := [p, q], busyTo := 1 } }).core 0;
     p ∈ c.mx.pending ∧ q ∈ c.mx.pending ∧ p.done ≤ 0 ∧ p.drain = true ∧ q.drain = false ∧ 0 < c.mx.busyTo) := by decide

/-! ## The panes -/

/-- The machine in cycle 1 with panes changed. -/
def paned (f : Pane → Pane) (g : Ctx → Ctx) : State :=
  { (onCore0 fun c => { c with pane := f c.pane, act := g c.act }) with cycle := 1 }

/-- A run of bank 12 from a micro-operation on. -/
def aRun (index at_ count : Nat) (half : Bool) : PaneRun :=
  { entry := ⟨false, 1, 0, 0, .run 12 index⟩, t0 := 0, index := index, ro := 0, lc := 0, armed := false, andL := 0#1024,
    norL := 0#1024, carry := 0#1024, pred := 0#1024, at_ := at_, count := count, afterWact := false, windowEnd := 0,
    window := 0, half := half, spin := 0 }

theorem met_PaneCommandIssue : let s := withA [(1, 64#32), (2, 66#32), (3, 1703936#32)];
    (yes.holds s.act.regs = true ∧ s.here.mx.rep = none ∧ s.here.iss.trap = none ∧ s.act.firstBank ≤ 12 ∧
      63 < s.act.firstBank + s.act.banks ∧ (0#6).toNat < s.act.firstBank ∧ s.here.loading s.act.cid = false ∧ s.act.micro = none) ∧
    ((s.act.regs.readA 1).toNat % 4 = 0 ∧ 64 + 4 * ((255#8).toNat + 1) ≤ s.act.window) ∧
    ((s.act.regs.readA 2).toNat % 4 ≠ 0 ∧ s.act.window < (s.act.regs.readA 3).toNat + 4 * ((0#8).toNat + 1)) ∧
    (on fun x => { x with micro := some [] }).act.micro ≠ none ∧
    (paned (fun p => { p with queue := [⟨false, 1, 0, 0, .load 64 1⟩] }) id).here.loading false = true := by decide

theorem met_run (r : PaneRun) (g : Ctx → Ctx) : (paned (fun p => { p with run := some r }) g).here.pane.run = some r := rfl

theorem met_PaneSequencer :
    (let e : PaneEntry := ⟨false, 1, 0, 0, .load 64 4⟩;
     let c := (paned (fun p => { p with queue := [e] }) id).core 0;
     c.pane.queue = e :: [] ∧ c.pane.load = none ∧ c.pane.run = none ∧ e.at_ < 1 ∧ c.pane.readyAt ≤ 1 ∧ 64 % 4 = 0) ∧
    (let e : PaneEntry := ⟨false, 1, 0, 0, .run 12 255⟩;
     let c := (paned (fun p => { p with queue := [e] }) fun x => { x with micro := some (List.replicate 256 0x38008000#32) }).core 0;
     let w := (paned id fun x => { x with micro := some (List.replicate 256 0xA0000000#32) }).core 0;
     c.pane.queue = e :: [] ∧ (c.ctx false).micro.map (fun l => (decodeMicro (nth0 l 255).toNat).toOption.map fun i =>
        isHalfStep (some i)) = some (some true) ∧
      Store.wf Parity.valid c.parity = true ∧
      (w.ctx false).micro.map (fun l => (decodeMicro (nth0 l 255).toNat).toOption) = some (some .wend)) ∧
    (let l : PaneLoad := ⟨⟨false, 1, 0, 0, .load 64 1⟩, [], [0x38008000#32], 0⟩;
     let c := (paned (fun p => { p with load := some l }) id).core 0;
     c.pane.load = some l ∧ l.rows = [] ∧ l.words.length ≤ 256 ∧ (decodeMicro 0x38008000).toOption.isSome = true ∧
      (decodeMicro (2 ^ 32 - 1)).toOption = none) ∧
    (let c := (paned (fun p => { p with run := some (aRun 256 1 0 false) }) id).core 0;
     c.pane.run.isSome = true ∧ 256 ≤ (aRun 256 1 0 false).index) ∧
    (let c := (paned (fun p => { p with run := some (aRun 255 2 16 true) })
        fun x => { x with micro := some (List.replicate 256 0x38008000#32) }).core 0;
     c.pane.run.isSome = true ∧ isHalfStep (c.microAt (aRun 255 2 16 true)) = true) ∧
    (let r := { aRun 0 5 0 true with window := 1, windowEnd := 5 };
     let c := (paned (fun p => { p with run := some r, busy := some 12, accesses := [.slot 768 false 0] }) id).core 0;
     c.pane.run.isSome = true ∧ r.count < 16 ∧ r.window ≤ 1 ∧ 1 < r.windowEnd ∧ 12 ∉ c.pane.served ∧
      c.pane.accesses.find? (fun q => decide (q.row / 64 = 12)) = some (.slot 768 false 0)) ∧
    (let g := { (on id).storeEntry [(393216, 1#8)] with stream := some (2, [768, 832]), wcycle := 1 };
     let c := (paned id fun x => { x with gate := [g] }).core 0;
     c.pushAt ≤ 1 ∧ c.act.gate = [g] ∧ g.written = false ∧ g.wcycle ≤ 1 ∧ c.shadow.gate = [] ∧
      ([768, 832].map fun r => r / 64).Nodup ∧ c.act.marks = []) ∧
    (let r := { aRun 0 2 16 true with spin := 131585 };
     let c := (paned (fun p => { p with run := some r, busy := some 12 }) id).core 0;
     r.index < 256 ∧ 131584 < r.spin ∧ c.pane.busy = some 12) := by decide

theorem met_PaneSequencer_quiet : (on id).here.quiet ∧ (on id).here.noStores ∧ (aRun 256 1 0 false).atBoundary 1 ∧
    (aRun 256 2 0 true).atBoundary 1 ∧ ({ aRun 0 2 16 true with spin := 131585 } : PaneRun).atBoundary 1 := by
  unfold Core.quiet Core.noStores PaneRun.atBoundary
  refine ⟨by decide, ⟨rfl, rfl, rfl, rfl, fun _ h => nomatch h⟩, ?_⟩
  decide

theorem met_PaneMicroOperations : let r := aRun 0 0 0 false;
    let s := paned (fun p => { p with run := some r, busy := some 12 }) id;
    s.here.pane.run.isSome = true ∧ r.at_ + 1 ≤ s.cycle ∧ Memory.wf s.here.pool = true ∧
    (let q := { r with armed := true, lc := 1 }; (if q.armed then q.lc else 0) = 1) ∧ r.armed = false := by decide

/-! ## The facet engine -/

/-- A descriptor of one 128-bit query, K = 1, over row 0 and one page. -/
def aDesc : List Word := [3#32, 0#32, 1#32, 7#32, 1#32, 0#32, 0#32, 1#32] ++ List.replicate 8 0#32

/-- A facet command. -/
def aCmd (op : Nat) (d : List Word) (q : List (BitVec 128)) : FacetCmd := ⟨op, false, 1, 0, 393280, d, q, 0, 0, 0, 0, 0, none⟩

/-- A select's descriptor in the scratchpad. -/
def selecting (words : List Nat) : State := on fun x => { x with regs := { x.regs with
  a := [(1, 64#32), (2, 66#32)], q := if words = [] then [] else [(5, some ⟨.ssu 0, 2, false, 0, 1⟩)] } }

/-- The core of a state with its pool holding words from byte 64 of the window on. -/
def holding (s : State) (words : List Nat) : State :=
  s.onHere fun c => { c with pool := Memory.writeBytes [] (393216 + 64) ((words.map fun w => toBytes w 4).flatten) }

theorem met_FacetCommandIssue_bad : let s := holding (selecting [0]) [3, 0, 1, 7, 1, 0, 0, 1];
    let o : ExOp := ⟨⟨yes, false, 0#8⟩, 1#4, 5#4, false, 60#6⟩;
    let t := s.onAct fun x => { x with regs := { x.regs with q := [(5, some ⟨.affine 64 [(4, 2)] false, 2, false, 0, 1⟩)] } };
    t.act.binding o.q.toNat ≠ none ∧ (t.act.binding o.q.toNat).map (fun b => b.src) = some (.affine 64 [(4, 2)] false) ∧
    64 < (61#6).toNat + 1 * max 1 ((s.facetCmd o 0x20).width / 32) ∧
    ((holding (selecting [0]) [3, 0, 0, 7, 1, 0, 0, 1]).facetCmd o 0x20).legal = false ∧
    (let u := holding s [3, 0, 1, 7, 0, 0, 0, 0, 0, 1703936]; (u.facetCmd o 0x22).legal = true ∧
      u.act.window < (u.facetCmd o 0x22).sigAddr + (u.facetCmd o 0x22).width / 8) := by decide

theorem met_FacetCommandIssue : let s := holding (selecting [0]) [3, 0, 1, 7, 1, 0, 0, 1];
    let o : ExOp := ⟨⟨yes, false, 0#8⟩, 1#4, 5#4, false, 60#6⟩;
    (facetOpcode (.fsel o) = some (o, 0x20) ∧ o.head.guard.holds s.act.regs = true ∧ s.here.mx.rep = none ∧
      s.here.iss.trap = none ∧ s.act.svc.bytes = [] ∧ (s.act.regs.readA o.addr.toNat).toNat = 64 ∧
      (s.facetCmd o 0x20).legal = true ∧ s.act.binding o.q.toNat = some ⟨.ssu 0, 2, false, 0, 1⟩ ∧
      o.query.toNat + 1 * max 1 ((s.facetCmd o 0x20).width / 32) ≤ 64) ∧
    ((s.act.regs.readA 2).toNat % 64 ≠ 0 ∧ (selecting []).act.binding o.q.toNat = none) ∧
    (facetOpcode (.fins o) = some (o, 0x22) ∧ (s.facetCmd o 0x22).legal = false ∧
      (holding s [3, 0, 1, 7]).act = s.act ∧ ((holding s [3, 0, 1, 7]).facetCmd o 0x22).legal = true ∧
      ((holding s [3, 0, 1, 7]).facetCmd o 0x22).sigAddr + 128 / 8 ≤ s.act.window) := by decide

/-- Core 0 in cycle 1 with this command due, and its array. -/
def faceted (k : FacetCmd) (f : Core → Core) : State :=
  { (onCore0 fun c => f { c with facet := { c.facet with queue := [k] } }) with cycle := 1 }

/-- A valid row of page 0. -/
def aRow : FacetRow := ⟨5#128, 0, 7, true, 3, 0⟩

/-- The header of a spill region of one slot at 65,536. -/
def aRegion : Memory := Memory.writeBytes [] 65536 (toBytes (7 * 65536 + 3) 4 ++ toBytes 1 4)

/-- A spill descriptor. -/
def spillDesc : List Word :=
  [3#32, 0#32, 1#32, 7#32, 0#32, 0#32, 0#32, 0#32, 0#32, 0#32, 65536#32, 0#32, 1#32, 0#32, 0#32, 0#32]

/-- A facet command that names that region, due on core 0. -/
def spilling (op : Nat) (f : Core → Core) : State := mapped { faceted (aCmd op spillDesc []) f with hbm := aRegion }

/-- The same once it has read the header. -/
def opened (op : Nat) (f : Core → Core) : State := (spilling op f).noteHeader 0 (aCmd op spillDesc [])

/-- Where a TLB and a walk cache hold what the tables hold, it is no matter which of the two a translation uses. -/
theorem leaf_agrees (u : State) (va : Nat) (hv : va < 2 ^ 30) (hr : Store.get 0 u.roots 0 = 0x100000)
    (ht : (u.die 0).tables = [⟨0, 0, 3, 0, 0x200001⟩]) (hl : (u.die 0).tlbs = [⟨0, 0, 0, wide⟩])
    (h3 : u.entryAt 0 0x100000 = 0x200001) (h2 : u.entryAt 0 0x200000 = 0xF) : u.leafNow 0 0 0 va = some wide := by
  have i3 : levelIndex va 3 = 0 := by simp only [levelIndex, field]; omega
  have i2 : levelIndex va 2 = 0 := by simp only [levelIndex, field]; omega
  have z3 : va / 4398046511104 = 0 := by omega
  have e3 : u.entryFor 0 0 0 va 3 0x100000 = 0x200001 := by
    simp [State.entryFor, ht, levelBits, z3, i3, h3]
  have e2 : u.entryFor 0 0 0 va 2 0x200000 = 0xF := by
    simp [State.entryFor, ht, i2, h2]
  have w : u.walk 0 0 0 va = .leaf wide 2 := by
    unfold State.walk State.walkPath
    rw [hr, State.walkFrom]
    simp only [e3]
    rw [show (field 0x200001 8 32 * 256 : Nat) = 0x200000 by decide, State.walkFrom]
    simp only [e2]
    rfl
  have t : (u.die 0).tlbEntry 0 0 va = some ⟨0, 0, 0, wide⟩ := by
    simp [Die.tlbEntry, hl, wide]; omega
  simp [State.leafNow, w, t]

theorem opened_leaf (op : Nat) (f : Core → Core) (va : Nat) (hv : va < 2 ^ 30)
    (hr : Store.get 0 (opened op f).roots 0 = 0x100000)
    (ht : ((opened op f).die 0).tables = [⟨0, 0, 3, 0, 0x200001⟩]) (hl : ((opened op f).die 0).tlbs = [⟨0, 0, 0, wide⟩])
    (h3 : (opened op f).entryAt 0 0x100000 = 0x200001) (h2 : (opened op f).entryAt 0 0x200000 = 0xF) :
    (opened op f).leafNow 0 0 0 va = some wide := leaf_agrees _ va hv hr ht hl h3 h2

/-- A command's region and its first slot where the page is mapped. -/
theorem slot_agrees (u : State) (op : Nat) (h : u.leafNow 0 0 0 65600 = some wide) :
    u.slotAddr 0 (aCmd op spillDesc []) 0 0 true true = some (65600, []) := by
  unfold State.slotAddr State.spillLeaf State.spillPage
  rw [show u.leafNow (dieOf 0) (engineOf 0) (aCmd op spillDesc []).asid ((aCmd op spillDesc []).slotVa 0) = some wide from h,
    show (aCmd op spillDesc []).slotVa 0 = 65600 from rfl]
  decide

/-- An FSPILL finds its region open and its one slot free. -/
theorem met_FacetArrayWork_spill :
    let f : Core → Core := fun c => { c with facets := [(0, aRow)] };
    (opened 0x25 f).region 0 (aCmd 0x25 spillDesc []) = .open_ 1 0 0 ∧
      (opened 0x25 f).freeSlot 0 (aCmd 0x25 spillDesc []) 0 1 0 = some (0, some (65600, [])) := by
  intro f
  have h (va : Nat) (hv : va < 2 ^ 30) : (opened 0x25 f).leafNow 0 0 0 va = some wide :=
    opened_leaf _ _ va hv (by decide) (by decide) (by decide) (by decide) (by decide)
  have h1 := h 65536 (by decide)
  have h2 := slot_agrees _ 0x25 (h 65600 (by decide))
  refine ⟨?_, ?_⟩
  · unfold State.region State.spillLeaf State.spillPage
    rw [show (opened 0x25 f).leafNow (dieOf 0) (engineOf 0) (aCmd 0x25 spillDesc []).asid (aCmd 0x25 spillDesc []).spill =
      some wide from h1]
    decide
  · rw [State.freeSlot, if_neg (by decide), h2]
    exact if_neg (by decide)

/-- An FFILL finds its region open and the slot of its page. -/
theorem met_FacetArrayWork_fill :
    let f : Core → Core := fun c => { c with spill := [⟨7, 4, 0, 65536, 0⟩] };
    (opened 0x26 f).region 0 (aCmd 0x26 spillDesc []) = .open_ 1 0 0 ∧
      (opened 0x26 f).slotAddr 0 (aCmd 0x26 spillDesc []) 0 0 true true = some (65600, []) := by
  intro f
  have h (va : Nat) (hv : va < 2 ^ 30) : (opened 0x26 f).leafNow 0 0 0 va = some wide :=
    opened_leaf _ _ va hv (by decide) (by decide) (by decide) (by decide) (by decide)
  refine ⟨?_, slot_agrees _ 0x26 (h 65600 (by decide))⟩
  unfold State.region State.spillLeaf State.spillPage
  rw [show (opened 0x26 f).leafNow (dieOf 0) (engineOf 0) (aCmd 0x26 spillDesc []).asid (aCmd 0x26 spillDesc []).spill =
    some wide from h 65536 (by decide)]
  decide

theorem met_FacetArrayWork_due : (faceted (aCmd 0x20 aDesc []) id).facetDue 0 (aCmd 0x20 aDesc []) [] := by
  unfold State.facetDue
  decide

theorem met_FacetArrayWork :
    (let k := aCmd 0x22 aDesc [5#128];
     let c := Core.reset;
     k.spill = 0 ∧ k.width ≤ 128 ∧ c.facets = [] ∧ c.spill = [] ∧ k.inRegion c 0 = true ∧ (c.facetRow 0).valid = false) ∧
    (let k := aCmd 0x22 aDesc [5#128];
     let c := { Core.reset with facets := [(0, aRow)] };
     Store.wf FacetRow.reset c.facets = true ∧ aRow.valid = true ∧ aRow.seq = k.seqId ∧ aRow.page = k.page) ∧
    (let k := aCmd 0x22 aDesc [5#128];
     let c := { Core.reset with facets := [(0, { aRow with page := 9 })] };
     (∀ e ∈ c.facets, ¬ (e.2.page = k.page)) ∧ (c.facetRow 0).valid = true ∧ (∀ e ∈ c.facets, e.2.transit = 0)) ∧
    (let k := aCmd 0x23 aDesc [6#128];
     let c := { Core.reset with facets := [(0, aRow)] };
     (0, aRow) ∈ k.rows c ∧ k.rows c = [(0, aRow)] ∧ aRow.page = k.page ∧ aRow.transit = 0 ∧ k.rows Core.reset = []) ∧
    (let k := aCmd 0x27 aDesc []; k.spill = 0 ∧ Store.wf 0 Core.reset.widths = true ∧ k.first + k.nrows ≤ 8192) ∧
    (let k := aCmd 0x25 spillDesc [];
     let s := spilling 0x25 fun c => { c with facets := [(0, aRow)] };
     k.count = 1 ∧ s.covered (s.clockOf 0) = true ∧ s.dist.traces = [] ∧
      k.fill = none ∧ (s.core 0).facet.work = [] ∧ k.rows (s.core 0) = [(0, aRow)] ∧ aRow.age ≤ 255 ∧
      (s.core 0).spill.length < 65536) ∧
    (let k := aCmd 0x26 spillDesc [];
     let e : SpillEntry := ⟨7, 4, 0, 65536, 0⟩;
     let s := spilling 0x26 fun c => { c with spill := [e] };
     e ∈ (s.core 0).spill ∧ e.seq = k.seqId ∧ e.region = k.spill ∧ e.transit = 0 ∧ k.fill = none) := by decide

theorem met_FacetArrayWork_quiet : ((faceted (aCmd 0x22 aDesc []) id).core 0).quiet ∧
    ((faceted (aCmd 0x22 aDesc []) id).core 0).noStores := by
  unfold Core.quiet Core.noStores
  refine ⟨by decide, ⟨rfl, rfl, rfl, rfl, fun _ h => nomatch h⟩⟩

theorem met_FacetSelection : let k := aCmd 0x20 aDesc [5#128];
    (k.spill = 0 ∧ ((k.rows { Core.reset with facets := [(0, aRow)] }).map fun e => e.2.page).Nodup ∧
      (0 : Nat) < k.pages ∧ (k.rows Core.reset) = []) := by decide

/-- One page of the set is a candidate, and is selected as nothing ranks before it; without a row nothing is. -/
theorem met_FacetSelection_selects : let k := aCmd 0x20 aDesc [5#128];
    k.selects [(0, 5#128)] 0 ∧ ¬ k.selects [] 0 := by
  have nb (l : List (Nat × BitVec 128)) (f e : Nat × BitVec 128) : ¬ ((f ∈ [e]) ∧ (aCmd 0x20 aDesc [5#128]).ranksBefore f e) := by
    rintro ⟨hf, h⟩
    rw [List.mem_singleton.mp hf] at h
    rcases h with h | ⟨_, h⟩
    · exact Nat.lt_irrefl _ h
    · exact Nat.lt_irrefl _ h
  refine ⟨.inr ⟨(0, 5#128), ⟨List.mem_singleton.mpr rfl, by decide, ?_⟩, rfl, [], List.nodup_nil, by decide, fun f => ⟨fun h => ?_, fun h => ?_⟩⟩, ?_⟩
  · unfold FacetCmd.windowed; decide
  · exact nomatch h
  · exact absurd ⟨h.1.1, h.2⟩ (nb [] f _)
  · rintro (h | ⟨e, h, _⟩)
    · revert h; unfold FacetCmd.windowed; decide
    · exact nomatch h.1

theorem met_FacetRequests :
    (let r : SsuRequest := ⟨1, 0, 65600, 0, 65536, slotBytesOf 0 5#128, 0, 7, 0, 1, false, 65600, 0, 0, [], 0, none⟩;
     let s := onCore0 fun c => { c with facet := { c.facet with requests := [r] } };
     (s.core 0).facet.requests = r :: [] ∧ r.wid = none ∧ r.due ≤ s.cycle ∧ r.copies = [] ∧ s.dist.traces = [] ∧
      s.covered (s.clockOf 0) = true ∧ s.hbm.wf = true) ∧
    (let r : SsuRequest := ⟨1, 0, 65600, 0, 65536, [], 0, 7, 0, 1, false, 65600, 0, 0, [], 0, some 4⟩;
     let q := { r with kind := 3 };
     let w : FacetWork := ⟨aCmd 0x25 spillDesc [], 71, 1, [], 0, []⟩;
     let s := onCore0 fun c => { c with
       facets := [(0, { aRow with transit := 2 })], facet := { c.facet with requests := [r], work := [w] } };
     s.visible 4 = true ∧ w.cmd.num = r.cmd ∧ w.cmd.cid = r.cid ∧ 0 < w.left ∧
      Store.wf FacetRow.reset (s.core 0).facets = true ∧ ((s.core 0).facetRow r.row).transit = 2 * r.token ∧
      ({ aRow with transit := 3 } : FacetRow).transit = 2 * q.token + 1) ∧
    (let z : Select := ⟨aCmd 0x20 spillDesc [5#128], 0, 63, 0, [], [(3, 0)], 1, some ⟨0, 1, 0, [(65536, wide)]⟩, 0, [], false, 0, 0, []⟩;
     let s := onCore0 fun c => { c with facet := { c.facet with sel := some z } };
     (s.core 0).facet.sel = some z ∧ (3, 0) ∈ z.unitsLeft ∧ s.dist.traces = []) ∧
    (let z : Select := ⟨aCmd 0x20 spillDesc [5#128], 0, 63, 0, [], [], 1, none, 0, [], false, 0, 0, []⟩;
     let s := mapped { (onCore0 fun c => { c with facet := { c.facet with sel := some z } }) with hbm := aRegion };
     (s.core 0).facet.sel = some z ∧ z.scan = none ∧ z.startAt ≤ s.cycle ∧ (s.core 0).facet.requests = [] ∧
      s.covered (s.clockOf 0) = true ∧ s.region 0 z.cmd = .open_ 1 0 0) ∧
    (let w : SsqWork := ⟨aCmd 0x30 spillDesc [5#128], [(0, 0), (1, 0)], some ⟨0, 1, 0, [(65536, wide)]⟩, 0, [], 0, 0, []⟩;
     (onCore0 fun c => { c with ssq := some w }).here.ssq = some w ∧ w.units = (0, 0) :: [(1, 0)]) ∧
    (let w : SsqWork := ⟨aCmd 0x30 spillDesc [5#128], [], none, 0, [], 0, 0, []⟩;
     (onCore0 fun c => { c with ssq := some w }).here.ssq = some w ∧ w.scan = none ∧ w.units = [] ∧ w.startAt ≤ 0) ∧
    (let k := { aCmd 0x20 aDesc [5#128] with bind := 1 };
     let z : Select := ⟨k, 0, 64, 0, [(128, 0)], [], 1, none, 0, [[0#32, 0#32, 0#32, 0x80000000#32]], true, 0, 0, []⟩;
     let s := onCore0 fun c => { c with
       facet := { c.facet with sel := some z },
       act := { c.act with ssu := [⟨1, []⟩], regs := { c.act.regs with q := [(5, some ⟨.ssu 0, 2, false, 0, 1⟩)] } } };
     z.merged = true ∧ z.pushAt ≤ s.cycle ∧ (s.core 0).ssq = none ∧
      ((s.core 0).ctx false).regs.bindingPos k.bind = some 0 ∧
      ((((s.core 0).ctx false).ssu.filter fun f => decide (f.bind = k.bind)).map fun f => f.recs.length).sum < 0 + 32) ∧
    (let k := aCmd 0x30 spillDesc [5#128];
     let c := { Core.reset with ssqQueue := [k] }; c.facet.queue = [] ∧ c.ssqQueue = k :: [] ∧ c.ssq = none ∧ k.at_ < 1) ∧
    (let w : FacetWork := ⟨aCmd 0x22 aDesc [], 7, 0, [], 4, []⟩; w ∈ [w] ∧ w.done ≤ 7 ∧ w.left = 0) := by decide

theorem met_FacetRequests_plain : (onCore0 id).plainMemory ∧ (onCore0 id).here.quiet := by
  unfold State.plainMemory Core.quiet
  exact ⟨⟨fun _ => rfl, rfl⟩, by decide⟩

/-! ## The controllers and the package -/

theorem met_ControllerRegisters :
    (let c := (on fun x => { x with held := true }).core 0;
     let w := 0x07F00010#32;
     c.act.held = true ∧ field w.toNat 0 11 + field w.toNat 16 12 ≤ 2048 ∧
      ¬ field 0x080007FF 0 11 + field 0x080007FF 16 12 ≤ 2048 ∧ c.act.fresh = [] ∧ Store.wf 0#32 c.act.fstat = true ∧
      c.spadr.toNat / 4 * 4 + 4 ≤ c.act.window ∧ c.pane.done = []) ∧
    ((State.reset.core 511).act.held = false ∧ (State.reset.core 511).act.task = none ∧
      (State.reset.core 511).shadow.task = none ∧ partitionOk 0xC0340000 = true ∧ partitionOk 0xD0000000 = false) ∧
    (let c := (onCore0 fun c => { c with act := { c.act with held := true }, pane := { c.pane with busy := some 12 } }).core 0;
     c.pane.busy = some (c.act.poolAddr (c.spadr.toNat / 4 * 4) / 32768)) ∧
    (Store.wf 0 State.reset.dist.runmax = true ∧ Store.wf 0#32 State.reset.dist.qlevel = true ∧
      (State.reset.die 0).opened.contains 0x104 = false ∧
      ({ Die.reset with opened := [0x104] } : Die).opened.contains 0x104 = true ∧ State.reset.dist.traces = []) ∧
    (let s := on id;
     s.hostDown = false ∧ s.hostWait = [] ∧ s.hostMessages < 64 ∧ s.hostSent = [] ∧ Store.wf 0 s.roots = true ∧
      Store.wf none s.images = true ∧ 0x104 ∉ (s.die 0).opened ∧
      ({ s with hostDown := true } : State).hostDown = true ∧
      (let t := { s with hostSent := [5] }.onDie 3 fun d => { d with incoming := [⟨5, 0, 0, [], true, 0, 0, [7#8], true, 0⟩] };
       t.visible 5 = false)) := by decide

theorem met_ControllerRegisters_quiet : (on fun x => { x with held := true }).here.quiet ∧
    (on fun x => { x with held := true }).act.held = true := by
  unfold Core.quiet
  decide

theorem met_TranslationControl :
    (((on id).die 15).inval = none ∧ (on id).dist.traces = []) ∧
    (let v : Inval := ⟨0, true, 0, 0, [], []⟩;
     let s := (on id).onDie 3 fun d => { d with inval := some v };
     (s.die 3).inval = some v ∧ (∀ id ∈ v.waitFor, s.visible id = true) ∧ s.spillsThrough v = false) ∧
    (let v : Inval := ⟨0, true, 0, 0, [9], []⟩;
     let w : Stamped := ⟨9, 0, 0, [], true, 0, 0, [1#8], false, 0⟩;
     let s := (on id).onDie 3 fun d => { d with inval := some v, incoming := [w] };
     9 ∈ v.waitFor ∧ s.visible 9 = false) ∧
    (let s := (on id).onDie 2 fun d => { d with tags := [(63, 4)] };
     lookup (s.die 2).tags 63 = some 4 ∧ lookup (s.die 2).tags 0 = none) := by decide

theorem met_TranslationControl_splinter :
    (let s := tables (on id) [(0x100000, 0x200001), (0x200000, 0x300001), (0x300000, 0xF)];
      s.walk 0 noEngine 0 0 = .leaf ⟨0, 0, 21, true, true, 0, false, 0⟩ 1 ∧ s.entryAddr 0 0 0x100000 3 2 = 0x300000 ∧
      0x400000 % (8 * 32) = 0 ∧ 0x400010 % (8 * 32) ≠ 0 ∧ s.hbm.wf = true ∧ (s.die 0).tlbs = [] ∧ s.walk 0 noEngine 0 (2 ^ 21) = .bad 1 0) ∧
    (let s := mapped (on id); s.walk 0 noEngine 0 0 = .leaf ⟨0, 0, 30, true, true, 0, false, 0⟩ 2 ∧
      0x408000 % (8 * 512) = 0) ∧
    ((on id).hbm.wf = true ∧ 2 ^ 40 - 1 + [7#8].length ≤ 2 ^ 40) := by decide

theorem met_TranslationControl_scan :
    (let w : SsqWork := ⟨aCmd 0x30 spillDesc [5#128], [(0, 9)], some ⟨0, 1, 0, [(65536, wide)]⟩, 0, [], 0, 0, []⟩;
     let s := onCore0 fun c => { c with ssq := some w };
     s.runningScans.map scanId = [(0, 3, false, 1)] ∧
      (∃ r ∈ s.runningScans, scanId r ∈ (⟨0, true, 0, 0, [], [(0, 3, false, 1)]⟩ : Inval).scans) ∧
      (on id).runningScans.isEmpty = true) := by decide

/-- An operation that copies one row of 4 bytes from byte 64 of the scratchpad to byte 128. -/
def aCopy (words : List Nat) : CopyOp :=
  { id := 3, kind := 0, core := 0, cid := false, tl := 4, num := 1, addr := 256, packet := words.map (BitVec.ofNat 32),
    scope := 0, asid := 0, gang := none, launch := none, blk := 0, trace := 0, issued := 0, notBefore := 0, row := 0,
    stage := .ready, status := 0, slotFree := 0, unseen := [], kv := [], data := none, todo := [], got := [],
    accepted := true, peer := none, clock := [], stamp := none, vstamp := [], blocked := [], rowIds := [] }

theorem met_TranslationControl_fault :
    let o := { aCopy [0x10, 4096, 0, 128, 0, 4, 0] with stage := .faulted (some 63) ⟨4096, false, 0⟩ 2 1 };
    let s := ({ on id with ops := [o] }).onDie 0 fun d => { d with tags := [(63, 3)] };
    (lookup (s.die 0).tags 63).bind s.op = some o ∧ o.stage = .faulted (some 63) ⟨4096, false, 0⟩ 2 1 ∧ o.die = 0 ∧
    (63#32).toNat % 64 = (63#6).toNat := by decide

theorem met_TranslationControl_plain : (mapped (on id)).plainMemory := by
  unfold State.plainMemory
  exact ⟨fun _ => rfl, rfl⟩

/-- Core 0 with that operation, and a circular buffer 0 of two slots of 4 bytes of which one is filled. -/
def copying (o : CopyOp) : State := { (on fun x => { x with
  regs := { x.regs with cb := [(0, ⟨64, 4, 2, 1, 1, 0, 0, 1, 0, 0, 1⟩), (1, ⟨64, 4, 2, 0, 0, 0, 0, 0, 0, 0, 0⟩)] } }) with
  ops := [o] }

theorem met_CopyRows_due : (copying (aCopy [0x11, 64, 0, 128, 0, 4, 0])).opDue (aCopy [0x11, 64, 0, 128, 0, 4, 0]) := by
  unfold State.opDue
  exact ⟨by decide, by decide, by decide, by decide, by decide, fun _ h => nomatch h⟩

theorem met_CopyRows_quiet : (copying (aCopy [])).here.quiet ∧ (copying (aCopy [])).here.noStores := by
  unfold Core.quiet Core.noStores
  exact ⟨by decide, ⟨rfl, rfl, rfl, rfl, fun _ h => nomatch h⟩⟩

theorem met_CopyRows :
    (let o := { aCopy [0x11, 64, 0, 128, 0, 4, 0] with accepted := false };
     let s := copying o;
     o.kind ≤ 1 ∧ o.trace = 0 ∧ o.copyOk = true ∧ s.buffersOk o = true ∧ o.sk = 1 ∧ o.dk = 1 ∧ o.rows = 1 ∧
      o.source 0 + o.bytes ≤ o.dest 0) ∧
    (let o := aCopy [0x11, 64, 0, 66, 0, 3, 0]; o.bytes < 4 ∧ (dw o.packet 3 % 4 ≠ 0)) ∧
    (let o := aCopy [0x31, 64, 0, 0, 0, 4, 0]; o.dk = 3 ∧ o.copyOk = true ∧ o.gang = none) ∧
    (let o := aCopy [0x11, 64, 0, 64, 0, 4, 0]; o.copyOk = true ∧ o.source 0 < o.dest 0 + o.bytes ∧
      o.dest 0 < o.source 0 + o.bytes) ∧
    (let o := aCopy [0x11, 64, 0, 128, 0, 4, 0];
     let s := copying o;
     s.act.clearing s.cycle = false ∧ (on fun x => { x with phase := .clearing 64 }).act.clearing 0 = true ∧
      o.source o.row + o.bytes ≤ (s.act.window) ∧ o.todo = [] ∧ o.rowIds = [] ∧ o.data = none ∧ o.got = [] ∧
      ¬ (aCopy [0x11, 1703936, 0, 128, 0, 4, 0]).source 0 + 4 ≤ s.act.window) := by decide

theorem met_CopyRows_read :
    (let o := aCopy [0x14, 0, 0, 128, 0, 4, 0];
     let s := copying o;
     o.sk = 4 ∧ (Store.get CBuf.unset s.act.regs.cb 0).filled = 1 ∧ (Store.get CBuf.unset s.act.regs.cb 1).filled = 0 ∧
      64 + 0 * 4 + o.bytes ≤ s.act.window ∧ Store.wf CBuf.unset s.act.regs.cb = true) ∧
    (let o := aCopy [0x10, 4096, 0, 128, 0, 4, 0];
     let s := cached (copying o);
     o.sk = 0 ∧ o.source 0 % 65536 + o.bytes ≤ 65536 ∧ ((copying o).die o.die).tlbEntry 0 0 4096 = none ∧
      wide.r = true ∧ wide.kind = 0 ∧ wide.rep = false ∧ s.reachable o.die wide 4096 o.bytes false = true ∧
      o.timed = false ∧ o.blocked = [] ∧ s.covered (s.clockOf o.die) = true) ∧
    (let o := aCopy [0x10, 4096, 0, 128, 0, 4, 0];
     let s := (cached (copying o)).onDie 0 fun d => { d with vc := [(1, 1)] };
     s.covered (s.clockOf o.die) = false ∧ s.reachable o.die wide 4096 o.bytes false = true) := by decide

/-- Whichever of the TLB's leaf and the table's is used, it is that leaf. -/
theorem met_CopyRows_leaf : let o := aCopy [0x10, 4096, 0, 4096, 0, 4, 0];
    (cached (copying o)).mayUse o 4096 wide := by
  unfold State.mayUse
  refine ⟨⟨0, 0, 0, wide⟩, by decide, ?_⟩
  split
  · rfl
  · exact ⟨2, by decide⟩

theorem met_CopyRows_write :
    (let o := { aCopy [0x21, 64, 0, 2 ^ 24 - 4, 0, 4, 0] with data := some [1#8, 2#8, 3#8, 4#8] };
     let s := copying o;
     let t := s.onDie 0 fun d => { d with vc := [(1, 1)] };
     o.dk = 2 ∧ o.dest 0 + o.bytes ≤ 2 ^ 24 ∧ s.here.bstore.wf = true ∧ o.scope < 3 ∧
      s.covered (s.clockOf o.die) = true ∧ t.covered (t.clockOf o.die) = false) ∧
    (let o := { aCopy [0x41, 64, 0, 0, 0, 4, 0] with data := some [1#8, 2#8, 3#8, 4#8] };
     let s := copying o;
     o.dk = 4 ∧ (Store.get CBuf.unset s.act.regs.cb 0).free = 1 ∧ (Store.get CBuf.unset s.act.regs.cb 1).free = 0 ∧
      s.bufferBusy o = false ∧ 64 + 1 * 4 + o.bytes ≤ s.act.window ∧ s.act.clearing s.cycle = false) ∧
    (let o := { aCopy [0x01, 64, 0, 4096, 0, 4, 0] with data := some [1#8, 2#8, 3#8, 4#8] };
     let s := cached (copying o);
     o.dk = 0 ∧ wide.w = true ∧ s.reachable 0 wide 4096 4 true = true ∧ o.trace = 0) ∧
    (let o := { aCopy [0x11, 64, 0, 128, 0, 4, 0] with todo := [(393344, [1#8, 2#8, 3#8, 4#8])], stamp := some (5, 1) };
     let s := copying o;
     s.covered o.vstamp = true ∧ s.covered [(1, 1)] = false ∧ Store.wf 0 o.vstamp = true ∧
      Store.wf CBuf.unset (s.here.ctx o.cid).regs.cb = true) := by decide

theorem met_CopyRows_others :
    (let o := { aCopy [0x11, 64, 0, 128, 0, 4, 0] with kind := 1, num := 3 };
     (((copying o).here.ctx o.cid).timeline o.tl).c + 1 < o.num) ∧
    (let o := { aCopy [0x01, 64, 0, 4096, 0, 4, 0] with rowIds := [5] };
     let s := (copying o).onDie 3 fun d => { d with incoming := [⟨5, 0, 0, [], true, 0, 2 ^ 36 * 3, [7#8], true, 0⟩] };
     s.visibleAt o.scope o.die 5 = false ∧ (copying o).visibleAt o.scope o.die 5 = true) ∧
    (let o := { aCopy [0x10, 0, 0, 128, 0, 4, 0, 64] with
       kind := 2, got := [(393280, 0xFF#8), (393281, 0xFF#8), (393282, 0xFF#8), (393283, 0xFF#8)] }
     o.dk = 1 ∧ o.listEntry (((copying o).here.ctx o.cid).poolAddr (dw o.packet 7)) o.row = 0xFFFFFFFF) ∧
    (let o := { aCopy [0x11, 64, 0, 128, 0, 4, 0] with stage := .landing, unseen := [5] };
     (∀ id ∈ o.unseen, (copying o).visibleAt o.scope o.die id = true) ∧ (copying o).dist.mailboxes = [] ∧
      o.launch = none) := by decide

/-- A walk that has ended, of an engine that two operations wait for. -/
theorem met_CopyRows_walk :
    let o := { aCopy [0x10, 4096, 0, 128, 0, 4, 0] with stage := .walk ⟨4096, false, 0⟩ };
    let k := { o with id := 4 };
    let s := (mapped { on id with ops := [o, k] }).onDie 0 fun d => { d with walkers := [⟨0, 0, 0, 0⟩] };
    s.op o.id = some o ∧ s.op k.id = some k ∧ s.walkDue o = true ∧
    (∀ j ∈ s.ops, j.shares 0 0 ⟨4096, false, 0⟩ (s.walk 0 0 0 4096) = true → j = o ∨ j = k) ∧
    s.walk 0 0 0 4096 = .leaf wide 2 ∧ (s.die 0).tlbs = [] ∧
    (let t := ({ on id with ops := [o] }).onDie 0 fun d => { d with walkers := [⟨0, 0, 0, 0⟩] };
     t.walkDue o = true ∧ (∀ j ∈ t.ops, j.shares 0 0 ⟨4096, false, 0⟩ (t.walk 0 0 0 4096) = true → j = o) ∧
      t.walk 0 0 0 4096 = .bad 3 0 ∧ (t.die 0).tags = [] ∧ (t.die 0).faults = [] ∧ o.timed = false ∧
      (t.onDie 0 fun d => { d with walkers := [] }).walkDue o = false) := by decide

/-- A stamped write to its home. -/
def aWrite (space addr : Nat) (home : Bool) : Stamped := ⟨5, 1, 1, [], home, space, addr, [7#8, 8#8], false, 0⟩

/-- Die 0 with a write on its way, and a far line of another stack. -/
def coming (w : Stamped) : State :=
  (on id).onDie 0 fun d => { d with incoming := [w], far := [(2 ^ 36 / 512, List.replicate 512 0#8)] }

theorem met_WritesAndClocks :
    (let w := aWrite 0 4095 true;
     let s := coming w;
     (s.die 0).incoming = [] ++ w :: [] ∧ w.due ≤ s.cycle ∧ s.covered w.clock = true ∧
      Store.wf 0 (s.die 0).kHome = true ∧ Store.wf 0 (s.die 0).kFar = true ∧ Store.wf 0 w.clock = true ∧ w.src < 16 ∧
      s.dist.traces = [] ∧ s.hbm.wf = true ∧ s.host.wf = true ∧ s.pod.wf = true) ∧
    ((aWrite 1 0 true).space = 1 ∧ (aWrite 2 0 true).space = 2) ∧
    (let w := aWrite 0 (2 ^ 36) false;
     let s := coming w;
     w.addr % 512 + w.bytes.length ≤ 512 ∧ (s.die 0).far.map (fun l => l.1) = [w.addr / 512]) ∧
    (let w := { aWrite 0 0 true with clock := [(2, 4)] }; (coming w).covered w.clock = false) ∧
    ([7#8] ≠ [] ∧ 2 ^ 40 - 1 + [7#8].length ≤ 2 ^ 40) ∧
    (let s := (on id).onDie 0 fun d => { d with unseen := [(1, 5)], sent := 1 }; ∀ e ∈ (s.die 0).unseen, 1 ≤ e.1) ∧
    (let w : RepWrite := ⟨6, 0, 1, [], 64, [7#8], [0, 1], false, false, 0⟩;
     let s := { on id with reps := [w, { w with id := 7, locked := true }, { w with id := 8, addr := 128 }] };
     s.reps = [w, { w with id := 7, locked := true }] ++ { w with id := 8, addr := 128 } :: [] ∧ w.due ≤ s.cycle ∧
      (∀ v ∈ s.reps, v.locked = true → v.addr / 64 ≠ 128 / 64) ∧ s.covered w.clock = true ∧
      64 % 2 ^ 36 + w.bytes.length ≤ 2 ^ 36) := by decide

theorem met_WritesAndClocks_order :
    (let b := { aWrite 2 0 true with due := 5, id := 6 };
     let w := aWrite 2 64 true;
     let s := (on id).onDie 0 fun d => { d with incoming := [b, w] };
     (s.die 0).incoming = [b] ++ w :: [] ∧ s.cycle < b.due ∧ s.urgent = false ∧ w.due ≤ s.cycle ∧ s.covered w.clock = true ∧
      b.space = 2 ∧ b.src = w.src ∧ b.addr / 2 ^ 40 = w.addr / 2 ^ 40 ∧ ({ w with addr := 2 ^ 40 } : Stamped).addr / 2 ^ 40 ≠ b.addr / 2 ^ 40) ∧
    (let m : Mailbox := ⟨64, 9, 1, 4096, 0, List.replicate 8 0#32, false, 0, [], []⟩;
     let s := mapped { on id with dist := { Distributor.reset with mailboxes := [(5, some m)] } };
     s.mailboxBehind 64 = some 5 ∧ s.mailboxBehind 128 = none ∧ Store.get none s.dist.mailboxes 5 = some m) ∧
    (let w : RepWrite := ⟨6, 0, 1, [], 64, [7#8], [0, 1], false, false, 0⟩;
     let s := { on id with reps := [w], ops := [{ aCopy [] with blocked := [(0, 512)] }] };
     s.reps = [] ++ w :: [] ∧ (∃ o ∈ s.ops, w.awaited o = true) ∧ s.hostAwaits w = false ∧
      (∀ o ∈ (on id).ops, w.awaited o = false)) := by decide

/-- An image header at 128 KiB: one line of code, partition VB = 8 and MB = 4 (R124). -/
def anImage : Memory :=
  ([(131072, 0x36314B43), (131076, 0x10000), (131080, 0x82000000), (131088, 1), (131092, 64), (131112, 8)].foldl
    (fun m e => Memory.writeBytes m e.1 (toBytes e.2 4)) [])

/-- The operation of a launch of that image with one block, with its changes. -/
def aLaunchOp (words : List Nat) : CopyOp := { aCopy words with kind := 5, accepted := false }

/-- The machine with that operation, brought up. -/
def launching (o : CopyOp) : State :=
  (mapped { on id with ops := [o], hbm := anImage }).onDie 0 fun d => { d with stage := 6 }

set_option maxRecDepth 10000 in
theorem met_Launches_early : let o := aLaunchOp [131072, 0, 65536];
    let s := { on id with ops := [o] };
    s.op o.id = some o ∧ s.launchReady o = true ∧ o.core < 512 ∧ o.unseen = [] ∧ (s.die 0).stage ≠ 6 ∧
    ((launching o).die 0).stage = 6 := by decide

theorem met_Launches_quiet : (launching (aLaunchOp [])).here.quiet ∧ ({ on id with ops := [aLaunchOp []] } : State).here.quiet := by
  unfold Core.quiet
  decide

set_option maxRecDepth 10000 in
theorem met_Launches_accept : let o := aLaunchOp [131072, 0, 65536];
    let s := launching o;
    s.op o.id = some o ∧ s.launchReady o = true ∧ dw o.packet 6 = 0 ∧
    (s.launchChecks o.packet o.asid false).find? (fun e => e.1) = none ∧
    (s.readRange o.asid 65536 16384).isSome = true ∧ (s.readRange o.asid 131072 64).isSome = true ∧
    blockTable o.packet [] = some [(0, 0, 0)] ∧
    (s.translateNow 0 o.asid 65536 false).map (fun l => (l.kind, l.rep, l.translate 65536)) = some (0, false, 65536) ∧
    (s.die 0).pool = none := by decide

theorem met_Launches_refuse :
    ((let o := aLaunchOp [131072, 0, 65537];
      ((launching o).launchChecks o.packet o.asid false).find? (fun e => e.1)) = some (true, 7)) ∧
    ((let o := aLaunchOp [131072, 0, 65536];
      ({ launching o with images := [(131072, some 64)] }.launchChecks o.packet o.asid false).find? (fun e => e.1)) =
        some (true, 1)) ∧
    ((let o := aLaunchOp [0, 0, 65536];
      ((launching o).launchChecks o.packet o.asid false).find? (fun e => e.1)) = some (true, 1)) ∧
    (let o := { aLaunchOp [131072, 0, 65536] with notBefore := 1 }; (launching o).launchReady o = false) := by decide

/-- A launch of one block, numbered 4095. -/
def aLaunch : Launch :=
  { num := 4095, op := 3, relaunch := false, asid := 0, desc := [131072#32, 0#32, 65536#32],
    image := ⟨0x82000000#32, 0, 1, [], [], [(0, 1#8), (1703935, 2#8)], false⟩, prio := 0, blocks := 1, gang := false,
    dies := 0xFFFF, pin := none, bars := 0, ptag := 0, qbase := 0, qcnt := 0, wire := none, trace := 0, window := 1,
    deps := [], left := [], placed := 0, killed := false, chosen := none, prepared := [], writes := [], oldW := [],
    redone := [], clock := [] }

theorem met_Launches_complete : let o := aLaunchOp [131072, 0, 65536];
    let s := { launching o with dist := { Distributor.reset with launches := [aLaunch] } };
    s.launch aLaunch.num = some aLaunch ∧ s.op aLaunch.op = some o ∧ o.core < 512 ∧ o.unseen = [] ∧
    aLaunch.relaunch = false ∧ s.dist.mailboxes = [] ∧ aLaunch.left = [] ∧ aLaunch.placed = 0 ∧ aLaunch.writes = [] ∧
    s.dist.queues = [] ∧ Store.wf Queue.reset s.dist.queues = true ∧ ({ aLaunch with left := [0] } : Launch).left ≠ [] := by
  decide

/-- A trace of one watched tile, in slot 0. -/
def aTrace : Trace := ⟨0, 1, 0, 0, false, [(64, 1)], [(64, 0)], some (131072, 65536, 0, false), [], [], false, false⟩

theorem met_Launches_trace :
    (let o := { aCopy [65536, 0] with kind := 7 };
     let s := { launching o with dist := { Distributor.reset with trsbase := 1 } };
     s.op o.id = some o ∧ o.notBefore ≤ s.cycle ∧ dw o.packet 14 = 0 ∧ traceOk o.packet = true ∧ s.dist.trsbase ≠ 0 ∧
      s.watchWindows o.asid 0 (traceWindows o.packet) = some [] ∧
      s.ownWritable o.asid (traceOwn (traceBmap o.packet) 0) = true ∧ 0 < s.dist.traceGen ∧ s.dist.traceGen < 2 ^ 26) ∧
    (traceOk [65537#32] = false ∧ (on id).dist.trsbase = 0) ∧
    (let s := { on id with dist := { Distributor.reset with traces := [aTrace] } };
     aTrace.handle = 64 ∧ s.trace 64 = some aTrace ∧ aTrace.asid = 0 ∧ s.trace 1 = none ∧
      s.dist.launches = []) := by decide

theorem met_Launches_relaunch :
    let r : Record := ⟨4095, 0, 0, 0, 0, [], false, false, none, [], []⟩;
    let l := { aLaunch with relaunch := true, trace := 64, prepared := [r], left := [0] };
    let s := { launching (aLaunchOp [131072, 0, 65536]) with
      dist := { Distributor.reset with launches := [l], traces := [{ aTrace with bmap := 65536 }] } };
    s.launch l.num = some l ∧ l.relaunch = true ∧ l.chosen = none ∧ s.forwarding = false ∧
    s.trace l.trace = some { aTrace with bmap := 65536 } ∧ (s.bitmap { aTrace with bmap := 65536 }).isSome = true ∧
    (s.translateNow 0 0 65536 true).map (fun f => f.kind) = some 0 ∧
    65536 % 65536 + ({ aTrace with bmap := 65536 } : Trace).bitmapBytes ≤ 65536 ∧
    l.prepared.map (fun r => r.blk) = List.range l.blocks ∧
    (let k := { l with left := [], chosen := some [] }; s.launchDone k = true) := by decide

/-- The distributor with a ready record at the head of queue 255. -/
def readyHead : State :=
  let r : Record := ⟨4095, 7, 9, 0, 0, [3], true, false, none, [], []⟩;
  { on id with dist := { Distributor.reset with
    launches := [aLaunch], queues := [(255, ⟨some 4095, false, [r], { Ring.empty with entries := [(0, [])], next := 1 }⟩)] } }

theorem met_Distribution_place : let s := readyHead;
    Store.wf Queue.reset s.dist.queues = true ∧ Store.wf 0 s.dist.last = true ∧ (∀ e ∈ s.dist.queues, e.1 < 256) ∧
    s.dist.searched ≤ s.cycle ∧ s.anyNewReady = false ∧ s.dist.promoted = none ∧ s.dist.chosen = [] ∧
    (s.queue 255).wired = false ∧ ((s.queue 255).recs.map fun r => (r.blk, r.ready, r.group)) = [(7, true, false)] ∧
    ((s.queue 255).ring.deliver, []) ∈ (s.queue 255).ring.entries ∧ s.launch 4095 = some aLaunch ∧
    (∀ e ∈ s.dist.queues, e.1 = 255) ∧ bitOf aLaunch.dies (511 / 32) = true ∧ s.busyCores = [] ∧
    (s.core 1).act.task = none ∧ fitsCore [(1, 0)] aLaunch.image.partition.toNat 1 = none := by decide

theorem met_Distribution_others :
    (readyHead.dist.tick < 2 ^ 64 ∧ readyHead.dist.reportAt ≤ readyHead.cycle ∧
      readyHead.cycle < ({ Distributor.reset with reportAt := 64 } : Distributor).reportAt) ∧
    (let d := { Distributor.reset with framelen := 8, tick := 7, nextTick := 0 };
     let r : Record := ⟨5, 7, 9, 0, 1, [3], true, false, none, [], []⟩;
     let s := { on id with dist := { d with running := [r] } };
     d.nextTick ≤ 0 ∧ d.tickHeld = false ∧ (d.tick + 1) % d.framelen = 0 ∧ s.lateRecords = [(5, 7)] ∧
      ({ on id with dist := d }).lateRecords = [] ∧ 0 < Distributor.reset.nextTick) ∧
    (let s := { readyHead with cycle := 9, dist := { readyHead.dist with
        busySince := [(0, 1)], runmax := [(0, 2 ^ 32 - 1)], qlevel := [(15, 0x40000000#32)] } };
     2 ^ 32 - 1 - Store.get 0 s.dist.runmax 0 < s.cycle + 2 - 1 ∧ s.dist.promoted = none ∧
      (s.heads.map fun h => h.level) = [1] ∧ Store.get 0 (on id).dist.busySince 0 = 0) ∧
    (let r := { Ring.empty with lent := [(32, [])], next := 33, blocks := 1, lentUsed := 1 };
     let q := { r with moving := [(32, 0)] };
     let w := { Ring.empty with waiting := [[5#32]] };
     r.lent = [] ++ (32, []) :: [] ∧ (∀ m ∈ r.moving, ¬ m.1 % 32 = 32 % 32) ∧ (∀ e ∈ r.entries, ¬ e.1 % 32 = 32 % 32) ∧
      (∃ m ∈ q.moving, m.1 % 32 = 32 % 32) ∧ q.lent = (32, []) :: [] ∧ (∃ m ∈ q.moving, m.1 = 32 ∧ m.2 ≤ (on id).cycle) ∧
      Ring.empty.lent = [] ∧ Ring.empty.waiting = [] ∧ w.waiting = [5#32] :: [] ∧ w.lent = [] ∧
      w.canEnter 32 ((on id).die 0).lend = true) ∧
    (let s := { on id with dist := { Distributor.reset with
        launches := [aLaunch], queues := [(9, { Queue.reset with launch := some 4095 })] } }
     let h := [0#32, 0x82000000#32, 0#32, 0#32, 0#32, 0#32, 0#32, 0#32];
     h.length = 8 ∧ (s.queue 9).wired = false ∧ (s.queue 9).launch = some 4095 ∧ s.launch 4095 = some aLaunch ∧
      aLaunch.recordOk (s.dist.queueLevel 9) h = true ∧ Store.get none s.dist.mailboxes 1023 = none ∧ (12 : Nat) ≤ 12) ∧
    (let s := { on id with ringing := [(5, 9)] };
     (5, 9) ∈ s.ringing ∧ (∀ e ∈ s.ringing, e.1 = 5 → e.2 = 9) ∧ s.visible 9 = true) := by decide

/-- A machine with a message in the mailbox of the host or of queue 9, alone or of an operation. -/
def mailed (host : Bool) (op : Option Nat) : State :=
  let m : Mailbox := ⟨64, 9, 1, 4096, 0, List.replicate 8 0#32, host, 0, [], [⟨0, 65535, op, [1#32, 2#32], 0, []⟩]⟩;
  mapped { on id with
    ops := [{ aCopy [0x10, 4096, 0, 128, 0, 4, 0] with kind := 3, stage := .waiting }]
    dist := { Distributor.reset with
      launches := [aLaunch], queues := [(9, { Queue.reset with launch := some 4095 })], mailboxes := [(5, some m)] } }

theorem met_Distribution_mail :
    (∀ host : Bool, let s := mailed host none; let w : Message := ⟨0, 65535, none, [1#32, 2#32], 0, []⟩;
      ∃ m, Store.get none s.dist.mailboxes 5 = some m ∧ m.waiting = w :: [] ∧ m.next % 2 ^ m.n ∉ m.busy ∧
        (m.host = true ∨ s.queueOpen m.queue = true) ∧ (s.ringLeaf m w).map (fun l => l.rep) = some false ∧
        ({ s with hbm := [] } : State).ringLeaf m w = none ∧ w.sender < 65536 ∧ s.ringing = [] ∧
        (({ m with busy := [0] } : Mailbox).next % 2 ^ m.n) ∈ [0]) ∧
    (let s := mailed false (some 3);
     (∃ o, s.op 3 = some o ∧ o.stage = .waiting ∧ o.timed = false ∧ (s.die o.die).tlbEntry (engineOf o.core) 0 4096 = none) ∧
      (s.queue 9).launch = some 4095 ∧ s.launch 4095 = some aLaunch ∧
      ({ aCopy [] with kind := 3 } : CopyOp).stage ≠ .waiting ∧ wide.w = true ∧ wide.rep = false ∧
      s.reachable 0 wide 4096 64 true = true) := by
  refine ⟨fun host => ?_, by decide⟩
  cases host <;> exact ⟨_, rfl, by decide⟩

theorem met_Distribution_leaf : let o := aCopy [0x10, 4096, 0, 128, 0, 4, 0];
    let s := (mailed false (some 3)).onDie 0 fun d => { d with tlbs := [⟨0, 0, 0, wide⟩] };
    State.mayUse s { o with asid := 0 } 4096 wide := by
  unfold State.mayUse
  refine ⟨⟨0, 0, 0, wide⟩, by decide, ?_⟩
  split
  · rfl
  · exact ⟨2, by decide⟩

theorem met_TasksAndContexts :
    (let τ := { aTask with launch := 4095 };
     let s := { (on fun x => { x with task := some τ, phase := .waiting }) with
        dist := { Distributor.reset with launches := [aLaunch] } };
     s.launch τ.launch = some aLaunch ∧ s.ops = [] ∧ s.here.paneIdle s.act.cid = true ∧ s.here.pool.wf = true) ∧
    (Store.wf Parity.valid (on fun x => { x with phase := .clearing 64 }).here.parity = true ∧ (on id).here.shadow.task = none ∧
      (on id).here.shadow.phase = .none ∧ (on id).act.phase = .running) ∧
    (let x := { aCtx with phase := .halted };
     x.held = false ∧ x.trap = none ∧ x.fp = [] ∧ x.pend = [] ∧ x.gate = [] ∧ x.tl = [] ∧ aTask.gang = none ∧
      aTask.mailbox = none ∧ aTask.trace = 0 ∧ aTask.fromQueue = none ∧ (on id).dist.barriers = [] ∧
      (on id).here.swapWanted = none ∧ (on id).here.mx.rep = none ∧ Store.wf 0 aLaunch.deps = true) ∧
    ((on fun x => { x with held := true }).act.held = true ∧ (on id).act.held = false) := by decide

/-- Core 0 with a second context that runs a task of level 0 beside one of level 1. -/
def twoContexts (f : Core → Core) : State := onCore0 fun c => f { c with
  act := { c.act with task := some { aTask with prio := 1 } }
  shadow := { aCtx with cid := true } }

theorem met_TasksAndContexts_swap :
    (let c := (twoContexts id).core 0;
     c.swapWanted = none ∧ c.shadow.canRun = true ∧ ((twoContexts id).die 0).parked = [] ∧ c.act.gang = none ∧
      c.shadow.level < c.act.level ∧ c.act.canRun = true ∧ c.shadow.asked = false ∧ (on id).here.shadow.canRun = false) ∧
    (let k : Mark := ⟨0, 0, true, aCtx.regs⟩;
     let s := twoContexts fun c => { c with swapWanted := some 0, act := { c.act with marks := [k] } };
     let x := (s.core 0).act;
     (s.core 0).swapWanted ≠ none ∧ s.shadowRuns 0 = true ∧ (s.core 0).swapEnd ≤ s.cycle ∧ x.atMark = true ∧
      x.held = false ∧ x.trap = none ∧ x.fp = [] ∧ x.pend = [] ∧ x.gate = [] ∧ (x.timeline 0).out = [] ∧
      (s.core 0).mx.rep = none ∧ x.regs.emptied = [] ∧ x.gang = none) ∧
    (let k : Mark := ⟨0, 0, true, aCtx.regs⟩;
     let s := { (twoContexts fun c => { c with act := { c.act with marks := [k], waits := [.count 3 1 0] } }) with
        cycle := 512 }
     let x := (s.core 0).act;
     x.phase = .running ∧ x.atMark = true ∧ x.atWait = true ∧ x.heldSince + 512 ≤ s.cycle ∧ s.shadowRuns 0 = true ∧
      (s.die 0).parked.length < 1024) ∧
    (let s := (twoContexts id).onDie 0 fun d => { d with parked := [⟨0, true⟩] };
     ⟨0, true⟩ ∈ (s.die 0).parked ∧ (s.core 0).shadow.waits = [] ∧ (s.core 0).shadow.heldPop = none ∧
      ((twoContexts id).die 0).parked = []) := by decide

theorem met_TasksAndContexts_saves : let v : Saved := ⟨9#32, aCtx, [(0, 1#8)]⟩;
    let c := (twoContexts id).core 0;
    let s := onCore0 fun c => { c with saved := [v] };
    (c.shadow.phase = .running ∧ c.shadow.gang = none ∧ c.shadow.tl = [] ∧ c.shadow.gate = [] ∧
      ((twoContexts id).die 0).parked = [] ∧ c.swapWanted = none) ∧ (on id).here.shadow.phase ≠ .running ∧
    (s.core 0).saved = [] ++ v :: [] ∧ v.key = 9#32 ∧ (s.core 0).shadow.task = none ∧ (s.core 0).act.phase ≠ .waiting ∧
    64 - ({ aCtx with partition := 0x82200000#32 } : Ctx).xb ≤ ({ aCtx with bankBase := 32 } : Ctx).bankBase ∧ c.shadow.task ≠ none ∧ c.saved.map (fun u => u.key) = [] ∧
    (s.core 0).pool.wf = true ∧ v.pool.wf = true ∧ (∀ e ∈ v.pool, v.ctx.owns e.1 = true) := by decide

/-- The package in stage 6. -/
def booted : State := (on id).onDie 0 fun d => { d with stage := 6 }

theorem met_PackageAndHost_host :
    (let s := { on id with hostWait := [.hostMessage 0 []] };
     s.hostDown = false ∧ s.hostWait = .hostMessage 0 [] :: [] ∧
      (Instr.hostMemoryWrite ⟨.control, 0⟩ []) ≠ .hostMessage 0 [] ∧ (Instr.hostMemoryWrite ⟨.window, 0⟩ []) ≠ .hostMessage 0 []) ∧
    (let off := 2 ^ 22 * 15 + 0x104;
     off < 2 ^ 26 ∧ off % 4 = 0 ∧ off / 2 ^ 22 % 16 = 15 ∧ (off % 2 ^ 22 < 0x10000) ∧ 0x11044 % 0x100 = 0x44) ∧
    ((on id).host.wf = true ∧ HostSpace.window ≠ .own ∧ HostSpace.mailbox ≠ .own) ∧
    (let s := mapped { booted with setNow := [5] };
     5 ∈ s.setNow ∧ 5 ∉ booted.setNow ∧ (s.die 0).stage = 6 ∧ (mapped booted).leafNow 0 hostEngine 0 65534 = some wide ∧
      wide.kind = 0 ∧ booted.leafNow 0 hostEngine 0 0 = none) ∧
    ({ Die.reset with stage := 1, verified := true } : Die).verified = true ∧
    (let s := { on id with dist := { Distributor.reset with errors := [3] } };
     s.dist.errors.Nodup ∧ 3 ∈ s.dist.errors ∧ 768 / 256 = 3) := by decide

theorem met_PackageAndHost :
    ((on id).die 0).stage ≠ 6 ∧
    (let w : Stamped := aWrite 0 0 true;
     let s := { booted with hostSent := [5] }.onDie 3 fun d => { d with incoming := [w] };
     (s.die 0).stage = 6 ∧ s.hostDown = false ∧ s.hostWait = [] ∧ s.visible 5 = false) ∧
    (let m : Mailbox := ⟨64, 9, 1, 4096, 0, [], true, 0, [], []⟩;
     let s := { booted with dist := { Distributor.reset with mailboxes := [(1023, some m)] } };
     let w := 12#32 :: List.replicate 15 0#32;
     s.hostSent = [] ∧ s.hostMessages < 64 ∧ Store.get none s.dist.mailboxes 1023 = some m ∧ w.length = 16 ∧
      (nth0 w 0).toNat % 16 = 12 ∧ Store.get none s.dist.mailboxes 0 = none ∧ (13#32).toNat % 16 = 13) ∧
    (let s := mapped booted;
     s.dist.mailboxes = [] ∧ 65534 % 65536 + [1#8, 2#8].length ≤ 65536 ∧
      (s.translateNow 0 (s.hasid.toNat % 4096) (s.hwbase.toNat % 65536 * 2 ^ 36 + 65534) true).map (fun l => (l.kind, l.rep)) =
        some (0, false) ∧ booted.translateNow 0 0 65534 true = none ∧ s.covered (s.clockOf 0) = true) ∧
    (let d := { Die.reset with fail := true, stage := 1 }; d.fail = true ∧ d.stage = 1 ∧ Die.reset.stage < 6 ∧
      Die.reset.fail = false) ∧
    (Store.wf 0#32 (on id).dist.retmap = true ∧ (on id).dist.retmap = [] ∧
      (2 ^ 36 * 15 + 256 * 31) / 2 ^ 36 % 16 = (15#4).toNat ∧ (2 ^ 36 * 15 + 256 * 31) % 2 ^ 36 / 256 % 32 = (31#5).toNat) := by
  decide

theorem met_MemoryStaysCanonical : let s := { State.reset with hbm := [(64, 3#8)] };
    Memory.wf s.hbm = true ∧ Memory.wf s.host = true ∧ Memory.wf s.pod = true ∧ (stateOf s (step s)).dist.reportAt = 64 := by decide

/-! ## Ill-formed instructions are refused: one for each check (R74, R81 to R97) -/

/-- None of these is well-formed. -/
def refused (l : List Instr) : Bool := l.all fun i => !wf i

theorem test_illFormed_scalar : refused [.wait yes 5#5 7#6, .loopsW yes 63#6 1#12, .bar yes 0#3, .bar yes 5#3, .launch yes 7#6 3#5,
    .relaunch yes 7#6 3#5, .trace yes 7#6 0#5, .movaD head0 2#4 4#6 6#3, .bext head0 2#6 9#6 28#5 4#5,
    .bins head0 2#6 9#6 31#5 1#5] = true := by decide

theorem test_wellFormed_bext : wf (.bext head0 2#6 9#6 28#5 3#5) = true := by decide

/-- A memory head without mask. -/
def ms : MHead := ⟨false, 0#4, false, false, 0#8⟩

theorem test_illFormed_memory : refused [
    .ldv ⟨mh 1#8, 1#10, 1#4, 0#16, 2#4, false⟩, .ldv ⟨{ mh 1#8 with d := true }, 1#10, 1#4, 0#16, 4#4, true⟩,
    .ldv ⟨mh 1#8, 784#10, 1#4, 0#16, 4#4, false⟩, .ldv ⟨mh 0#8, 1#10, 1#4, 0#16, 4#4, false⟩,
    .ldv ⟨{ mh 1#8 with gk := false, gn := 8#4 }, 1#10, 1#4, 0#16, 4#4, false⟩,
    .stv ⟨mh 1#8, 792#10, 1#4, 0#16, 4#4, false⟩, .ldt ⟨mh 1#8, 1#10, 1#4, 0#16, 6#4, false⟩,
    .lds ⟨ms, 1#6, 1#4, 0#16, 6#4, false⟩, .lds ⟨mh 0#8, 1#6, 1#4, 0#16, 4#4, false⟩, .sts ⟨mh 1#8, 1#6, 1#4, 0#16, 4#4, false⟩,
    .lds ⟨{ ms with gn := 8#4 }, 1#6, 1#4, 0#16, 4#4, false⟩, .ldx ⟨mh 1#8, 1#10, 768#10, 1#4, 4#4⟩,
    .ldx ⟨mh 1#8, 1#10, 792#10, 1#4, 4#4⟩, .ldx ⟨mh 1#8, 784#10, 1#10, 1#4, 4#4⟩, .stx ⟨mh 1#8, 1#10, 1#10, 1#4, 6#4⟩,
    .ldm ⟨ms, 1#5, 3#2, false, 0#6, 1#4, 0#16⟩, .amo ⟨ms, 1#6, 2#6, 3#4, 10#4, 0#6, 4#4⟩,
    .amo ⟨ms, 1#6, 2#6, 3#4, 0#4, 1#6, 4#4⟩, .amo ⟨ms, 1#6, 2#6, 3#4, 0#4, 0#6, 2#4⟩, .fence ms 3#2,
    .unbind ⟨ms, 1#4, 1#2, 0#4⟩, .unbind ⟨ms, 1#4, 0#2, 1#4⟩, .cbset ⟨ms, 1#4, 1#2, 0#4⟩, .copy ⟨ms, 3#5, 1#4, 2#6⟩,
    .tqpush ⟨ms, 3#5, 1#4, 2#6⟩] = true := by decide

theorem test_illFormed_engine : let h : EHead := ⟨yes, false, 0#8⟩;
    let m := anEm 4#6;
    refused [.mma { m with mode := 1#2 }, .mma { m with tri := true }, .mma { m with sl := 1#2 }, .mma { m with acc := 34#6 },
      .mma { m with dir := 3#2 }, .mma { m with head := { h with d := true }, ovr := true }, .mmaSplit m,
      .mmaSplit { m with mode := 3#2, sl := 3#2 }, .mmaSplit { m with mode := 3#2, acc := 32#6 }, .mmas m,
      .mmas { m with mode := 3#2 }, .mdrain { h with beats := 79#8 } 4#6 5#5 14#4 63#6, .mdrain h 4#6 5#5 9#4 63#6,
      .mdrain { h with beats := 79#8 } 32#6 5#5 9#4 63#6, .mzero { h with beats := 1#8 } 4#6, .mzero h 34#6,
      .mbsel { h with beats := 1#8 } 1#4, .fmtt { h with beats := 1#8 } 1#4 1#6, .pload { h with beats := 1#8 } 1#4 1#8,
      .prun { h with beats := 1#8 } 40#6 0#8, .fsel ⟨h, 1#4, 5#4, true, 10#6⟩, .fins ⟨h, 1#4, 0#4, true, 1#6⟩,
      .fins ⟨h, 1#4, 0#4, false, 0#6⟩, .fclr ⟨h, 1#4, 1#4, true, 0#6⟩] = true := by decide

theorem test_illFormed_vector : let o := aVOp .v0 5#10 3#10 4#10;
    let u : VOp := { o with src2 := 0#10 };
    let c : VOp := { o with kind := 2#2, src2 := 0#10 };
    let f : VOp := { o with type := 9#4 };
    refused [.vadd { o with type := 8#4 }, .vadd { o with src2 := 792#10 }, .vadd { o with kind := 1#2, src2 := 64#10 },
      .fadd { f with type := 10#4, kind := 1#2 }, .fadd { f with kind := 2#2 }, .vadd { o with kind := 3#2 }, .vabs o,
      .vabs { u with kind := 1#2 }, .vxcl { c with src2 := 16#10 }, .vxcl { c with kind := 0#2 },
      .vmrd { c with src2 := 64#10 }, .cvt { f with src2 := 14#10 }, .cvt { f with src2 := 9#10 }, .vimm { o with kind := 1#2 },
      .vadd { o with src1 := 792#10 }, .vxcl { c with src1 := 768#10 }, .rdrain { u with src1 := 4#10 },
      .vmrd { c with src1 := 1023#10 }, .vimm { o with type := 8#4, src1 := 64#10 }, .fadd { f with sat := true },
      .vadd { o with rnd := 1#2 }, .vadd { o with d := true, sat := true }, .vadd { o with mask := 0#8 },
      .vadd { o with dst := 784#10 }, .vcmp 0#3 { o with dst := 16#10 }, .vred { u with dst := 4#10 },
      .vmwr { c with dst := 1023#10 }, .vmwr { c with mask := 0x11#8, dst := 1#10 }, .vcmp 6#3 { o with dst := 1#10 },
      .vmad { o with dst := 768#10 }, .dsplit { c with type := 10#4, gp := 1#4 },
      .dsplit { c with type := 10#4, dst := 767#10 }] = true := by decide

/-! ## Words of the spec's encodings, one family after the other (R84 to R101) -/

theorem test_decode_control : decodeSlot 0 0x30080000 = some (.bar yes 1#3) ∧ decodeSlot 0 0x30100000 = some (.bar yes 2#3) ∧
    decodeSlot 0 0x48072800 = some (.launch yes 7#6 5#5) ∧ decodeSlot 0 0x40030004 = some (.sysrd yes 3#6 4#12) := by decide

theorem test_decode_scalar : decodeSlot 1 0x30020800 = some (.movs head0 2#6 2#4) ∧
    decodeSlot 1 0x2A040004 = some (.movi head0 4#6 4#16) := by decide

theorem test_decode_vector : decodeSlot 4 0xFF0180020040BC80 =
    some (.cvt ⟨.v0, 0xFF#8, 0#4, false, 2#10, 1#10, 11#10, true, 9#4, false, 0#2, 0#2⟩) := by decide

theorem test_decode_memory :
    decodeSlot 6 0x0207FC1430080400 = some (.ldv ⟨⟨false, 0#4, false, true, 0xFF#8⟩, 20#10, 3#4, 128#16, 4#4, false⟩) ∧
    decodeSlot 6 0x0600009200022800 = some (.lds ⟨ms, 9#6, 2#4, 2#16, 2#4, true⟩) ∧
    decodeSlot 6 0x1604005190004000 = some (.amo ⟨{ ms with d := true }, 5#6, 6#6, 4#4, 0#4, 0#6, 4#4⟩) ∧
    decodeSlot 6 0x2004008100000000 = some (.bind ⟨{ ms with d := true }, 2#4, 0#2, 1#4⟩) ∧
    decodeSlot 6 0x300400CA50000000 = some (.copy ⟨{ ms with d := true }, 6#5, 5#4, 10#6⟩) := by decide

theorem test_decode_engine : let h : EHead := ⟨yes, true, 0#8⟩;
    decodeSlot 3 0x0203F10411820000 =
      some (.mma { anEm 4#6 with head := { h with d := false, beats := 63#8 }, areg := 8#5, ovr := true }) ∧
    decodeSlot 3 0x0814F10D3F800000 = some (.mdrain { h with beats := 79#8 } 4#6 6#5 9#4 63#6) ∧
    decodeSlot 3 0x0610010000000000 = some (.mzero h 4#6) ∧ decodeSlot 3 0x0A10030000000000 = some (.mbsel h 3#4) ∧
    decodeSlot 3 0x0C10031C00000000 = some (.fmtt h 3#4 7#6) := by decide

theorem test_decode_facet : let h : EHead := ⟨yes, true, 0#8⟩;
    decodeSlot 3 0x4010065140000000 = some (.fsel ⟨h, 6#4, 5#4, false, 10#6⟩) ∧
    decodeSlot 3 0x4410060800000000 = some (.fins ⟨h, 6#4, 0#4, true, 0#6⟩) ∧
    decodeSlot 3 0x2010010400000000 = some (.pload h 1#4 4#8) ∧ decodeSlot 3 0x22100A0000000000 = some (.prun h 40#6 0#8) := by
  decide

theorem test_decode_micro : (decodeMicro 0xA0000000).toOption = some .wend ∧
    (decodeMicro 0x60000000).toOption = some (.wlat false false 0#2 0#8) ∧
    (decodeMicro 0x55100000).toOption = some (.wwb true false 5#3 16#8) := by decide

/-! ## The spec's worked examples -/

theorem test_bext : let s := withS [(9, 0xA5C3#32)];
    (stateOf s (exec (.bext head0 2#6 9#6 8#5 3#5) s)).act.pend.map (fun l => (l.due, l.eff)) = [(1, .s 2 5#32)] := by decide

theorem test_vadd_i8_sat : let x := { aCtx with regs := { aCtx.regs with
      v := [(vKey 0 4 0, 0x7F800164#32), (vKey 0 5 0, 0x01FF0264#32)] } };
    let o : VOp := ⟨.v0, 1#8, 0#4, false, 3#10, 4#10, 5#10, false, 0#4, true, 0#2, 0#2⟩;
    let v (o : VOp) : Option Word := (stateOf (on fun _ => x) (exec (.vadd o) (on fun _ => x))).act.pend.findSome? fun l =>
      match l.eff with
      | .v cells => cellOf cells (vKey 0 3 0)
      | _ => none;
    v o = some 0x7F80037F#32 ∧ v { o with sat := false } = some 0x807F03C8#32 := by decide

theorem test_rounding : (convert 9 11 0 false 0x43E60000).1 = 0x7E ∧ (convert 9 11 0 false 0x43E60000).2.nx = true ∧
    (convert 9 12 0 false 0x40200000).1 = 4 ∧ (convert 9 12 0 false 0x40A00000).1 = 6 ∧
    (convert 9 13 0 false 0x407C0000).1 = 0x30 ∧ (convert 9 13 0 false 0x40B00000).1 = 0x32 := by decide

theorem test_group_scale : scaleOf 13 [decodeVal 9 0x40A00000] = 128 ∧
    (roundVal 13 0 ((decodeVal 9 0x40A00000).scale (127 - 128))).1 = 0x74 := by decide

/-! ## The first step -/

theorem test_fetch : (stateOf State.reset (step (State.reset.withFetchWord 32 0x2A040004))).act.pend.map (fun l => l.eff) =
    [.s 4 4#32] := by decide

end Sys2Proof.Tests
end

section
/-! SUPPORT. What is due runs (log 1); scalar results land when due; dual writes of two slots (R8, R21, R102, R152). -/

namespace Sys2Proof

/-! ## Tables -/

/-- What every key of a table reads after one is set. -/
theorem Store.get_set {α : Type} [DecidableEq α] {d : α} {l : Store α} (h : Store.wf d l = true) (k j : Nat) (x : α) :
    Store.get d (Store.set d l k x) j = if j = k then x else Store.get d l j := by
  split
  · subst_vars; exact Store.get_set_same h _ x
  · exact Store.get_set_ne h x ‹_›

end Sys2Proof

namespace Sys2Proof.Machine

/-! ## A step (log 1) -/

/-- Settles O5: each kind of step that comes next is one branch of `step`. -/
theorem stepRunsWhatIsDue : Obligations.StepRunsWhatIsDue := by
  unfold Obligations.StepRunsWhatIsDue
  intro s
  refine ⟨fun core i h => ?_, fun i rest h => ?_, fun h hs => ?_, fun h hs => ?_⟩
  · simp only [step, h]
  · simp only [step, h]
  · simp only [step, h, hs, Bool.false_eq_true, if_false]
  · simp only [step, h, hs, if_true]

/-! ## Landing (R8, R21, R152) -/

/-- A result that is one of the registers' effects changes the registers as `Regs.apply` says, whoever wrote it (R152). -/
theorem Ctx.landOne_regs_scalar (x : Ctx) (cycle : Nat) (l : Landing)
    (h : (∃ n v, l.eff = .s n v) ∨ (∃ n v, l.eff = .sp n v) ∨ ∃ n v, l.eff = .a n v) :
    (x.landOne cycle l).regs = x.regs.apply l.eff := by
  rcases h with ⟨n, v, h⟩ | ⟨n, v, h⟩ | ⟨n, v, h⟩ <;>
  · simp only [Ctx.landOne, h]
    split
    · exact Ctx.onAllRegs_regs x _
    · exact Ctx.onRegs_regs x _ _

/-- A scalar register after a scalar result has reached the registers (R21). -/
theorem Regs.readS_apply_s {r : Regs} (h : Store.wf 0#32 r.s = true) (n k : Nat) (v : Word) :
    (r.apply (.s n v)).readS k = if k = 0 then 0#32 else if k = n then v else r.readS k := by
  by_cases hk : k = 0
  · simp only [Regs.readS, hk, if_true]
  · simp only [Regs.readS, Regs.apply, if_neg hk, Store.get_set h]

/-- A scalar predicate after a predicate result has reached the registers (R21). -/
theorem Regs.readSp_apply_sp {r : Regs} (h : Store.wf false r.sp = true) (n k : Nat) (v : Bool) :
    (r.apply (.sp n v)).readSp k = if k = 0 then true else if k = n then v else r.readSp k := by
  by_cases hk : k = 0
  · simp only [Regs.readSp, hk, if_true]
  · simp only [Regs.readSp, Regs.apply, if_neg hk, Store.get_set h]

/-- An address register after a result for one has reached the registers. -/
theorem Regs.readA_apply_a {r : Regs} (h : Store.wf 0#32 r.a = true) (n k : Nat) (v : Word) :
    (r.apply (.a n v)).readA k = if k = n then v else r.readA k := Store.get_set h n k v

/-- With one result in flight nothing lands before it is due (R8). -/
theorem Ctx.landAll_before {x : Ctx} {cycle : Nat} {l : Landing} (hp : x.pend = [l]) (h : cycle < l.due) :
    (x.landAll cycle).pend = [l] ∧ (x.landAll cycle).regs = x.regs := by
  have hd : decide (l.due ≤ cycle) = false := decide_eq_false (by omega)
  simp [Ctx.landAll, hp, hd, sortBy]

/-- With one scalar result in flight, in and after its cycle it lands, and nothing is left in flight (R8, R152). -/
theorem Ctx.landAll_due {x : Ctx} {cycle : Nat} {l : Landing} {n : Nat} {v : Word} (hp : x.pend = [l]) (he : l.eff = .s n v)
    (h : l.due ≤ cycle) : (x.landAll cycle).pend = [] ∧ (x.landAll cycle).regs = x.regs.apply l.eff := by
  have hd : decide (l.due ≤ cycle) = true := decide_eq_true h
  have land (y : Ctx) : (y.landOne cycle l).pend = y.pend := by
    simp only [Ctx.landOne, he]
    split <;> rfl
  constructor
  · simp [Ctx.landAll, hp, hd, he, sortBy, insertBy, Eff.accesses, Eff.isSystem, land]
  · simp only [Ctx.landAll, hp, hd, he, sortBy, insertBy, Eff.accesses, Eff.isSystem, List.filter_cons, List.filter_nil,
      Bool.not_false, Bool.and_true, if_true, Bool.false_eq_true, if_false, List.foldl_nil, List.foldl_cons]
    rw [Ctx.landOne_regs_scalar _ _ _ (.inl ⟨n, v, he⟩), he]

/-! ## Dual writes (R102) -/

/-- The outcome of a dual write: with the checking scoreboard off, `left` and the later result are in flight and DW is set;
with it on, the bundle traps and its results in flight are as they were. -/
def State.DualWritten (s t : State) (l : Landing) (n : Nat) (left : List Landing) : Prop :=
  (s.act.chk = false → t.act.pend = left ++ [l] ∧ t.act.cstat = s.act.cstat ||| 1#32) ∧
  (s.act.chk = true → s.here.iss.trap = none →
    t.act.pend = s.act.pend ∧ t.here.iss.trap = some ⟨0xD, l.slot.code, 0, s.here.iss.pc, n⟩)

/-- Of two effects the later writes what the earlier does: the register a trap names, and what is left of the earlier
(R102). -/
def Eff.Dual (a b : Eff) (n : Nat) (kept : Option Eff) : Prop := Eff.clash a b = some n ∧ Eff.without a b = kept

/-- The one result in flight meets the new one and clashes with it: what the new one leaves of it stays. -/
theorem State.land_dualWritten {s : State} {slot : Slot} {due n : Nat} {old : Landing} {e : Eff} {kept : Option Eff}
    (hp : s.act.pend = [old]) (hm : old.meets (s.flight slot due e) = true) (hd : Eff.Dual old.eff e n kept) :
    s.DualWritten (s.land slot due e) (s.flight slot due e) n (kept.toList.map fun f => { old with eff := f }) := by
  obtain ⟨hc, hw⟩ : Eff.Dual old.eff (s.flight slot due e).eff n kept := hd
  have hdual : s.act.dualWrite (s.flight slot due e) = some n := by
    simp only [Ctx.dualWrite, hp, firstSome, hm, if_true, hc]
  have hk : (s.act.addLanding (s.flight slot due e)).pend =
      (kept.toList.map fun f => { old with eff := f }) ++ [s.flight slot due e] := by
    rw [Ctx.addLanding, hp]
    cases kept <;> simp [hm, hw]
  have hl : s.land slot due e = s.putLanding (s.flight slot due e) := rfl
  refine ⟨fun hchk => ?_, fun hchk ht => ?_⟩
  · rw [hl, State.putLanding]
    simp only [hdual, hchk, Bool.false_eq_true, if_false, State.act_onAct, Ctx.setCstat_pend, hk, true_and]
    rfl
  · rw [hl, State.putLanding]
    simp only [hdual, hchk, if_true]
    rw [State.raise_first s _ _ _ _ ht]
    exact ⟨by rw [State.act_onIss], by rw [State.iss_onIss]⟩

/-- A bundle's earlier result, of whatever no engine owns or of the C slot, meets a result of another slot (R102, R141). -/
theorem State.meets_flight {s : State} {slot : Slot} {due : Nat} {old : Landing} {e : Eff} (hs : old.seq = s.act.seq)
    (hn : old.slot ≠ slot) (h : old.eng = false ∨ old.slot = .c) : old.meets (s.flight slot due e) = true := by
  simp only [Landing.meets, State.flight, hs, hn, Bool.and_eq_true, Bool.or_eq_true, Bool.not_eq_true', decide_eq_true_eq,
    ne_eq, not_false_eq_true, true_and]
  exact h

/-- Does a list of cells name a key: as the statement of a dual write asks, and as `Eff.clash` asks. -/
theorem isSome_cellOf (k : List (Nat × Word)) (a : Nat) : (cellOf k a).isSome = k.any fun d => decide (d.1 = a) := by
  rw [Bool.eq_iff_iff, cellOf, Option.isSome_map, List.find?_isSome, List.any_eq_true]

/-- A list of cells does not name a key. -/
theorem isNone_cellOf (k : List (Nat × Word)) (a : Nat) : (cellOf k a).isNone = !(k.any fun d => decide (d.1 = a)) := by
  rw [← isSome_cellOf, Option.not_isSome]

/-- The first cell that meets a test gives what `firstSome` answers. -/
theorem firstSome_of_find? {α β : Type} {p : α → Bool} {g : α → β} {l : List α} {c : α} (h : l.find? p = some c) :
    firstSome (fun c => if p c then some (g c) else none) l = some (g c) := by
  induction l with
  | nil => cases h
  | cons a l ih =>
    cases hp : p a with
    | true =>
      rw [List.find?_cons_of_pos hp, Option.some.injEq] at h
      subst h
      simp only [firstSome, hp, if_true]
    | false =>
      rw [List.find?_cons_of_neg (by simp [hp])] at h
      simp only [firstSome, hp, Bool.false_eq_true, if_false, ih h]

/-- A scalar register written twice. -/
theorem Eff.dual_s (n : Nat) (x y : Word) : Eff.Dual (.s n x) (.s n y) n none := by simp [Eff.Dual, Eff.clash, Eff.without]

/-- A scalar predicate written twice. -/
theorem Eff.dual_sp (n : Nat) (x y : Bool) : Eff.Dual (.sp n x) (.sp n y) n none := by
  simp [Eff.Dual, Eff.clash, Eff.without]

/-- An address register written twice. -/
theorem Eff.dual_a (n : Nat) (x y : Word) : Eff.Dual (.a n x) (.a n y) n none := by simp [Eff.Dual, Eff.clash, Eff.without]

/-- A format entry written twice. -/
theorem Eff.dual_fmt (n : Nat) (x y : Word) : Eff.Dual (.fmt n x) (.fmt n y) n none := by
  simp [Eff.Dual, Eff.clash, Eff.without]

/-- An address delta written twice: the trap names its address register. -/
theorem Eff.dual_aut (n : Nat) (x y : BitVec 24) : Eff.Dual (.aut n x) (.aut n y) (n / 6) none := by
  simp [Eff.Dual, Eff.clash, Eff.without]

/-- An AMO's return overwrites a scalar result. -/
theorem Eff.dual_s_amo {n : Nat} (hn : n ≠ 0) (x : Word) (p op : Nat) (y k : Word) :
    Eff.Dual (.s n x) (.amo p op y k n) n none := by simp [Eff.Dual, Eff.clash, Eff.without, hn]

/-- A scalar result overwrites an AMO's return: the access stays. -/
theorem Eff.dual_amo_s {n : Nat} (hn : n ≠ 0) (x : Word) (p op : Nat) (y k : Word) :
    Eff.Dual (.amo p op y k n) (.s n x) n (some (.amo p op y k 0)) := by simp [Eff.Dual, Eff.clash, Eff.without, hn]

/-- Lanes of vector registers written twice. -/
theorem Eff.dual_v {l k : List (Nat × Word)} {c : Nat × Word} (h : (l.find? fun c => (cellOf k c.1).isSome) = some c) :
    Eff.Dual (.v l) (.v k) (c.1 / 16 % 768) (some (.v (l.filter fun c => (cellOf k c.1).isNone))) := by
  simp only [isSome_cellOf] at h
  exact ⟨firstSome_of_find? h, by simp only [Eff.without, isNone_cellOf]⟩

/-- Elements of matrix registers written twice. -/
theorem Eff.dual_m {l k : List (Nat × Word)} {c : Nat × Word} (h : (l.find? fun c => (cellOf k c.1).isSome) = some c) :
    Eff.Dual (.m l) (.m k) (c.1 / 4096) (some (.m (l.filter fun c => (cellOf k c.1).isNone))) := by
  simp only [isSome_cellOf] at h
  exact ⟨firstSome_of_find? h, by simp only [Eff.without, isNone_cellOf]⟩

/-- Predicate bits written twice. -/
theorem Eff.dual_p {l k : List (Nat × Bool)} {c : Nat × Bool}
    (h : (l.find? fun c => k.any fun d => decide (d.1 = c.1)) = some c) :
    Eff.Dual (.p l) (.p k) (c.1 / 16 % 16) (some (.p (l.filter fun c => !(k.any fun d => decide (d.1 = c.1))))) :=
  ⟨firstSome_of_find? h, rfl⟩

/-- Elements that a shutter's commit and a later slot write: the copy leaves them out (R141). -/
theorem Eff.dual_shut {h m : Nat} {drop : List Nat} {k : List (Nat × Word)}
    (hc : ∃ c ∈ k, c.1 / 4096 = m ∧ c.1 ∉ drop) : Eff.Dual (.shut h true m drop) (.m k) m (some (.shut h true m
      (drop ++ (k.map fun c => c.1).filter fun a => decide (a / 4096 = m) && !drop.contains a))) := by
  obtain ⟨c, hk, hcm, hcd⟩ := hc
  refine ⟨if_pos (List.any_eq_true.mpr ⟨c, hk, ?_⟩), rfl⟩
  simp [hcm, hcd]

/-- ADD with a true guard and a destination other than s0 puts its sum in flight (R21, R147). -/
theorem exec_add_of_holds {s : State} {g : SHead} {d a b : BitVec 6} (hg : g.holds s.act.regs = true) (hd : d ≠ 0#6) :
    exec (.add g d a b) s =
      .next (s.land g.slotOf (s.cycle + 1) (.s d.toNat (s.act.regs.readS a.toNat + s.act.regs.readS b.toNat))) := by
  have hn : d.toNat ≠ 0 := fun h => hd (BitVec.eq_of_toNat_eq h)
  have hx : exec (.add g d a b) s = scalarRR g 1 d a b (fun x y => x + y) s := rfl
  rw [hx, scalarRR, scalarOp, if_pos hg, State.landS, if_neg hn]

/-- Settles O9. What lands is what `Regs.apply` writes; each dual write is one clash of the one earlier result. -/
theorem scalarLandings : Obligations.ScalarLandings := by
  unfold Obligations.ScalarLandings
  refine ⟨⟨fun x cycle l hs hsp ha => ⟨fun n v h k => ?_, fun n v h k => ?_, fun n v h k => ?_⟩,
    fun x cycle l n v h hp hs => ⟨fun hd => Ctx.landAll_before hp hd, fun hd => ?_⟩⟩,
    fun s d a b due n x hd hp hn => ?_, fun s slot due old e hp hseq hslot => ?_⟩
  · rw [Ctx.landOne_regs_scalar x cycle l (.inl ⟨n, v, h⟩), h, Regs.readS_apply_s hs]
  · rw [Ctx.landOne_regs_scalar x cycle l (.inr (.inl ⟨n, v, h⟩)), h, Regs.readSp_apply_sp hsp]
  · rw [Ctx.landOne_regs_scalar x cycle l (.inr (.inr ⟨n, v, h⟩)), h, Regs.readA_apply_a ha]
  · obtain ⟨hpend, hregs⟩ := Ctx.landAll_due hp h hd
    exact ⟨hpend, by rw [hregs, h, Regs.readS_apply_s hs, if_pos rfl]⟩
  · subst hn
    have hx := exec_add_of_holds (s := s) (g := ⟨.s1, 0#3⟩) (a := a) (b := b) rfl hd
    have hw := State.land_dualWritten (slot := .s1) (due := s.cycle + 1) hp
      (State.meets_flight rfl Slot.noConfusion (.inl rfl))
      (Eff.dual_s d.toNat x (s.act.regs.readS a.toNat + s.act.regs.readS b.toNat))
    exact ⟨fun hchk => ⟨_, hx, hw.1 hchk⟩, fun hchk ht => ⟨_, hx, hw.2 hchk ht⟩⟩
  · have dual {a : Eff} {n : Nat} {kept : Option Eff} (hm : old.eng = false ∨ old.slot = .c) (ho : old.eff = a)
        (hd : Eff.Dual a e n kept) :=
      State.land_dualWritten (due := due) hp (State.meets_flight hseq hslot hm) (ho ▸ hd)
    refine ⟨fun heng => ⟨?_, ?_, ?_, ?_, ?_, ?_, ?_, ?_, ?_, ?_⟩, ?_⟩
    · rintro n x y ho rfl; exact dual (.inl heng) ho (Eff.dual_s n x y)
    · rintro n x y ho rfl; exact dual (.inl heng) ho (Eff.dual_sp n x y)
    · rintro n x y ho rfl; exact dual (.inl heng) ho (Eff.dual_a n x y)
    · rintro n x y ho rfl; exact dual (.inl heng) ho (Eff.dual_fmt n x y)
    · rintro n x y ho rfl; exact dual (.inl heng) ho (Eff.dual_aut n x y)
    · rintro n x p op y k hn ho rfl; exact dual (.inl heng) ho (Eff.dual_s_amo hn x p op y k)
    · rintro n x p op y k hn ho rfl; exact dual (.inl heng) ho (Eff.dual_amo_s hn x p op y k)
    · rintro l k c ho rfl hf; exact dual (.inl heng) ho (Eff.dual_v hf)
    · rintro l k c ho rfl hf; exact dual (.inl heng) ho (Eff.dual_m hf)
    · rintro l k c ho rfl hf; exact dual (.inl heng) ho (Eff.dual_p hf)
    · rintro h m drop k hs ho rfl hc; exact dual (.inr hs) ho (Eff.dual_shut hc)

end Sys2Proof.Machine
end

section
/-! SUPPORT. System registers (spec/01, spec/05): what SYSRD reads and SYSWR writes. -/

namespace Sys2Proof.Machine

/-! ## Values of the system registers (R27, R39, R40) -/

/-- The sum of the low bits of a number, each at its place, is the number's low part. -/
theorem foldl_testBit (x n : Nat) : (List.range n).foldl (fun w m => w + b2n (x.testBit m) * 2 ^ m) 0 = x % 2 ^ n := by
  induction n with
  | zero => simp [Nat.mod_one]
  | succ n ih =>
    have hb : b2n (x.testBit n) = x / 2 ^ n % 2 := by
      rw [← Nat.toNat_testBit]
      cases x.testBit n <;> rfl
    rw [List.range_succ, List.foldl_append, ih, Nat.mod_pow_succ, List.foldl_cons, List.foldl_nil, hb, Nat.mul_comm]

/-- A word is the word of its bits. -/
theorem bits32_getLsbD (w : Word) : (bits32 fun m => w.getLsbD m) = w := by
  have h := foldl_testBit w.toNat 32
  rw [Nat.mod_eq_of_lt w.isLt] at h
  exact (congrArg (BitVec.ofNat 32) h).trans ((BitVec.ofNat_toNat 32 w).trans (BitVec.setWidth_eq w))

/-- CORE_ID is PKG, the core's number and 17 zeros (R40). -/
theorem coreId_eq_append {core : Nat} (h : core < 512) : coreId core = Config.pkgNumber ++ BitVec.ofNat 9 core ++ 0#17 := by
  have hp := Config.pkgNumber.isLt
  apply BitVec.eq_of_toNat_eq
  rw [coreId, BitVec.toNat_append, BitVec.toNat_append, BitVec.toNat_ofNat, BitVec.toNat_ofNat, BitVec.toNat_ofNat,
    Nat.mod_eq_of_lt (show core < 2 ^ 9 from h), ← Nat.shiftLeft_add_eq_or_of_lt (show core < 2 ^ 9 from h),
    Nat.zero_mod, Nat.or_zero, Nat.shiftLeft_eq, Nat.shiftLeft_eq, Nat.mod_eq_of_lt (by omega)]
  omega

/-- The numbers that the model takes for system registers are those of R39. -/
theorem systemNumber_iff (r : Nat) : systemNumber r = true ↔ knownSystem r := by
  simp [systemNumber, knownSystem, or_assoc]

/-- While the drain status file has no changes on their way, its NAN bits read as they stand (R27). -/
theorem Ctx.readSystem_dnan {x : Ctx} (h : x.dlog = []) (core cycle : Nat) : x.readSystem core cycle 7 = x.dnan := by
  simp only [Ctx.readSystem, Ctx.drainAt, h, List.foldl_nil]
  exact bits32_getLsbD x.dnan

/-- While the drain status file has no changes on their way, its PEND bits read as they stand (R27). -/
theorem Ctx.readSystem_dpend {x : Ctx} (h : x.dlog = []) (core cycle : Nat) : x.readSystem core cycle 8 = x.dpend := by
  simp only [Ctx.readSystem, Ctx.drainAt, h, List.foldl_nil]
  exact bits32_getLsbD x.dpend

/-- A register that has a value is one of R39. -/
theorem State.knownSystem_of_systemValue {s : State} {r : Nat} {v : Word} (h : s.systemValue r = some v) : knownSystem r := by
  by_contra hk
  unfold knownSystem at hk
  simp only [State.systemValue, if_neg (show ¬ r = 0 by omega), if_neg (show ¬ r = 1 by omega),
    if_neg (show ¬ r = 2 by omega), if_neg (show ¬ r = 3 by omega), if_neg (show ¬ r = 4 by omega),
    if_neg (show ¬ r = 5 by omega), if_neg (show ¬ r = 6 by omega), if_neg (show ¬ r = 7 by omega),
    if_neg (show ¬ r = 8 by omega), if_neg (show ¬ (0x10 ≤ r ∧ r ≤ 0x17) by omega),
    if_neg (show ¬ (0x20 ≤ r ∧ r ≤ 0x2F) by omega)] at h
  cases h

/-- SYSRD reads the content of the register (R39, R142). -/
theorem State.readSystem_eq_systemValue {s : State} {r : Nat} {v : Word} (hc : s.cur < 512) (h : s.systemValue r = some v) :
    s.act.readSystem s.cur s.cycle r = v := by
  rcases State.knownSystem_of_systemValue h with hr | ⟨h10, h17⟩ | ⟨h20, h2F⟩
  · interval_cases r
    · exact (coreId_eq_append hc).trans (Option.some.inj h)
    iterate 6 exact Option.some.inj h
    · by_cases hd : s.act.dlog = []
      · exact (Ctx.readSystem_dnan hd _ _).trans (Option.some.inj (by simpa [State.systemValue, hd] using h))
      · simp [State.systemValue, hd] at h
    · by_cases hd : s.act.dlog = []
      · exact (Ctx.readSystem_dpend hd _ _).trans (Option.some.inj (by simpa [State.systemValue, hd] using h))
      · simp [State.systemValue, hd] at h
  · interval_cases r <;> exact Option.some.inj h
  · interval_cases r <;> exact Option.some.inj h

/-! ## SYSRD and SYSWR (R142) -/

/-- SYSRD with a true guard puts the value of a known register in flight. -/
theorem exec_sysrd_of_known {g : SGuard} {s : State} {n : BitVec 6} {r : BitVec 12} (hk : knownSystem r.toNat)
    (hg : g.holds s.act.regs = true) (hn : n ≠ 0#6) :
    exec (.sysrd g n r) s =
      .next (s.land .c (s.cycle + 2) (.s n.toNat (s.act.readSystem s.cur s.cycle r.toNat))) := by
  have hx : exec (.sysrd g n r) s = execSysrd g n r s := rfl
  have hn' : n.toNat ≠ 0 := fun h => hn (BitVec.eq_of_toNat_eq h)
  rw [hx, execSysrd, if_pos ((systemNumber_iff _).mpr hk), whenTrue, if_pos hg, State.landS, if_neg hn']

/-- SYSWR with a true guard puts the write of a known register in flight: of a format entry, or of another register. -/
theorem exec_syswr_of_known {g : SGuard} {s : State} {n : BitVec 6} {r : BitVec 12} (hk : knownSystem r.toNat)
    (hg : g.holds s.act.regs = true) :
    exec (.syswr g n r) s = .next (s.land .c (s.cycle + 1) (if 0x20 ≤ r.toNat then
      .fmt (r.toNat - 0x20) (s.act.regs.readS n.toNat) else .sysw r.toNat (s.act.regs.readS n.toNat))) := by
  have hx : exec (.syswr g n r) s = execSyswr g n r s := rfl
  rw [hx, execSyswr, if_pos ((systemNumber_iff _).mpr hk), whenTrue, if_pos hg]
  split <;> rfl

/-- An unknown number is an illegal operand of SYSRD and of SYSWR, whatever the guard (R81, R142). -/
theorem exec_system_of_unknown {g : SGuard} {s : State} {n : BitVec 6} {r : BitVec 12} (hk : ¬ knownSystem r.toNat) :
    exec (.sysrd g n r) s = .next s.badControl ∧ exec (.syswr g n r) s = .next s.badControl := by
  have hr : exec (.sysrd g n r) s = execSysrd g n r s := rfl
  have hw : exec (.syswr g n r) s = execSyswr g n r s := rfl
  have hf : ¬ systemNumber r.toNat = true := fun h => hk ((systemNumber_iff _).mp h)
  rw [hr, hw, execSysrd, execSyswr, if_neg hf, if_neg hf]
  exact ⟨rfl, rfl⟩

/-! ## FSTAT (R11, R40) -/

/-- With no flag raised in this cycle none is kept against a write. -/
theorem Ctx.freshBits_nil {x : Ctx} (h : x.fresh = []) (n : Nat) : x.freshBits n = 0#32 := by
  rw [Ctx.freshBits, h, List.foldl_nil]

/-- The W1C bits of FSTAT. -/
theorem getLsbD_fstatFlags : ∀ k < 32, fstatFlags.getLsbD k = decide (k < 5 ∨ k = 14 ∨ k = 15) := by decide

/-- The RW bits of FSTAT. -/
theorem getLsbD_fstatEnables : ∀ k < 32, fstatEnables.getLsbD k = decide (5 ≤ k ∧ k < 11) := by decide

/-- FSTATn after a write, bit by bit: flags clear where the word holds 1, enables take the word, the rest is zero. -/
theorem Ctx.getLsbD_writeFstat {x : Ctx} (hf : x.fresh = []) (hx : Store.wf 0#32 x.fstat = true) (n : Nat) (w : Word) {k : Nat}
    (hk : k < 32) : ((x.writeFstat n w).fstatOf n).getLsbD k =
      if k < 5 ∨ k = 14 ∨ k = 15 then (x.fstatOf n).getLsbD k && !w.getLsbD k
      else if k < 11 then w.getLsbD k else false := by
  have hw : (x.writeFstat n w).fstatOf n = (x.fstatOf n &&& fstatFlags &&& ~~~ w) ||| (w &&& fstatEnables) := by
    simp only [Ctx.writeFstat, Ctx.fstatOf, Store.get_set_same hx, Ctx.freshBits_nil hf, BitVec.zero_and, BitVec.or_zero]
  simp only [hw, BitVec.getLsbD_or, BitVec.getLsbD_and, BitVec.getLsbD_not, getLsbD_fstatFlags k hk, getLsbD_fstatEnables k hk,
    hk, decide_true, Bool.true_and]
  by_cases h1 : k < 5 ∨ k = 14 ∨ k = 15
  · have h2 : ¬ (5 ≤ k ∧ k < 11) := by omega
    simp [h1, h2]
  · by_cases h2 : k < 11
    · have h3 : 5 ≤ k := by omega
      simp [h1, h2, h3]
    · simp [h1, h2]

/-- A write of one FSTAT leaves the others. -/
theorem Ctx.fstatOf_writeFstat_ne {x : Ctx} (hx : Store.wf 0#32 x.fstat = true) {n j : Nat} (w : Word) (hj : j ≠ n) :
    (x.writeFstat n w).fstatOf j = x.fstatOf j := Store.get_set_ne hx _ hj

/-! ## What a SYSWR does when it is seen (R11, R39, R40) -/

/-- A W1C register: bits of CSTAT clear where the word holds 1. -/
theorem Ctx.writeSystem_cstat {x : Ctx} (hf : x.fresh = []) (w : Word) : (x.writeSystem 4 w).cstat = x.cstat &&& ~~~w := by
  simp only [Ctx.writeSystem, if_true, Ctx.freshBits_nil hf, BitVec.or_zero]

/-- A read-only register and an unassigned number ignore the write. -/
theorem Ctx.writeSystem_readOnly (x : Ctx) {r : Nat} (w : Word) (h : r < 4 ∨ r = 5 ∨ r = 7 ∨ r = 8) :
    x.writeSystem r w = x := by
  rw [Ctx.writeSystem, if_neg (by omega), if_neg (by omega), if_neg (by omega), if_neg (by omega)]

/-- The write of FSTATn is `Ctx.writeFstat`. -/
theorem Ctx.writeSystem_fstat (x : Ctx) {r : Nat} (w : Word) (h : 0x10 ≤ r) (h' : r ≤ 0x17) :
    x.writeSystem r w = x.writeFstat (r - 0x10) w := by
  rw [Ctx.writeSystem, if_neg (by omega), if_neg (by omega), if_pos ⟨h, h'⟩]

/-- No system register is one of the registers a rollback restores. -/
@[simp] theorem Ctx.writeSystem_regs (x : Ctx) (r : Nat) (w : Word) : (x.writeSystem r w).regs = x.regs := by
  unfold Ctx.writeSystem
  split_ifs <;> rfl

/-- A mask of the upper half-word takes the lower one away. -/
theorem and_upper_half (w : Word) : w &&& 0xFFFF0000#32 = (w >>> 16) <<< 16 := by
  apply BitVec.eq_of_getLsbD_eq
  intro i hi
  have hm : ∀ i < 32, (0xFFFF0000#32).getLsbD i = decide (16 ≤ i) := by decide
  rw [BitVec.getLsbD_and, hm i hi, BitVec.getLsbD_shiftLeft, BitVec.getLsbD_ushiftRight]
  by_cases h : 16 ≤ i
  · simp [h, hi, show ¬ i < 16 by omega, show 16 + (i - 16) = i by omega]
  · simp [h, show i < 16 by omega]

/-- Settles O35: each clause is the instruction's own equation, or the landing of its write register by register. -/
theorem systemRegisters : Obligations.SystemRegisters := by
  unfold Obligations.SystemRegisters
  refine ⟨fun g s n r v hg hcur hv hn hclear => ?_, fun g s n r hg hk => ?_, fun g s n r hk ht => ?_,
    fun x cycle l r w hl hf hx => ?_, fun x cycle l e w hl hx k => ?_⟩
  · rw [exec_sysrd_of_known (State.knownSystem_of_systemValue hv) hg hn, State.readSystem_eq_systemValue hcur hv,
      State.land_clear s _ _ _ hclear]
  · intro w e hclear
    rw [exec_syswr_of_known hk hg, State.land_clear s _ _ _ hclear]
  · obtain ⟨hr, hw⟩ := exec_system_of_unknown (g := g) (s := s) (n := n) hk
    rw [hr, hw, State.badControl, State.raise_first s _ _ _ _ ht]
    exact ⟨rfl, rfl⟩
  · have hy : x.landOne cycle l = x.writeSystem r w := by simp only [Ctx.landOne, hl]
    rw [hy]
    refine ⟨?_, ?_, fun h h' k hk => ?_, fun h => Ctx.writeSystem_readOnly x w h, Ctx.writeSystem_regs x r w⟩
    · rintro rfl; exact Ctx.writeSystem_cstat hf w
    · rintro rfl; rfl
    · rw [Ctx.writeSystem_fstat x w h h']
      exact Ctx.getLsbD_writeFstat hf hx _ w hk
  · have hy : (x.landOne cycle l).fmt = Store.set 0#32 x.fmt e (w &&& 0xFFFF0000#32) := by simp only [Ctx.landOne, hl]
    rw [hy, Store.get_set hx, and_upper_half]

end Sys2Proof.Machine
end

section
/-! SUPPORT. The registers of the control windows (spec/01, spec/10, spec/17 to spec/20): what a write puts into a
register, and what a read of each register finds afterwards. -/

namespace Sys2Proof.Machine

/-! ## What changes in one core or one die alone -/

/-- A change of one core is a change of that core only. -/
theorem State.onlyCore_setCore (s : State) (n : Nat) (c : Core) : s.onlyCore (s.setCore n c) n :=
  ⟨rfl, fun _ h => State.core_setCore_ne s c h, rfl, rfl, rfl, rfl, rfl, rfl, rfl, rfl, rfl, rfl⟩

/-- A change of one die is a change of that die only. -/
theorem State.onlyDie_onDie (s : State) (d : Nat) (f : Die → Die) : s.onlyDie (s.onDie d f) d :=
  ⟨rfl, rfl, fun _ h => State.die_onDie_ne s f h, rfl, rfl, rfl, rfl, rfl, rfl, rfl, rfl, rfl, rfl, rfl, rfl⟩

/-- No change is a change of one die only. -/
theorem State.onlyDie_refl (s : State) (d : Nat) : s.onlyDie s d :=
  ⟨rfl, rfl, fun _ _ => rfl, rfl, rfl, rfl, rfl, rfl, rfl, rfl, rfl, rfl, rfl, rfl, rfl⟩

/-- A step that completes answers the state it leaves. -/
theorem next_stateOf {s : State} {o : Out} (h : Completes o) : .next (stateOf s o) = o := by
  obtain ⟨t, rfl⟩ := h
  rfl

/-! ## Fields of a word -/

/-- A mask that holds the whole of a field leaves the field. -/
theorem field_and_mask {x c lo n : Nat} (hc : field c lo n = 2 ^ n - 1) : field (x &&& c) lo n = field x lo n := by
  unfold field at *
  rw [Nat.and_div_two_pow, Nat.and_mod_two_pow, hc, Nat.and_two_pow_sub_one_eq_mod, Nat.mod_mod]

/-- The number of a word whose low half-word is masked away. -/
theorem toNat_and_upper_half (w : Word) : (w &&& 0xFFFF0000#32).toNat = w.toNat / 65536 * 65536 := by
  have h := w.isLt
  rw [and_upper_half, BitVec.toNat_shiftLeft, BitVec.toNat_ushiftRight, Nat.shiftRight_eq_div_pow, Nat.shiftLeft_eq]
  omega

/-- The number of a word of which the low `n` bits are kept. -/
theorem toNat_and_low {w c : Word} {n : Nat} (hc : c.toNat = 2 ^ n - 1) : (w &&& c).toNat = w.toNat % 2 ^ n := by
  rw [BitVec.toNat_and, hc, Nat.and_two_pow_sub_one_eq_mod]

/-- A register's word holds a number below 2^32. -/
theorem toNat_w32 {n : Nat} (h : n < 2 ^ 32) : (w32 n).toNat = n := by
  rw [w32, BitVec.toNat_ofNat, Nat.mod_eq_of_lt h]

/-! ## The block of a core (R239) -/

section block

variable {core off : Nat}

/-- The block of a core lies in the control window of its die, where no other register lies. -/
theorem blockAt_range (h : off < 0x100) : 0x10000 ≤ blockAt core off ∧ blockAt core off < 0x12000 := by
  unfold blockAt; omega

/-- The offset within its die's window gives the core back. -/
theorem blockAt_core (h : off < 0x100) : 32 * (core / 32) + (blockAt core off - 0x10000) / 0x100 = core := by
  unfold blockAt; omega

/-- The offset within its die's window gives the offset within the block back. -/
theorem blockAt_mod (h : off < 0x100) : blockAt core off % 0x100 = off := by
  unfold blockAt; omega

/-- A read of a core's block. -/
theorem State.readRegister_blockAt (s : State) (h : off < 0x100) :
    s.readRegister (core / 32) (blockAt core off) = (s.core core).readBlock off := by
  have hr := blockAt_range (core := core) h
  unfold State.readRegister
  iterate 20 rw [if_neg (show blockAt core off ≠ _ by omega)]
  rw [if_pos hr, blockAt_core h, blockAt_mod h]

/-- A write of a core's block. -/
theorem State.writeRegister_blockAt (s : State) (w : Word) (h : off < 0x100) (h4 : off % 4 = 0) :
    s.writeRegister (core / 32) (blockAt core off) w = s.writeBlock core off w := by
  have hr := blockAt_range (core := core) h
  have h4' : ¬ blockAt core off % 4 ≠ 0 := by unfold blockAt; omega
  unfold State.writeRegister
  rw [if_neg h4']
  iterate 10 rw [if_neg (show blockAt core off ≠ _ by omega)]
  rw [if_pos hr, blockAt_core h, blockAt_mod h]

/-- Firmware's write of a register of a die that exists. -/
theorem exec_registerWrite_firmware {die : Nat} (hd : die < 16) (off : Nat) (w : Word) (s : State) :
    exec (.registerWrite .firmware die off w) s = .next (s.writeRegister die off w) := by
  have hx : exec (.registerWrite .firmware die off w) s = execRegisterWrite .firmware die off w s := rfl
  rw [hx, execRegisterWrite, if_neg (by omega)]

/-- Firmware's write of a core's block. -/
theorem exec_registerWrite_blockAt (hc : core < 512) (h : off < 0x100) (h4 : off % 4 = 0) (w : Word) (s : State) :
    exec (.registerWrite .firmware (core / 32) (blockAt core off) w) s = .next (s.writeBlock core off w) := by
  rw [exec_registerWrite_firmware (by omega), State.writeRegister_blockAt s w h h4]

end block

/-- What a change of a core that exists answers. -/
theorem onCoreBlock_next {core : Nat} (h : core < 512) (s : State) (f : Core → Core) :
    onCoreBlock core s f = .next (s.onCore core f) := by
  rw [onCoreBlock, ofCore, if_neg (by omega)]

/-- CSTATE of a core's block: HELD, RUN and zeros (R239). -/
theorem readBlock_cstate (c : Core) : ((c.readBlock 0x48).getLsbD 0 = c.act.held ∧
    (c.readBlock 0x48).getLsbD 1 = c.act.task.isSome ∧ (c.readBlock 0x48).toNat < 4) := by
  have h : c.readBlock 0x48 = w32 (b2n c.act.held + 2 * b2n c.act.task.isSome) := rfl
  rw [h]
  cases c.act.held <;> cases c.act.task.isSome <;> decide

/-- TRAP2 of a core's block: HELD, POST and the mark's PC (R237, R239). -/
theorem toNat_readBlock_trap2 (c : Core) :
    (c.readBlock 8).toNat = b2n c.act.held * 2 ^ 31 + b2n c.trapPost * 2 ^ 30 + c.mpc % 2 ^ 15 := by
  have hb (b : Bool) : b2n b ≤ 1 := by cases b <;> decide
  have h1 := hb c.act.held
  have h2 := hb c.trapPost
  exact toNat_w32 (by omega)

/-- FSTATn of a core's block (R239). -/
theorem readBlock_fstat (c : Core) {n : Nat} (hn : n < 8) : c.readBlock (0x20 + 4 * n) = c.act.fstatOf n := by
  unfold Core.readBlock
  iterate 6 rw [if_neg (by omega)]
  rw [if_pos (by omega)]
  congr 1
  omega

/-- CWIN is written when its condition holds, and left when it does not (R40, R224). -/
theorem exec_cwinWrite {core : Nat} (h : core < 512) (w : Word) (s : State) :
    let c := s.core core
    exec (.cwinWrite core w) s = .next (s.setCore core
      (if (c.act.held = true ∨ c.act.task = none) ∧ field w.toNat 0 11 + field w.toNat 16 12 ≤ 2048 then
        { c with act := { c.act with codeWin := w &&& 0x0FFF07FF#32 } } else c)) := by
  intro c
  have hx : exec (.cwinWrite core w) s = execCwinWrite core w s := rfl
  rw [hx, execCwinWrite, onCoreBlock_next h, State.onCore]
  simp only [BitVec.toNat_and, Bool.and_eq_true, Bool.or_eq_true, Option.isNone_iff_eq_none, decide_eq_true_eq]
  rw [field_and_mask (c := BitVec.toNat 0x0FFF07FF#32) (lo := 0) rfl,
    field_and_mask (c := BitVec.toNat 0x0FFF07FF#32) (lo := 16) rfl]

/-- CPART is written when its condition holds, and left when it does not (R31, R239). -/
theorem exec_cpartWrite {core : Nat} (h : core < 512) (w : Word) (s : State) :
    let c := s.core core
    let v := w &&& 0xFFFF0000#32
    exec (.cpartWrite core w) s = .next (s.setCore core
      (if c.act.task = none ∧ c.shadow.task = none ∧ partitionOk v.toNat = true then
        { c with act := { c.act with partition := v } } else c)) := by
  intro c v
  have hx : exec (.cpartWrite core w) s = execCpartWrite core w s := rfl
  rw [hx, execCpartWrite, onCoreBlock_next h, State.onCore]
  simp only [Bool.and_eq_true, Option.isNone_iff_eq_none, and_assoc]
  rfl

/-- CFSTAT is written while the core is held (R239). -/
theorem exec_cfstatWrite {core : Nat} (h : core < 512) (n : BitVec 3) (w : Word) (s : State) :
    let c := s.core core
    exec (.cfstatWrite core n w) s = .next (s.setCore core
      (if c.act.held = true then { c with act := c.act.writeFstat n.toNat w } else c)) := by
  intro c
  have hx : exec (.cfstatWrite core n w) s = execCfstatWrite core n w s := rfl
  rw [hx, execCfstatWrite, onCoreBlock_next h, State.onCore]

/-- What firmware does to a core through CCMD always completes. -/
theorem completes_taskKill {core : Nat} (h : core < 512) (s : State) : Completes (exec (.taskKill core) s) := by
  have hx : exec (.taskKill core) s = execTaskKill core s := rfl
  rw [hx, execTaskKill, if_neg (by omega)]
  dsimp only
  split
  · exact ⟨_, rfl⟩
  · split <;> exact ⟨_, rfl⟩

/-! ## SPDAT (R34, R239, R246) -/

/-- SPDAT reaches the word that SPADR names while the core is held and the word lies in the window. -/
theorem Core.spAddr_of_held {c : Core} (hh : c.act.held = true) (hw : c.spadr.toNat / 4 * 4 + 4 ≤ c.act.window) :
    c.spAddr = some (c.act.poolAddr (c.spadr.toNat / 4 * 4)) := by
  simp [Core.spAddr, Ctx.inWindow, hh, hw]

/-- SPDAT reaches nothing while the core is not held, or when the word leaves the window. -/
theorem Core.spAddr_eq_none {c : Core} (h : c.act.held = false ∨ c.act.window < c.spadr.toNat / 4 * 4 + 4) :
    c.spAddr = none := by
  rcases h with h | h
  · simp [Core.spAddr, h]
  · simp [Core.spAddr, Ctx.inWindow, h]

/-- With its bank quiet an SPDAT access is served by the direct port. -/
theorem Core.seekWord_of_quiet {c : Core} (h : c.quiet) (cycle p : Nat) (write : Option Word) :
    c.seekWord cycle p write = (true, c.serve (rowOf p) false) := by
  obtain ⟨hacc, hdone, hbusy, hports, hres⟩ := h
  simp [Core.seekWord, Core.seek, hacc, hdone, hports, hres, hbusy, Core.inPane, Core.directFree, Core.portHeld, Queued.row]

/-- An access that joins a busy bank outside its window waits: nothing but the queue changes. -/
theorem Core.joinServe_waits {c : Core} {cycle : Nat}
    (h : ∀ r, c.pane.run = some r → cycle < r.window ∨ r.windowEnd ≤ cycle)
    (q : Queued) : (c.joinServe cycle q).1 = false ∧ (c.joinServe cycle q).2.pool = c.pool ∧
      (c.joinServe cycle q).2.late = c.late := by
  have hj : (c.join q).pane.run = c.pane.run ∧ (c.join q).pool = c.pool ∧ (c.join q).late = c.late := by
    unfold Core.join
    dsimp only
    split <;> exact ⟨rfl, rfl, rfl⟩
  obtain ⟨hrun, hpool, hlate⟩ := hj
  have hw : (c.join q).windowFree cycle (rowBank q.row) = false := by
    unfold Core.windowFree
    rw [hrun]
    cases hr : c.pane.run with
    | none => simp
    | some r =>
      have hnot : (decide (r.window ≤ cycle) && decide (cycle < r.windowEnd)) = false := by
        rcases h r hr with h | h <;> simp [h]
      simp only [hnot, Bool.and_false]
  simp [Core.joinServe, hw, hpool, hlate]

/-- While its bank is in pane mode outside a window, or its direct port is taken, an SPDAT access waits. -/
theorem Core.seekWord_waits {c : Core} {cycle p : Nat} (hd : c.pane.done = [])
    (hr : ∀ r, c.pane.run = some r → cycle < r.window ∨ r.windowEnd ≤ cycle)
    (hb : c.pane.busy = some (p / 32768) ∨ ∃ q ∈ c.ports, q.1 = p / 32768 ∧ q.2.2 = false) (write : Option Word) :
    (c.seekWord cycle p write).1 = false ∧ (c.seekWord cycle p write).2.pool = c.pool ∧
      (c.seekWord cycle p write).2.late = c.late := by
  have hbank : rowBank (rowOf p) = p / 32768 := by unfold rowBank rowOf; omega
  unfold Core.seekWord Core.seek
  simp only [hd, List.contains_nil, Bool.false_eq_true, if_false, Bool.false_and, Queued.row, hbank]
  split
  · exact ⟨rfl, rfl, rfl⟩
  · split
    · exact Core.joinServe_waits hr _
    · next hpane =>
      have hfree : c.directFree (p / 32768) cycle = false := by
        rcases hb with hb | ⟨q, hq, hq1, hq2⟩
        · exact absurd (decide_eq_true hb) hpane
        · have : (c.ports.any fun e => decide (e.1 = p / 32768) && !e.2.2) = true :=
            List.any_eq_true.mpr ⟨q, hq, by simp [hq1, hq2]⟩
          simp [Core.directFree, this]
      rw [hfree]
      exact ⟨rfl, rfl, rfl⟩

end Sys2Proof.Machine
end

section
/-! SUPPORT. Writes of the control windows by offset (R11, R12, R288, R334, R340, R342, R349), and who makes them. -/

namespace Sys2Proof.Machine

/-! ## What a register of any die reads -/

/-- What the registers that a die's controller holds itself read, by offset; none at the other offsets. -/
def Die.word (d : Die) (off : Nat) : Option Word :=
  let f : FaultRec := d.faults.headD ⟨0#32, 0#32, 0#32, 0#32⟩
  if off = 0x100 then some d.tlbva0
  else if off = 0x104 then some d.tlbva1
  else if off = 0x108 then some d.tlbn
  else if off = 0x10C then some d.tlbtab
  else if off = 0x110 then some (w32 (b2n d.inval.isSome * 2 ^ 31 + b2n d.tlbErr * 2 ^ 30 + d.tlbAsid * 4 + d.tlbOp))
  else if off = 0x120 then some (w32 (b2n d.tlost * 128 + d.faults.length))
  else if off = 0x124 then some f.flt0
  else if off = 0x128 then some f.flt1
  else if off = 0x12C then some f.flt2
  else if off = 0x130 then some f.flt3
  else if off = 0x134 then some d.fltact
  else if off = 0x300 then some (w32 (d.stage * 2 ^ 28 + b2n d.fail * 2 ^ 27))
  else if off = 0x400 then some (w32 d.pwrcap)
  else if off = 0x404 then some (w32 d.diecap)
  else if off = 0x408 then some (w32 d.tcap)
  else if off = 0x40C then some (w32 d.temp)
  else if off = 0x410 then some (w32 d.power)
  else if off = 0x414 then some (w32 d.stops)
  else if off = 0x418 then some (w32 d.eccc)
  else if off = 0x600 then some (w32 d.wtfull)
  else none

/-- The default is what an alternative that answers does not need. -/
theorem getD_ite_some {α : Type} (c : Prop) [Decidable c] (x : α) (o : Option α) (y : α) :
    (if c then some x else o).getD y = if c then x else o.getD y := by
  split <;> rfl

/-- What a read of the control window finds: a word of the die's controller, a core's block, or the lead die's registers. -/
theorem State.readRegister_eq (s : State) (die off : Nat) : s.readRegister die off =
    ((s.die die).word off).getD (if 0x10000 ≤ off ∧ off < 0x12000 then
      (s.core (32 * die + (off - 0x10000) / 0x100)).readBlock (off % 0x100) else if die = 0 then s.readLead off else 0#32) := by
  unfold State.readRegister Die.word
  simp only [getD_ite_some, Option.getD_none]

/-- A change of a die that leaves the word of a register leaves what is read there. -/
theorem State.readRegister_onDie {s : State} {die off : Nat} {f : Die → Die}
    (h : (f (s.die die)).word off = (s.die die).word off) : (s.onDie die f).readRegister die off = s.readRegister die off := by
  rw [State.readRegister_eq, State.readRegister_eq, State.die_onDie, h]
  rfl

/-- A change of a die that gives a register a word is read there. -/
theorem State.readRegister_onDie_some {s : State} {die off : Nat} {f : Die → Die} {w : Word}
    (h : (f (s.die die)).word off = some w) : (s.onDie die f).readRegister die off = w := by
  rw [State.readRegister_eq, State.die_onDie, h, Option.getD_some]

/-- Where dies and cores are the same, and so is what the lead die reads at an offset, the lead die's window reads the same. -/
theorem State.readRegister_of_lead {s t : State} {off : Nat} (hd : t.dies = s.dies) (hc : t.cores = s.cores)
    (hl : t.readLead off = s.readLead off) : t.readRegister 0 off = s.readRegister 0 off := by
  have hdie : t.die 0 = s.die 0 := congrArg (fun l => Store.get Die.reset l 0) hd
  have hcore (n : Nat) : t.core n = s.core n := congrArg (fun l => Store.get Core.reset l n) hc
  simp only [State.readRegister_eq, hdie, hcore, hl]

/-! ## Registers of every die: a change of one field is read at one offset -/

section die

variable (d : Die) (w : Word) (n : Nat) {off : Nat}

/-- TLBVA0 is read at its own offset only. -/
theorem Die.word_tlbva0 (h : off ≠ 0x100) : ({ d with tlbva0 := w } : Die).word off = d.word off := by
  simp only [Die.word, if_neg h]

/-- TLBVA1 is read at its own offset only. -/
theorem Die.word_tlbva1 (h : off ≠ 0x104) : ({ d with tlbva1 := w } : Die).word off = d.word off := by
  simp only [Die.word, if_neg h]

/-- TLBN is read at its own offset only. -/
theorem Die.word_tlbn (h : off ≠ 0x108) : ({ d with tlbn := w } : Die).word off = d.word off := by
  simp only [Die.word, if_neg h]

/-- TLBTAB is read at its own offset only. -/
theorem Die.word_tlbtab (h : off ≠ 0x10C) : ({ d with tlbtab := w } : Die).word off = d.word off := by
  simp only [Die.word, if_neg h]

/-- PWRCAP is read at its own offset only. -/
theorem Die.word_pwrcap (h : off ≠ 0x400) : ({ d with pwrcap := n } : Die).word off = d.word off := by
  simp only [Die.word, if_neg h]

/-- DIECAP is read at its own offset only. -/
theorem Die.word_diecap (h : off ≠ 0x404) : ({ d with diecap := n } : Die).word off = d.word off := by
  simp only [Die.word, if_neg h]

/-- TCAP is read at its own offset only. -/
theorem Die.word_tcap (h : off ≠ 0x408) : ({ d with tcap := n } : Die).word off = d.word off := by
  simp only [Die.word, if_neg h]

/-- TEMP is read at its own offset only. -/
theorem Die.word_temp (h : off ≠ 0x40C) : ({ d with temp := n } : Die).word off = d.word off := by
  simp only [Die.word, if_neg h]

/-- POWER is read at its own offset only. -/
theorem Die.word_power (h : off ≠ 0x410) : ({ d with power := n } : Die).word off = d.word off := by
  simp only [Die.word, if_neg h]

end die

/-- The lowest field of a number. -/
theorem field_zero (x n : Nat) : field x 0 n = x % 2 ^ n := by rw [field, pow_zero, Nat.div_one]

/-- What a power or temperature limit reads after a write: the field, or the bound it may not pass (R349). -/
theorem toNat_w32_min_field (w : Word) {n c : Nat} (hc : c < 2 ^ 32) :
    (w32 (min (field w.toNat 0 n) c)).toNat = min (w.toNat % 2 ^ n) c := by
  rw [field_zero, toNat_w32 (Nat.lt_of_le_of_lt (Nat.min_le_right _ _) hc)]

/-- Firmware's write that changes one die: the register reads its new word, another register what it read. -/
theorem exec_registerWrite_onDie {s : State} {die off off' x : Nat} {w v : Word} {f : Die → Die} (hd : die < 16)
    (hwr : s.writeRegister die off w = s.onDie die f) (hv : (f (s.die die)).word off = some v) (hx : v.toNat = x)
    (hn : (f (s.die die)).word off' = (s.die die).word off') :
    ∃ t, exec (.registerWrite .firmware die off w) s = .next t ∧ s.onlyDie t die ∧ (t.readRegister die off).toNat = x ∧
      t.readRegister die off' = s.readRegister die off' :=
  ⟨s.onDie die f, by rw [exec_registerWrite_firmware hd, hwr], State.onlyDie_onDie s die f,
    by rw [State.readRegister_onDie_some hv, hx], State.readRegister_onDie hn⟩

/-- Firmware's write of a register of any die's TLB commands or limits (R334, R349): what it reads, and every other as it
was. -/
theorem exec_registerWrite_die {s : State} {die off off' : Nat} {w : Word} (hd : die < 16) (hne : off' ≠ off)
    (h : off ∈ [0x100, 0x104, 0x108, 0x10C, 0x400, 0x404, 0x408]) :
    ∃ t, exec (.registerWrite .firmware die off w) s = .next t ∧ s.onlyDie t die ∧
      (t.readRegister die off).toNat = (match off with
        | 0x100 => w.toNat / 65536 * 65536
        | 0x104 => w.toNat % 2 ^ 20
        | 0x108 => w.toNat % 2 ^ 25
        | 0x10C => w.toNat
        | 0x400 => min (w.toNat % 4096) 3200
        | 0x404 => min (w.toNat % 256) 150
        | _ => min (w.toNat % 128) 105) ∧
      t.readRegister die off' = s.readRegister die off' := by
  simp only [List.mem_cons, List.not_mem_nil, or_false] at h
  rcases h with rfl | rfl | rfl | rfl | rfl | rfl | rfl
  · exact exec_registerWrite_onDie (f := fun d => { d with tlbva0 := w &&& 0xFFFF0000#32 })
      hd rfl rfl (toNat_and_upper_half w) (Die.word_tlbva0 (s.die die) _ hne)
  · exact exec_registerWrite_onDie (f := fun d => { d with tlbva1 := w &&& 0x000FFFFF#32 })
      hd rfl rfl (toNat_and_low (n := 20) rfl) (Die.word_tlbva1 (s.die die) _ hne)
  · exact exec_registerWrite_onDie (f := fun d => { d with tlbn := w &&& 0x01FFFFFF#32 })
      hd rfl rfl (toNat_and_low (n := 25) rfl) (Die.word_tlbn (s.die die) _ hne)
  · exact exec_registerWrite_onDie (f := fun d => { d with tlbtab := w }) hd rfl rfl rfl (Die.word_tlbtab (s.die die) _ hne)
  · exact exec_registerWrite_onDie (f := fun d => { d with pwrcap := min (field w.toNat 0 12) 3200 })
      hd rfl rfl (toNat_w32_min_field w (n := 12) (c := 3200) (by decide)) (Die.word_pwrcap (s.die die) _ hne)
  · exact exec_registerWrite_onDie (f := fun d => { d with diecap := min (field w.toNat 0 8) 150 })
      hd rfl rfl (toNat_w32_min_field w (n := 8) (c := 150) (by decide)) (Die.word_diecap (s.die die) _ hne)
  · exact exec_registerWrite_onDie (f := fun d => { d with tcap := min (field w.toNat 0 7) 105 })
      hd rfl rfl (toNat_w32_min_field w (n := 7) (c := 105) (by decide)) (Die.word_tcap (s.die die) _ hne)

/-! ## Registers of the lead die -/

/-- A change of the distributor changes nothing of cores and memories. -/
theorem State.noMemory_onDist (s : State) (f : Distributor → Distributor) : s.noMemory (s.onDist f) :=
  ⟨rfl, rfl, rfl, rfl, rfl, rfl, rfl, rfl, rfl⟩

/-- FRAMELEN is read at its own offset only. -/
theorem State.readLead_framelen (s : State) (n : Nat) {off : Nat} (h : off ≠ 4) :
    (s.onDist fun d => { d with framelen := n }).readLead off = s.readLead off := by
  unfold State.readLead
  simp only [if_neg h]
  rfl

/-- A RUNMAX register is read at its own offset only. -/
theorem State.readLead_runmax {s : State} (hr : Store.wf 0 s.dist.runmax = true) (n : Nat) {k off : Nat}
    (h : ¬ (0x10 ≤ off ∧ off ≤ 0x18 ∧ (off - 0x10) / 4 = k)) :
    (s.onDist fun d => { d with runmax := Store.set 0 d.runmax k n }).readLead off = s.readLead off := by
  have hget : 0x10 ≤ off ∧ off ≤ 0x18 →
      Store.get 0 (Store.set 0 s.dist.runmax k n) ((off - 0x10) / 4) = Store.get 0 s.dist.runmax ((off - 0x10) / 4) :=
    fun ho => Store.get_set_ne hr n fun hk => h ⟨ho.1, ho.2, hk⟩
  unfold State.readLead
  by_cases ho : 0x10 ≤ off ∧ off ≤ 0x18
  · simp only [show off ≠ 0 by omega, show off ≠ 4 by omega, show off ≠ 8 by omega, show off ≠ 0xC by omega, if_false,
      if_pos ho]
    exact congrArg (fun x => w32 (2 ^ 32 - 1 - x)) (hget ho)
  · simp only [if_neg ho]
    rfl

/-- HWBASE is read at its own offset only. -/
theorem State.readLead_hwbase (s : State) (w : Word) (l : List Nat) {off : Nat} (h : off ≠ 0x200) :
    State.readLead { s with hwbase := w, setNow := l } off = s.readLead off := by
  simp only [State.readLead, if_neg h]

/-- HASID is read at its own offset only. -/
theorem State.readLead_hasid (s : State) (w : Word) (l : List Nat) {off : Nat} (h : off ≠ 0x204) :
    State.readLead { s with hasid := w, setNow := l } off = s.readLead off := by
  simp only [State.readLead, if_neg h]

/-- HSTAT is read at its own offset only. -/
theorem State.readLead_hstat (s : State) (w : Word) {off : Nat} (h : off ≠ 0x208) :
    State.readLead { s with hstat := w } off = s.readLead off := by
  simp only [State.readLead, if_neg h]

/-- Firmware's write of a register of the lead die: the register reads its new number, another what it read. -/
theorem exec_registerWrite_of_lead {s t : State} {off off' x : Nat} {w : Word} (hwr : s.writeRegister 0 off w = t)
    (hm : s.noMemory t) (hd : t.dies = s.dies) (hx : (t.readRegister 0 off).toNat = x)
    (hn : t.readLead off' = s.readLead off') :
    ∃ t, exec (.registerWrite .firmware 0 off w) s = .next t ∧ s.noMemory t ∧ t.dies = s.dies ∧
      (t.readRegister 0 off).toNat = x ∧ t.readRegister 0 off' = s.readRegister 0 off' :=
  ⟨t, by rw [exec_registerWrite_firmware (by decide), hwr], hm, hd, hx, State.readRegister_of_lead hd hm.2.1 hn⟩

/-- Firmware's write of RUNMAX k. -/
theorem exec_registerWrite_runmax {s : State} {k off' : Nat} {w : Word} (hk : k < 3)
    (hr : Store.wf 0 s.dist.runmax = true) (hne : off' ≠ 0x10 + 4 * k) (h4 : off' % 4 = 0) :
    ∃ t, exec (.registerWrite .firmware 0 (0x10 + 4 * k) w) s = .next t ∧ s.noMemory t ∧ t.dies = s.dies ∧
      (t.readRegister 0 (0x10 + 4 * k)).toNat = w.toNat ∧ t.readRegister 0 off' = s.readRegister 0 off' := by
  have hw := w.isLt
  refine exec_registerWrite_of_lead
    (t := s.onDist fun d => { d with runmax := Store.set 0 d.runmax k (2 ^ 32 - 1 - w.toNat) }) ?_
    (State.noMemory_onDist s _) rfl ?_ (State.readLead_runmax hr _ (by omega))
  · interval_cases k <;> rfl
  · have hread (t : State) : t.readRegister 0 (0x10 + 4 * k) = w32 (2 ^ 32 - 1 - Store.get 0 t.dist.runmax k) := by
      interval_cases k <;> rfl
    rw [hread]
    change (w32 (2 ^ 32 - 1 - Store.get 0 (Store.set 0 s.dist.runmax k _) k)).toNat = _
    rw [Store.get_set_same hr, toNat_w32 (by omega)]
    omega

/-- Firmware's write of a register of the lead die: what it reads, and every other as it was. -/
theorem exec_registerWrite_lead {s : State} {off off' : Nat} {w : Word} (hr : Store.wf 0 s.dist.runmax = true)
    (hne : off' ≠ off) (h4 : off' % 4 = 0) (h : off ∈ [4, 0x10, 0x14, 0x18, 0x200, 0x204, 0x208]) :
    ∃ t, exec (.registerWrite .firmware 0 off w) s = .next t ∧ s.noMemory t ∧ t.dies = s.dies ∧
      (t.readRegister 0 off).toNat = (match off with
        | 4 => w.toNat % 65536
        | 0x200 => w.toNat % 65536
        | 0x204 => w.toNat % 4096
        | 0x208 => (s.hstat &&& (~~~w ||| s.hstatNow)).toNat
        | _ => w.toNat) ∧
      t.readRegister 0 off' = s.readRegister 0 off' := by
  simp only [List.mem_cons, List.not_mem_nil, or_false] at h
  have hnone : s.noMemory s := ⟨rfl, rfl, rfl, rfl, rfl, rfl, rfl, rfl, rfl⟩
  rcases h with rfl | rfl | rfl | rfl | rfl | rfl | rfl
  · refine exec_registerWrite_of_lead rfl (State.noMemory_onDist s _) rfl ?_ (State.readLead_framelen s _ hne)
    have hf : field w.toNat 0 16 = w.toNat % 65536 := field_zero _ _
    have hlt : field w.toNat 0 16 < 2 ^ 32 := by omega
    exact (toNat_w32 hlt).trans hf
  · exact exec_registerWrite_runmax (k := 0) (by decide) hr hne h4
  · exact exec_registerWrite_runmax (k := 1) (by decide) hr hne h4
  · exact exec_registerWrite_runmax (k := 2) (by decide) hr hne h4
  · exact exec_registerWrite_of_lead rfl hnone rfl (toNat_and_low (n := 16) rfl) (State.readLead_hwbase s _ _ hne)
  · exact exec_registerWrite_of_lead rfl hnone rfl (toNat_and_low (n := 12) rfl) (State.readLead_hasid s _ _ hne)
  · exact exec_registerWrite_of_lead rfl hnone rfl rfl (State.readLead_hstat s _ hne)

/-- Firmware's write of QLEVEL k gives the sixteen queues of its word their levels; queues 0 to 3 keep theirs (R288, R289). -/
theorem exec_registerWrite_qlevel {s : State} {off : Nat} {w : Word} (hq : Store.wf 0#32 s.dist.qlevel = true)
    (h : 0x20 ≤ off) (h' : off ≤ 0x5C) (h4 : off % 4 = 0) :
    ∃ t, exec (.registerWrite .firmware 0 off w) s = .next t ∧ s.noMemory t ∧ t.dies = s.dies ∧
      ∀ q, t.dist.queueLevel q = if q < 4 then q else if q / 16 = (off - 0x20) / 4 then field w.toNat (2 * (q % 16)) 2
        else s.dist.queueLevel q := by
  refine ⟨s.onDist fun d => { d with qlevel := Store.set 0#32 d.qlevel ((off - 0x20) / 4) w }, ?_,
    State.noMemory_onDist s _, rfl, fun q => ?_⟩
  · rw [exec_registerWrite_firmware (by decide)]
    unfold State.writeRegister State.writeLead
    rw [if_neg (by omega)]
    iterate 11 rw [if_neg (by omega)]
    rw [if_pos rfl]
    iterate 3 rw [if_neg (by omega)]
    rw [if_pos ⟨h, h'⟩]
  · simp only [Distributor.queueLevel, State.onDist, Store.get_set hq]
    split
    · rfl
    · split <;> rfl

/-- A read-only register ignores the write (R11). -/
theorem State.writeRegister_readOnly (s : State) (die : Nat) {off : Nat} (w : Word)
    (h : off ∈ [8, 0xC, 0x64, 0x68, 0x6C, 0x70, 0x124, 0x128, 0x12C, 0x130, 0x300, 0x340, 0x37C, 0x40C, 0x410, 0x414, 0x418,
      0x600]) : s.writeRegister die off w = s := by
  have key : s.writeRegister die off w = (if die = 0 then s.writeLead off w else s) ∧ s.writeLead off w = s := by
    simp only [List.mem_cons, List.not_mem_nil, or_false] at h
    rcases h with rfl | rfl | rfl | rfl | rfl | rfl | rfl | rfl | rfl | rfl | rfl | rfl | rfl | rfl | rfl | rfl | rfl | rfl <;>
      exact ⟨rfl, rfl⟩
  obtain ⟨hwr, hlead⟩ := key
  rw [hwr, hlead, ite_self]

/-! ## The host's writes (R11, R340, R342, R343) -/

/-- A host write of a register: nothing with the link down, else in its turn. -/
theorem exec_registerWrite_host {die : Nat} (hd : die < 16) (off : Nat) (w : Word) (s : State) :
    exec (.registerWrite .host die off w) s = .next (if s.hostDown then s else
      s.hostTurn (.registerWrite .host die off w) s.postedReady fun s => s.hostRegister die off w) := by
  have hx : exec (.registerWrite .host die off w) s = execRegisterWrite .host die off w s := rfl
  rw [hx, execRegisterWrite, if_neg (by omega)]

/-- A posted write of the host can be taken: its earlier writes are visible, and fewer than 64 messages wait (R341, R343). -/
theorem State.postedReady_iff (s : State) :
    s.postedReady = true ↔ (∀ id ∈ s.hostSent, s.visible id = true) ∧ s.hostMessages < 64 := by
  simp only [State.postedReady, State.hostSettled, Bool.and_eq_true, List.all_eq_true, decide_eq_true_eq]

/-- With no host access waiting, one that can be served is, and one that cannot waits. -/
theorem State.hostTurn_nil {s : State} (h : s.hostWait = []) (i : Instr) (ready : Bool) (body : State → State) :
    s.hostTurn i ready body = if ready then body s else { s with hostWait := [i] } := by
  simp only [State.hostTurn, h]

/-- A host write reaches what firmware has opened, and sets CW for any other register (R340). -/
theorem exec_registerWrite_host_ready {s : State} {die : Nat} (hd : die < 16) (off : Nat) (w : Word)
    (hup : s.hostDown = false) (hnil : s.hostWait = []) (hm : s.hostMessages < 64)
    (hv : ∀ id ∈ s.hostSent, s.visible id = true) :
    exec (.registerWrite .host die off w) s =
      .next (if off ∈ (s.die die).opened then s.writeRegister die off w else s.hostBit 0) := by
  rw [exec_registerWrite_host hd, hup, State.hostTurn_nil hnil, (State.postedReady_iff s).mpr ⟨hv, hm⟩]
  simp only [Bool.false_eq_true, if_false, if_true, State.hostRegister, List.contains_iff_mem]

/-- A host write that cannot be served waits (R343). -/
theorem exec_registerWrite_host_waits {s : State} {die : Nat} (hd : die < 16) (off : Nat) (w : Word)
    (hup : s.hostDown = false) (hnil : s.hostWait = [])
    (h : 64 ≤ s.hostMessages ∨ ∃ id ∈ s.hostSent, s.visible id = false) :
    exec (.registerWrite .host die off w) s = .next { s with hostWait := [.registerWrite .host die off w] } := by
  have hn : ¬ s.postedReady = true := by
    rw [State.postedReady_iff]
    rintro ⟨hv, hm⟩
    rcases h with h | ⟨id, hid, hf⟩
    · omega
    · rw [hv id hid] at hf
      cases hf
  rw [exec_registerWrite_host hd, if_neg (by rw [hup]; exact Bool.false_ne_true), State.hostTurn_nil hnil, if_neg hn]

end Sys2Proof.Machine
end

section
/-! SUPPORT. The statement about the control windows, put together. -/

namespace Sys2Proof.Machine

/-! ## What others than firmware's writes and the host do to registers (R125, R326, R340, R349, log 58) -/

section actor

variable {die : Nat} (hd : die < 16) (off : Nat) (w : Word) (s : State)

include hd

/-- Firmware opens a register to the host. -/
theorem exec_registerWrite_opens : exec (.registerWrite .opens die off w) s =
    .next (s.onDie die fun d => if d.opened.contains off then d else { d with opened := d.opened ++ [off] }) := by
  have hx : exec (.registerWrite .opens die off w) s = execRegisterWrite .opens die off w s := rfl
  rw [hx, execRegisterWrite, if_neg (by omega)]

/-- Firmware closes a register to the host. -/
theorem exec_registerWrite_closes : exec (.registerWrite .closes die off w) s =
    .next (s.onDie die fun d => { d with opened := d.opened.filter fun k => !decide (k = off) }) := by
  have hx : exec (.registerWrite .closes die off w) s = execRegisterWrite .closes die off w s := rfl
  rw [hx, execRegisterWrite, if_neg (by omega)]

/-- Firmware sets the root of an address space. -/
theorem exec_registerWrite_root : exec (.registerWrite .root die off w) s = .next (s.setRoot off w) := by
  have hx : exec (.registerWrite .root die off w) s = execRegisterWrite .root die off w s := rfl
  rw [hx, execRegisterWrite, if_neg (by omega)]

/-- An image gets its end. -/
theorem exec_registerWrite_image : exec (.registerWrite .image die off w) s = .next (s.setImage off w) := by
  have hx : exec (.registerWrite .image die off w) s = execRegisterWrite .image die off w s := rfl
  rw [hx, execRegisterWrite, if_neg (by omega)]

/-- A sensor reads. -/
theorem exec_registerWrite_sensor : exec (.registerWrite .sensor die off w) s = .next (s.sense die off w) := by
  have hx : exec (.registerWrite .sensor die off w) s = execRegisterWrite .sensor die off w s := rfl
  rw [hx, execRegisterWrite, if_neg (by omega)]

end actor

/-- After firmware has opened a register to the host it and what was open are open. -/
theorem mem_opened_opens (l : List Nat) (off k : Nat) :
    k ∈ (if l.contains off then l else l ++ [off]) ↔ k = off ∨ k ∈ l := by
  by_cases h : off ∈ l
  · rw [if_pos (List.contains_iff_mem.mpr h)]
    exact ⟨.inr, fun hk => hk.elim (fun he => he ▸ h) id⟩
  · rw [if_neg (fun hc => h (List.contains_iff_mem.mp hc)), List.mem_append, List.mem_singleton, or_comm]

/-- The roots after one is set. -/
theorem State.get_setRoot {s : State} (h : Store.wf 0 s.roots = true) (off a : Nat) (w : Word) :
    Store.get 0 (s.setRoot off w).roots a = if a = off ∧ off < 4096 then 256 * w.toNat else Store.get 0 s.roots a := by
  unfold State.setRoot
  by_cases ho : off < 4096
  · simp only [ho, if_true, and_true, Store.get_set h]
  · simp only [ho, if_false, and_false]

/-- A root set changes the roots alone. -/
theorem State.setRoot_eq (s : State) (off : Nat) (w : Word) :
    s.setRoot off w = { s with roots := (s.setRoot off w).roots } := by
  unfold State.setRoot
  split <;> rfl

/-- A sensor's word changes its die alone. -/
theorem State.onlyDie_sense (s : State) (die off : Nat) (w : Word) : s.onlyDie (s.sense die off w) die := by
  unfold State.sense
  split_ifs
  · exact State.onlyDie_onDie s die _
  · exact State.onlyDie_onDie s die _
  · exact State.onlyDie_refl s die

/-- TEMP after a sensor's word. -/
theorem State.read_temp_sense (s : State) (die off : Nat) (w : Word) : ((s.sense die off w).readRegister die 0x40C).toNat =
    if off = 0x40C then w.toNat % 128 else (s.die die).temp % 2 ^ 32 := by
  have hread (t : State) : (t.readRegister die 0x40C).toNat = (t.die die).temp % 2 ^ 32 := BitVec.toNat_ofNat _ _
  rw [hread]
  unfold State.sense
  split_ifs <;> simp only [State.die_onDie]
  omega

/-- POWER after a sensor's word. -/
theorem State.read_power_sense (s : State) (die off : Nat) (w : Word) : ((s.sense die off w).readRegister die 0x410).toNat =
    if off = 0x410 then w.toNat % 256 else (s.die die).power % 2 ^ 32 := by
  have hread (t : State) : (t.readRegister die 0x410).toNat = (t.die die).power % 2 ^ 32 := BitVec.toNat_ofNat _ _
  rw [hread]
  unfold State.sense
  split_ifs with h1 h2 h2
  · omega
  · simp only [State.die_onDie]
  · simp only [State.die_onDie]
    omega
  · rfl

/-- A sensor's word is read at TEMP and POWER alone. -/
theorem State.readRegister_sense (s : State) (die off : Nat) (w : Word) {o : Nat} (ht : o ≠ 0x40C) (hp : o ≠ 0x410) :
    (s.sense die off w).readRegister die o = s.readRegister die o := by
  unfold State.sense
  split_ifs
  · exact State.readRegister_onDie (Die.word_temp (s.die die) _ ht)
  · exact State.readRegister_onDie (Die.word_power (s.die die) _ hp)
  · rfl

/-! ## The parts of the statement -/

/-- A core's block reads the registers that R237 and R239 name. -/
theorem readRegister_block (s : State) (core : Nat) :
    let c := s.core core
    let rd (off : Nat) : Word := s.readRegister (core / 32) (blockAt core off)
    rd 0 = c.trap0 ∧ rd 4 = c.trap1 ∧ (rd 8).toNat = b2n c.act.held * 2 ^ 31 + b2n c.trapPost * 2 ^ 30 + c.mpc % 2 ^ 15 ∧
      (rd 0xC).toNat = c.trapCount % 2 ^ 32 ∧ rd 0x10 = 0#32 ∧ rd 0x14 = c.act.codeWin ∧ rd 0x18 = c.act.partition ∧
      (∀ n, n < 8 → rd (0x20 + 4 * n) = c.act.fstatOf n) ∧ rd 0x40 = c.spadr ∧
      ((rd 0x48).getLsbD 0 = c.act.held ∧ (rd 0x48).getLsbD 1 = c.act.task.isSome ∧ (rd 0x48).toNat < 4) := by
  intro c rd
  have hrd {off : Nat} (h : off < 0x100) : rd off = c.readBlock off := State.readRegister_blockAt s h
  refine ⟨hrd (by decide), hrd (by decide), ?_, ?_, hrd (by decide), hrd (by decide), hrd (by decide), fun n hn => ?_,
    hrd (by decide), ?_⟩
  · rw [hrd (by decide), toNat_readBlock_trap2]
  · rw [hrd (by decide)]
    exact BitVec.toNat_ofNat _ _
  · rw [hrd (by omega), readBlock_fstat c hn]
  · rw [hrd (by decide)]
    exact readBlock_cstate c

/-- SPDAT with its bank quiet: the read answers the word, the write is delivered (R239). -/
theorem exec_spdat_of_quiet {s : State} {core : Nat} (hc : core < 512) (w : Word) (hh : (s.core core).act.held = true)
    (hw : (s.core core).spadr.toNat / 4 * 4 + 4 ≤ (s.core core).act.window) (hq : (s.core core).quiet) :
    let c := s.core core
    let p := c.act.poolAddr (c.spadr.toNat / 4 * 4)
    exec (.spdatRead core) s =
      .next { s.setCore core (c.serve (rowOf p) false) with answer := some ⟨true, Memory.bytes c.pool p 4⟩ } ∧
    exec (.spdatWrite core w) s =
      .next (s.setCore core ((c.serve (rowOf p) false).deliver 22 s.cycle (wordCells p w))) := by
  intro c p
  have hr : exec (.spdatRead core) s = execSpdatRead core s := rfl
  have hx : exec (.spdatWrite core w) s = execSpdatWrite core w s := rfl
  rw [hr, hx, execSpdatRead, execSpdatWrite, if_neg (by omega), if_neg (by omega)]
  simp only [Core.spAddr_of_held hh hw, Core.seekWord_of_quiet hq, if_true, true_and, p, c]

/-- SPDAT that cannot be served is tried again in the next cycle, and nothing is read or written (R239). -/
theorem exec_spdat_waits {s : State} {core : Nat} (hc : core < 512) (w : Word) {p : Nat}
    (hp : (s.core core).spAddr = some p) (hd : (s.core core).pane.done = [])
    (hr : ∀ r, (s.core core).pane.run = some r → s.cycle < r.window ∨ r.windowEnd ≤ s.cycle)
    (hb : (s.core core).pane.busy = some (p / 32768) ∨ ∃ q ∈ (s.core core).ports, q.1 = p / 32768 ∧ q.2.2 = false) :
    (∃ t, exec (.spdatRead core) s = .next t ∧ t.answer = s.answer ∧
      t.inputs = (s.cycle + 1, .spdatRead core) :: s.inputs ∧ (t.core core).pool = (s.core core).pool) ∧
    (∃ t, exec (.spdatWrite core w) s = .next t ∧ t.inputs = (s.cycle + 1, .spdatWrite core w) :: s.inputs ∧
      (t.core core).late = (s.core core).late) := by
  have hread : exec (.spdatRead core) s = execSpdatRead core s := rfl
  have hwrite : exec (.spdatWrite core w) s = execSpdatWrite core w s := rfl
  obtain ⟨hr1, hr2, -⟩ := Core.seekWord_waits hd hr hb none
  obtain ⟨hw1, -, hw3⟩ := Core.seekWord_waits hd hr hb (some w)
  rw [hread, hwrite, execSpdatRead, execSpdatWrite, if_neg (by omega), if_neg (by omega)]
  simp only [hp, hr1, hw1, Bool.false_eq_true, if_false]
  exact ⟨⟨_, rfl, rfl, rfl, (congrArg Core.pool (State.core_setCore s core _)).trans hr2⟩,
    ⟨_, rfl, rfl, (congrArg Core.late (State.core_setCore s core _)).trans hw3⟩⟩

/-- SPDAT that reaches nothing reads zero and writes nothing (R239). -/
theorem exec_spdat_of_none {s : State} {core : Nat} (hc : core < 512) (w : Word) (hp : (s.core core).spAddr = none) :
    exec (.spdatRead core) s = .next { s with answer := some ⟨true, [0#8, 0#8, 0#8, 0#8]⟩ } ∧
      exec (.spdatWrite core w) s = .next s := by
  have hread : exec (.spdatRead core) s = execSpdatRead core s := rfl
  have hwrite : exec (.spdatWrite core w) s = execSpdatWrite core w s := rfl
  rw [hread, hwrite, execSpdatRead, execSpdatWrite, if_neg (by omega), if_neg (by omega)]
  simp only [hp, and_true]
  rfl

/-- A write of SPDAT always completes. -/
theorem completes_spdatWrite {core : Nat} (hc : core < 512) (w : Word) (s : State) :
    Completes (exec (.spdatWrite core w) s) := by
  have hwrite : exec (.spdatWrite core w) s = execSpdatWrite core w s := rfl
  rw [hwrite, execSpdatWrite, if_neg (by omega)]
  dsimp only
  split
  · exact ⟨_, rfl⟩
  · split <;> exact ⟨_, rfl⟩

/-- A write to a core's block is the step of its register (R239). -/
theorem exec_registerWrite_block {s : State} {core : Nat} (hc : core < 512) (w : Word) :
    let wr (off : Nat) := exec (.registerWrite .firmware (core / 32) (blockAt core off) w) s
    wr 0x14 = exec (.cwinWrite core w) s ∧ wr 0x18 = exec (.cpartWrite core w) s ∧
      wr 0x44 = exec (.spdatWrite core w) s ∧
      (∀ n : BitVec 3, wr (0x20 + 4 * n.toNat) = exec (.cfstatWrite core n w) s) ∧
      wr 0x10 = (if w.toNat % 4 = 1 then exec (.coreResume core) s else if w.toNat % 4 = 2 then exec (.taskKill core) s
        else .next s) ∧
      ∃ t, wr 0x40 = .next t ∧ s.onlyCore t core ∧ t.core core = { s.core core with spadr := w &&& 0xFFFFFFFC#32 } := by
  intro wr
  have hwr {off : Nat} (h : off < 0x100) (h4 : off % 4 = 0) : wr off = .next (s.writeBlock core off w) :=
    exec_registerWrite_blockAt hc h h4 w s
  refine ⟨?_, ?_, ?_, fun n => ?_, ?_, _, hwr (by decide) (by decide), State.onlyCore_setCore s core _,
    State.core_setCore s core _⟩
  · rw [hwr (by decide) (by decide)]
    exact next_stateOf ⟨_, exec_cwinWrite hc w s⟩
  · rw [hwr (by decide) (by decide)]
    exact next_stateOf ⟨_, exec_cpartWrite hc w s⟩
  · rw [hwr (by decide) (by decide)]
    exact next_stateOf (completes_spdatWrite hc w s)
  · have hn := n.isLt
    have hb : s.writeBlock core (0x20 + 4 * n.toNat) w = stateOf s (exec (.cfstatWrite core n w) s) := by
      unfold State.writeBlock
      rw [if_neg (by omega), if_neg (by omega), if_neg (by omega), if_pos (by omega),
        show (0x20 + 4 * n.toNat - 0x20) / 4 = n.toNat by omega, BitVec.ofNat_toNat, BitVec.setWidth_eq]
      rfl
    rw [hwr (by omega) (by omega), hb]
    exact next_stateOf ⟨_, exec_cfstatWrite hc n w s⟩
  · have hb : s.writeBlock core 0x10 w = if w.toNat % 4 = 1 then stateOf s (exec (.coreResume core) s)
        else if w.toNat % 4 = 2 then stateOf s (exec (.taskKill core) s) else s := by
      unfold State.writeBlock
      rw [if_pos rfl, field_zero]
      have h4 := Nat.mod_lt w.toNat (show 0 < 2 ^ 2 by decide)
      generalize w.toNat % 2 ^ 2 = m at h4
      interval_cases m <;> rfl
    rw [hwr (by decide) (by decide), hb]
    split
    · exact next_stateOf ⟨_, onCoreBlock_next hc s _⟩
    · split
      · exact next_stateOf (completes_taskKill hc s)
      · rfl

/-- TICKLEN, TRSBASE and SLIPSTAT of the distributor (R287, R288, R360, log 76). -/
theorem exec_registerWrite_distributor (s : State) (w : Word) :
    let n := w.toNat % 2 ^ 24
    exec (.ticklenWrite w) s = .next (if n = 0 then s else { s with dist := { s.dist with ticklen := n } }) ∧
    exec (.trsbaseWrite w) s =
      .next (if s.dist.traces = [] then { s with dist := { s.dist with trsbase := w.toNat % 256 } } else s) ∧
    exec .slipLogPop s = .next { s with dist := { s.dist with slips := s.dist.slips.tail } } ∧
    exec (.registerWrite .firmware 0 0 w) s = exec (.ticklenWrite w) s ∧
    exec (.registerWrite .firmware 0 0x500 w) s = exec (.trsbaseWrite w) s ∧
    exec (.registerWrite .firmware 0 0x60 w) s =
      (if w.getLsbD 31 = true then
        .next { s with dist := { s.dist with slipOvf := s.dist.slipOvf && decide (4 ∈ s.setNow) } }
       else if w.getLsbD 0 = true then exec .slipLogPop s else .next s) := by
  have htick : exec (.ticklenWrite w) s = execTicklenWrite w s := rfl
  have htrs : exec (.trsbaseWrite w) s = execTrsbaseWrite w s := rfl
  have hpop : exec .slipLogPop s = execSlipLogPop s := rfl
  have hslip : s.writeRegister 0 0x60 w = s.writeSlipstat w := rfl
  refine ⟨?_, ?_, ?_, rfl, rfl, ?_⟩
  · rw [htick, execTicklenWrite, field_zero]
    rfl
  · rw [htrs, execTrsbaseWrite, field_zero]
    simp only [List.isEmpty_iff]
    rfl
  · rw [hpop, execSlipLogPop, ← List.drop_one]
    rfl
  · rw [exec_registerWrite_firmware (by decide), hslip, State.writeSlipstat, hpop]
    split
    · rw [List.contains_eq_mem]
      rfl
    · split <;> rfl

/-- Settles O53, part by part. -/
theorem controllerRegisters : Obligations.ControllerRegisters := by
  unfold Obligations.ControllerRegisters
  refine ⟨fun s core _ => readRegister_block s core, fun s core w hc => ?_, fun s core w hc => ?_, fun s core n w hc => ?_,
    fun s core w hc => ?_, fun s die off off' w hd hne h4 hr hq => ?_, fun s die off w hd => ?_,
    fun s w => exec_registerWrite_distributor s w, fun s core w hc => exec_registerWrite_block hc w⟩
  · refine ⟨_, exec_cwinWrite hc w s, State.onlyCore_setCore s core _, fun h => ?_, fun h => ?_⟩
    · rw [State.core_setCore, if_pos h]
    · rw [State.core_setCore, if_neg h]
  · refine ⟨_, exec_cpartWrite hc w s, State.onlyCore_setCore s core _, fun h => ?_, fun h => ?_⟩
    · rw [State.core_setCore, if_pos h]
    · rw [State.core_setCore, if_neg h]
  · refine ⟨_, exec_cfstatWrite hc n w s, State.onlyCore_setCore s core _, fun h => ?_, fun h hf hx => ?_⟩
    · rw [State.core_setCore, if_neg (by rw [h]; exact Bool.false_ne_true)]
    · rw [State.core_setCore, if_pos h]
      exact ⟨fun k hk => Ctx.getLsbD_writeFstat hf hx _ w hk, fun j hj => Ctx.fstatOf_writeFstat_ne hx w hj, rfl⟩
  · refine ⟨fun hh hw hq => ?_, fun hh hw hdone hrun hb => ?_, fun h => ?_⟩
    · obtain ⟨hread, hwrite⟩ := exec_spdat_of_quiet hc w hh hw hq
      have hcore {α : Type} (f : Core → α) {x : α} (d : Core) (h : f d = x) : f ((s.setCore core d).core core) = x := by
        rw [State.core_setCore, h]
      exact ⟨⟨_, hread, rfl, State.onlyCore_setCore s core _, hcore Core.act _ rfl, hcore Core.pool _ rfl,
          hcore Core.late _ rfl⟩,
        ⟨_, hwrite, rfl, State.onlyCore_setCore s core _, hcore Core.late _ rfl, hcore Core.act _ rfl,
          hcore Core.pool _ rfl⟩⟩
    · exact exec_spdat_waits hc w (Core.spAddr_of_held hh hw) hdone hrun hb
    · exact exec_spdat_of_none hc w (Core.spAddr_eq_none h)
  · refine ⟨fun h => exec_registerWrite_die hd hne h, ?_, ?_, fun h => ?_, fun hup hnil hm hv => ?_, fun hup hnil h => ?_,
      fun hdown => ?_⟩
    · rintro rfl h
      exact exec_registerWrite_lead hr hne h4 h
    · rintro rfl h h' h4
      exact exec_registerWrite_qlevel hq h h' h4
    · rw [exec_registerWrite_firmware hd, State.writeRegister_readOnly s die w h]
    · rw [exec_registerWrite_host_ready hd off w hup hnil hm hv]
      refine ⟨fun ho => ?_, fun ho => ?_⟩
      · rw [if_neg ho]
        rfl
      · rw [if_pos ho, exec_registerWrite_firmware hd]
    · exact exec_registerWrite_host_waits hd off w hup hnil h
    · rw [exec_registerWrite_host hd, if_pos hdown]
  · refine ⟨⟨_, exec_registerWrite_opens hd off w s, State.onlyDie_onDie s die _, ?_, fun k => ?_⟩,
      ⟨_, exec_registerWrite_closes hd off w s, State.onlyDie_onDie s die _, ?_, fun k => ?_⟩,
      fun hx => ⟨_, exec_registerWrite_root hd off w s, State.setRoot_eq s off w, fun a => State.get_setRoot hx off a w⟩,
      fun hx => ⟨_, exec_registerWrite_image hd off w s, rfl, fun k => Store.get_set hx _ _ _⟩,
      ⟨_, exec_registerWrite_sensor hd off w s, State.onlyDie_sense s die off w, State.read_temp_sense s die off w,
        State.read_power_sense s die off w, fun o ht hp => State.readRegister_sense s die off w ht hp⟩⟩
    · rw [State.die_onDie]
      split <;> rfl
    · rw [State.die_onDie, ← mem_opened_opens]
      split <;> rfl
    · rw [State.die_onDie]
    · rw [State.die_onDie, List.mem_filter, Bool.not_eq_true', decide_eq_false_iff_not, and_comm]

end Sys2Proof.Machine
end

section
/-! SUPPORT. The reset state (spec/01). -/

namespace Sys2Proof.Machine

/-! ## Reset (R41, R287, R316, R347) -/

/-- Settles O37: every table is empty at reset, and an empty table reads its default. -/
theorem resetState : Obligations.ResetState := by
  unfold Obligations.ResetState
  refine ⟨fun n x hx => ?_, fun n a => ⟨rfl, rfl, rfl, rfl, rfl, rfl, rfl⟩,
    fun d => ⟨rfl, rfl, rfl, rfl, rfl, fun k => rfl⟩, rfl, rfl, rfl, rfl, rfl, rfl, fun n => ⟨rfl, rfl⟩⟩
  obtain ⟨cid, rfl⟩ : ∃ cid, x = Ctx.reset cid := hx.elim (fun h => ⟨false, h⟩) fun h => ⟨true, h⟩
  refine ⟨rfl, rfl, rfl, fun k => ite_self _, fun _ => rfl, fun _ => rfl, fun k hk => if_neg (by omega), fun _ _ _ => rfl,
    fun _ k hk => if_neg (by omega), fun _ _ _ => rfl, rfl, rfl, rfl, rfl, fun _ => rfl, fun _ => rfl, rfl,
    fun _ => ⟨rfl, rfl⟩, fun _ => rfl, rfl, fun _ => rfl, rfl, rfl, rfl, fun _ => rfl, fun _ => rfl, rfl, rfl, rfl⟩

end Sys2Proof.Machine
end

section
/-! SUPPORT. The operations that a bundle numbers and hands on, at issue: copies, launches and pane commands (spec/05, spec/07,
spec/11). -/

namespace Sys2Proof.Machine

/-! ## What happens within the core whose slots execute -/

/-- Nothing outside changes when nothing changes. -/
theorem State.sameOutside_refl (s : State) : s.sameOutside s :=
  ⟨rfl, rfl, fun _ _ => rfl, rfl, rfl, rfl, rfl, rfl, rfl, rfl, rfl, rfl, rfl, rfl, rfl⟩

/-- A change of the core whose slots execute changes nothing outside it. -/
theorem State.sameOutside_onHere (s : State) (f : Core → Core) : s.sameOutside (s.onHere f) :=
  ⟨rfl, rfl, fun _ h => State.core_onHere_ne s f h, rfl, rfl, rfl, rfl, rfl, rfl, rfl, rfl, rfl, rfl, rfl, rfl⟩

/-- Two steps that change nothing outside the core change nothing there together. -/
theorem State.sameOutside.trans {s t u : State} (h : s.sameOutside t) (k : t.sameOutside u) : s.sameOutside u := by
  obtain ⟨h1, h2, h3, h4, h5, h6, h7, h8, h9, h10, h11, h12, h13, h14, h15⟩ := h
  obtain ⟨k1, k2, k3, k4, k5, k6, k7, k8, k9, k10, k11, k12, k13, k14, k15⟩ := k
  exact ⟨k1.trans h1, k2.trans h2, fun n hn => (k3 n (by rwa [h2])).trans (h3 n hn), k4.trans h4, k5.trans h5,
    k6.trans h6, k7.trans h7, k8.trans h8, k9.trans h9, k10.trans h10, k11.trans h11, k12.trans h12, k13.trans h13,
    k14.trans h14, k15.trans h15⟩

/-- A change of the issue context changes nothing outside the core. -/
theorem State.sameOutside_onIss (s : State) (f : Iss → Iss) : s.sameOutside (s.onIss f) := State.sameOutside_onHere s _

/-- A change of the active context changes nothing outside the core. -/
theorem State.sameOutside_onAct (s : State) (f : Ctx → Ctx) : s.sameOutside (s.onAct f) := State.sameOutside_onHere s _

/-! ## Descriptors (R143, R175, R193) -/

/-- While nothing was read for a held bundle, an accessor reads the pool as it stands. -/
theorem State.servedBytes_of_none {s : State} (h : s.act.svc.bytes = []) (prio a n : Nat) :
    s.servedBytes prio a n = Memory.bytes s.here.pool a n := by
  induction n generalizing a with
  | zero => rfl
  | succ n ih =>
    have hb : s.servedByte prio a = Memory.read s.here.pool a := by rw [State.servedByte, h]; rfl
    rw [State.servedBytes, Memory.bytes, hb, ih]

/-- While nothing was read for a held bundle, a descriptor is its sixteen words in the pool. -/
theorem State.descriptor_of_none {s : State} (h : s.act.svc.bytes = []) (a : Nat) :
    s.descriptor a = (List.range 16).map fun k => Memory.word s.here.pool (s.act.poolAddr (a + 4 * k)) := by
  simp only [State.descriptor, State.slotWord, State.slotBytes, State.servedBytes_of_none h]
  rfl

/-- A descriptor address that is aligned and in the window. -/
theorem State.badPacket_eq_false {s : State} {a : Nat} (h1 : a % 64 = 0) (h2 : a + 64 ≤ s.act.window) :
    s.badPacket a = false := by
  simp [State.badPacket, Ctx.badAccess, Ctx.inWindow, h1, h2]

/-- A descriptor address that is not aligned or leaves the window. -/
theorem State.badPacket_eq_true {s : State} {a : Nat} (h : a % 64 ≠ 0 ∨ s.act.window < a + 64) :
    s.badPacket a = true := by
  simp only [State.badPacket, Ctx.badAccess, Ctx.inWindow, Bool.or_eq_true, Bool.not_eq_true', decide_eq_true_eq,
    decide_eq_false_iff_not]
  omega

/-! ## An operation numbered and handed on (R30, R193) -/

/-- The counter from which a number has been taken. -/
theorem Ctx.timeline_number (x : Ctx) (n : Nat) :
    (x.number n).timeline n = ⟨(x.timeline n).i + 1, (x.timeline n).out ++ [(x.timeline n).i + 1]⟩ :=
  Store.get_insert_same Timeline.zero x.tl n _

/-- An operation handed on carries the packet as it stands and the next number of its counter (R193). -/
theorem State.startOp_ops (s : State) (kind tl a : Nat) : ∃ op, (s.startOp kind tl a).ops = s.ops ++ [op] ∧
    op.kind = kind ∧ op.core = s.cur ∧ op.cid = s.act.cid ∧ op.tl = tl ∧ op.num = (s.act.timeline tl).i + 1 ∧
    op.issued = s.cycle ∧ op.scope = s.here.iss.scope ∧ op.stage = .ready ∧ op.row = 0 ∧ op.id = s.nextOp ∧
    op.packet = s.descriptor a := by
  unfold State.startOp
  dsimp only
  split <;> exact ⟨_, rfl, rfl, rfl, rfl, rfl, rfl, rfl, rfl, rfl, rfl, rfl, rfl⟩

/-- An operation handed on changes its core in the counter alone (R30). -/
theorem State.here_startOp (s : State) (kind tl a : Nat) :
    (s.startOp kind tl a).here = { s.here with act := s.here.act.number tl } := by
  unfold State.startOp
  dsimp only
  split <;> exact State.here_onHere s.draw.2 fun c => { c with act := c.act.number tl }

/-- An operation handed on changes nothing outside its core. -/
theorem State.sameOutside_startOp (s : State) (kind tl a : Nat) : s.sameOutside (s.startOp kind tl a) := by
  have h : s.sameOutside (s.draw.2.onAct fun x => x.number tl) := State.sameOutside_onAct s.draw.2 _
  unfold State.startOp
  dsimp only
  split <;> exact h

/-- A launch-class operation waits for the distributor. -/
theorem State.dist_startOp (s : State) {kind : Nat} (h : 5 ≤ kind) (tl a : Nat) :
    (s.startOp kind tl a).dist = { s.dist with waiting := s.dist.waiting ++ [s.nextOp] } := by
  unfold State.startOp
  dsimp only
  rw [if_pos h]
  rfl

/-! ## Launches at issue (R143) -/

/-- LAUNCH, RELAUNCH and TRACE are one operation with a kind. -/
theorem exec_launchKind {i : Instr} {g : SGuard} {n : BitVec 6} {tl : BitVec 5} {kind : Nat} (s : State)
    (h : (i = .launch g n tl ∧ kind = 5) ∨ (i = .relaunch g n tl ∧ kind = 6) ∨ (i = .trace g n tl ∧ kind = 7)) :
    exec i s = .next (s.startLaunch g kind tl.toNat n.toNat) ∧ 5 ≤ kind := by
  rcases h with ⟨rfl, rfl⟩ | ⟨rfl, rfl⟩ | ⟨rfl, rfl⟩
  · exact ⟨rfl, by decide⟩
  · exact ⟨rfl, by decide⟩
  · exact ⟨rfl, by decide⟩

/-- Settles O36: `startLaunch` is `startOp` behind the check of the descriptor address. -/
theorem launchIssue : Obligations.LaunchIssue := by
  unfold Obligations.LaunchIssue
  intro i g n tl kind s hi hg a num
  obtain ⟨hx, hkind⟩ := exec_launchKind s hi
  refine ⟨fun h64 hwin hsvc => ?_, fun hbad ht => ?_⟩
  · let s1 := s.access (rowsOf (s.act.poolAddr a) 64) false 0
    have hact : s1.act = s.act := State.act_onIss s _
    have hpool : s1.here.pool = s.here.pool := State.here_onIss_pool s _
    have hs : s.startLaunch g kind tl.toNat n.toNat = s1.startOp kind tl.toNat a := by
      simp only [State.startLaunch, hg, Bool.not_true, Bool.false_eq_true, if_false, State.badPacket_eq_false h64 hwin, s1, a]
    obtain ⟨op, hops, hk, hcore, hcid, htl, hnum, -, -, hst, -, hid, hp⟩ := s1.startOp_ops kind tl.toNat a
    have hdesc : s1.descriptor a =
        (List.range 16).map fun k => Memory.word s.here.pool (s.act.poolAddr (a + 4 * k)) := by
      rw [State.descriptor_of_none (by rw [hact, hsvc]), hact, hpool]
    have hh := s1.here_startOp kind tl.toNat a
    have ht : (s1.startOp kind tl.toNat a).act = s.act.number tl.toNat := by
      rw [State.act, hh, ← hact]; rfl
    refine ⟨_, op, by rw [hx, hs], hops, hk, hcore, hcid.trans (by rw [hact]), htl, hnum.trans (by rw [hact]), hst, hid,
      hp.trans hdesc, s1.dist_startOp hkind _ _, ?_, by rw [ht]; rfl, by rw [ht]; rfl, by rw [hh]; exact hpool,
      (State.sameOutside_onIss s _).trans (s1.sameOutside_startOp _ _ _)⟩
    rw [ht, Ctx.timeline_number]
  · rw [hx, State.startLaunch, hg, Bool.not_true, if_neg Bool.false_ne_true, if_pos (State.badPacket_eq_true hbad),
      State.rangeFault, State.raise_first s _ _ _ _ ht, Nat.mod_eq_of_lt (BitVec.isLt _)]
    rfl

/-! ## Copies at issue (R193) -/

/-- COPY, COPYO, GATHERP, MPOST and TQPUSH are one operation with a kind. -/
theorem exec_copyKind {i : Instr} {o : McOp} {kind : Nat} (s : State)
    (h : (i = .copy o ∧ kind = 0) ∨ (i = .copyo o ∧ kind = 1) ∨ (i = .gatherp o ∧ kind = 2) ∨ (i = .mpost o ∧ kind = 3) ∨
      (i = .tqpush o ∧ kind = 4)) : exec i s = .next (s.startCopy o kind) := by
  rcases h with ⟨rfl, rfl⟩ | ⟨rfl, rfl⟩ | ⟨rfl, rfl⟩ | ⟨rfl, rfl⟩ | ⟨rfl, rfl⟩ <;> rfl

/-- An operation finds room below the bounds of R193 and R337. -/
theorem State.copyFull_eq_false {s : State} {kind : Nat} {p : List Word}
    (h : s.here.act.outstanding + s.here.shadow.outstanding < 8192)
    (ht : isTimed kind p = true → (s.ops.filter fun o => decide (o.core = s.cur) && isTimed o.kind o.packet).length < 16) :
    s.copyFull kind p = false := by
  simp only [State.copyFull, Bool.or_eq_false_iff, decide_eq_false_iff_not, Nat.not_le, Bool.and_eq_false_iff]
  refine ⟨h, ?_⟩
  cases hk : isTimed kind p with
  | false => exact .inl rfl
  | true => exact .inr (ht hk)

/-- No other slot of the bundle has written a scalar register that the M slot is to write. -/
theorem State.clearMemory.clear_s {s : State} {a d : Nat} (h : s.clearMemory a d) (x : Word) : s.clear .m (.s d x) := by
  intro o ho hseq hslot hm
  obtain ⟨-, hs, hamo⟩ := h o ho hseq hslot hm
  cases he : o.eff with
  | s i y => exact if_neg fun (hi : i = d) => hs y (hi ▸ he)
  | amo p op y k i => exact if_neg fun (hi : i ≠ 0 ∧ d = i) => hamo p op y k (hi.2 ▸ he)
  | shut _ commit _ _ => cases commit <;> rfl
  | _ => rfl

/-- Settles O30: `startCopy` is `startOp` behind its checks, and the number on its way to sN. -/
theorem copyIssue : Obligations.CopyIssue := by
  unfold Obligations.CopyIssue
  intro i o kind s hi _ hgo ⟨_, _, _, hsvc⟩ hclear a h64 hwin hroom packet htimed num
  let s1 := s.access (rowsOf (s.act.poolAddr a) 64) false 0
  let s2 := s1.startOp kind o.tl.toNat a
  have hdesc : s.descriptor a = packet := State.descriptor_of_none (by rw [hsvc]; rfl) a
  have hact : s1.act = s.act := State.act_onIss s _
  have hdesc1 : s1.descriptor a = packet := by
    rw [State.descriptor_of_none (by rw [hact, hsvc]; rfl), hact]
    exact congrArg (fun m => (List.range 16).map fun k => Memory.word m (s.act.poolAddr (a + 4 * k)))
      (State.here_onIss_pool s _)
  have hfull : s.copyFull kind (s.descriptor a) = false := State.copyFull_eq_false hroom (by rwa [hdesc])
  have hs : s.startCopy o kind = s2.landS .m 1 o.s.toNat (BitVec.ofNat 32 num) := by
    simp only [State.startCopy, hgo, Bool.false_eq_true, if_false, State.badPacket_eq_false h64 hwin, hfull, s2, s1, a, num]
  obtain ⟨op, hops, hk, hcore, hcid, htl, hnum, hiss, hscope, hst, hrow, hid, hp⟩ := s1.startOp_ops kind o.tl.toNat a
  have hout : s.sameOutside s2 := (State.sameOutside_onIss s _).trans (s1.sameOutside_startOp _ _ _)
  have hh : s2.here = { s1.here with act := s1.here.act.number o.tl.toNat } := s1.here_startOp kind o.tl.toNat a
  have hpool : s2.here.pool = s.here.pool := by rw [hh]; exact State.here_onIss_pool s _
  have ht2 : s2.act = s.act.number o.tl.toNat := by rw [State.act, hh, ← hact]; rfl
  have hfl : s2.flight .m (s2.cycle + 1) (.s o.s.toNat (BitVec.ofNat 32 num)) =
      s.flight .m (s.cycle + 1) (.s o.s.toNat (BitVec.ofNat 32 num)) := by
    have hiss2 : s2.here.iss = s1.here.iss := by rw [hh]
    rw [State.flight, State.flight, ht2, hiss2, hout.1]
    simp only [s1, State.access, State.iss_onIss, Ctx.number_seq]
  have hland : ∃ t, s2.landS .m 1 o.s.toNat (BitVec.ofNat 32 num) = t ∧ t.ops = s2.ops ∧ s2.sameOutside t ∧
      t.here.pool = s2.here.pool ∧ t.act = { s2.act with pend := s2.act.pend ++ (if o.s = 0#6 then [] else
        [s.flight .m (s.cycle + 1) (.s o.s.toNat (BitVec.ofNat 32 num))]) } := by
    by_cases h0 : o.s = 0#6
    · rw [h0]
      exact ⟨s2, rfl, rfl, State.sameOutside_refl _, rfl, by rw [if_pos rfl, List.append_nil]⟩
    · have hn : o.s.toNat ≠ 0 := fun h => h0 (BitVec.eq_of_toNat_eq h)
      have hc2 : s2.clear .m (.s o.s.toNat (BitVec.ofNat 32 num)) := by
        intro l
        rw [ht2]
        exact hclear.clear_s _ l
      rw [State.landS, if_neg hn, State.land_clear s2 _ _ _ hc2, hfl, if_neg h0]
      exact ⟨_, rfl, rfl, State.sameOutside_onAct _ _, State.here_onAct_pool _ _, State.act_onAct _ _⟩
  obtain ⟨t, ht, htops, htout, htpool, htact⟩ := hland
  refine ⟨t, op, by rw [exec_copyKind s hi, hs, ht], htops.trans hops, hk, hcore, hcid.trans (by rw [hact]), htl,
    hnum.trans (by rw [hact]), hiss, hscope.trans (by simp only [s1, State.access, State.iss_onIss]), hst, hrow, hid,
    hp.trans hdesc1, ?_, by rw [htact, ht2]; rfl, by rw [htact, ht2]; rfl, htpool.trans hpool, hout.trans htout⟩
  rw [htact, ht2]
  exact Ctx.timeline_number _ _

/-! ## Pane commands at issue (R94, R199, R212, R213) -/

/-- With no repeat running, the E slot finds no schedule fault of another engine's command. -/
theorem State.engineCheck_of_none {s : State} (h : s.here.mx.rep = none) : s.engineCheck false = s := by
  simp [State.engineCheck, Matrix.repeating, h]

/-- A pane command whose checks raise nothing does what it does under a true guard. -/
theorem queueCommand_passes {h : EHead} {checks body : State → State} {s : State} (hg : h.guard.holds s.act.regs = true)
    (hm : s.here.mx.rep = none) (hc : checks s = s) : queueCommand h checks body s = .next (body s) := by
  simp only [queueCommand, State.engineCheck_of_none hm, hc, State.unlessTrapped, if_true, hg]

/-- A pane command whose checks raise a trap does nothing else. -/
theorem queueCommand_traps {h : EHead} {checks body : State → State} {s : State} (hm : s.here.mx.rep = none)
    (hc : (checks s).here.iss.trap ≠ s.here.iss.trap) : queueCommand h checks body s = .next (checks s) := by
  simp only [queueCommand, State.engineCheck_of_none hm, State.unlessTrapped, if_neg hc]

/-- What queueing a pane command changes (R199). -/
theorem State.queuePane_spec (s : State) (cmd : PaneCmd) :
    (s.queuePane cmd).here.pane = { s.here.pane with
      queue := s.here.pane.queue ++ [⟨s.act.cid, (s.act.timeline 1).i + 1, s.cycle, s.act.seq, cmd⟩] } ∧
    (s.queuePane cmd).act = s.act.number 1 ∧ (s.queuePane cmd).here.pool = s.here.pool ∧
    s.sameOutside (s.queuePane cmd) := by
  let s1 := s.onAct fun x => x.number 1
  have hh : (s.queuePane cmd).here = s1.here.onPane fun p => { p with
      queue := p.queue ++ [⟨s1.here.act.cid, (s.act.timeline 1).i + 1, s.cycle, s1.here.act.seq, cmd⟩] } :=
    State.here_onHere s1 _
  have hact : s1.here.act = s.act.number 1 := State.act_onAct s _
  refine ⟨?_, ?_, ?_, (State.sameOutside_onAct s _).trans (State.sameOutside_onHere s1 _)⟩
  · rw [hh, hact]
    simp only [Core.onPane, s1, State.here_onAct_pane, Ctx.number_cid, Ctx.number_seq]
  · rw [State.act, hh]
    exact hact
  · rw [hh]
    exact State.here_onAct_pool s _

/-- The checks of PRUN that hold whatever its guard (R94, R213). -/
def prunChecks (bank : Nat) (s : State) : State :=
  let s1 := if s.act.micro.isNone then s.illegal .e 0 57 else s
  if s.act.scratchBank bank then s1 else s1.illegal .e 0 38

/-- With no load outstanding, PRUN is a pane command behind its checks. -/
theorem exec_prun_of_not_loading {h : EHead} {bank : BitVec 6} {index : BitVec 8} {s : State}
    (hl : s.here.loading s.act.cid = false) : exec (.prun h bank index) s =
      queueCommand h (prunChecks bank.toNat) (fun s => s.queuePane (.run bank.toNat index.toNat)) s := by
  have hx : exec (.prun h bank index) s = execPrun h bank index s := rfl
  rw [hx, execPrun, if_neg (by rw [hl]; exact Bool.false_ne_true)]
  rfl

/-- A bank of the scratchpad (R32). -/
theorem Ctx.scratchBank_iff (x : Ctx) (b : Nat) :
    x.scratchBank b = true ↔ x.firstBank ≤ b ∧ b < x.firstBank + x.banks := by
  rw [Ctx.scratchBank, Bool.and_eq_true, decide_eq_true_eq, decide_eq_true_eq]

/-- A PRUN with a loaded store on a bank of the scratchpad passes its checks. -/
theorem prunChecks_eq_self {s : State} {bank : Nat} (hm : s.act.micro ≠ none) (hb : s.act.scratchBank bank = true) :
    prunChecks bank s = s := by
  have hn : ¬ s.act.micro.isNone = true := fun h => hm (Option.isNone_iff_eq_none.mp h)
  simp only [prunChecks, if_neg hn, if_pos hb]

/-- The trap of a PRUN that fails a check: an illegal operand at the second syllable of the E slot, whichever fails. -/
theorem prunChecks_eq_trap {s : State} {bank : Nat} (ht : s.here.iss.trap = none)
    (h : s.act.micro = none ∨ s.act.scratchBank bank = false) :
    prunChecks bank s = s.onIss fun i => { i with trap := some ⟨4, 3, 0, i.pc, 5⟩ } := by
  have hill (b : Nat) (hb : syllableOf .e b = 5) :
      s.illegal .e 0 b = s.onIss fun i => { i with trap := some ⟨4, 3, 0, i.pc, 5⟩ } := by
    rw [State.illegal, State.raise_first s _ _ _ _ ht, hb]
    rfl
  have hagain : (s.onIss fun i => { i with trap := some ⟨4, 3, 0, i.pc, 5⟩ }).illegal .e 0 38 =
      s.onIss fun i => { i with trap := some ⟨4, 3, 0, i.pc, 5⟩ } := by
    rw [State.illegal, State.raise, State.onIss_onIss]
    rfl
  unfold prunChecks
  dsimp only
  by_cases hn : s.act.micro.isNone = true
  · rw [if_pos hn, hill 57 rfl, hagain, ite_self]
  · have hb : s.act.scratchBank bank = false := h.resolve_left fun hm => hn (Option.isNone_iff_eq_none.mpr hm)
    rw [if_neg hn, if_neg (by rw [hb]; exact Bool.false_ne_true), hill 38 rfl]

/-- Settles O46: each command is `queueCommand` with its checks. -/
theorem paneCommandIssue : Obligations.PaneCommandIssue := by
  unfold Obligations.PaneCommandIssue
  intro h s hg hm ht x num queued
  have hqueue (i : Instr) (cmd : PaneCmd) (hx : exec i s = .next (s.queuePane cmd)) : queued i cmd := by
    obtain ⟨hpane, hact, hpool, hout⟩ := s.queuePane_spec cmd
    exact ⟨_, hx, hpane, by rw [hact]; exact Ctx.timeline_number _ _, by rw [hact]; rfl, by rw [hact]; rfl, hpool, hout⟩
  refine ⟨fun a n => ?_, fun bank index => ?_⟩
  · intro p
    have hx : exec (.pload h a n) s = .next (if s.act.badAccess p (4 * (n.toNat + 1)) 4 then s.rangeFault .e p
        else s.queuePane (.load p (n.toNat + 1))) := queueCommand_passes hg hm rfl
    refine ⟨fun h4 hwin => hqueue _ _ ?_, fun hbad => ?_⟩
    · rw [hx, if_neg (by simp [Ctx.badAccess, Ctx.inWindow, h4]; omega)]
    · have hb : s.act.badAccess p (4 * (n.toNat + 1)) 4 = true := by
        simp only [Ctx.badAccess, Ctx.inWindow, Bool.or_eq_true, Bool.not_eq_true', decide_eq_true_eq,
          decide_eq_false_iff_not, Nat.not_le]
        exact hbad
      rw [hx, if_pos hb, State.rangeFault, State.raise_first s _ _ _ _ ht, Nat.mod_eq_of_lt (BitVec.isLt _)]
      rfl
  · have htrap (hl : s.here.loading x.cid = false) (hf : x.micro = none ∨ x.scratchBank bank.toNat = false) :
        exec (.prun h bank index) s = .next (s.onIss fun i => { i with trap := some ⟨4, 3, 0, i.pc, 5⟩ }) := by
      have hc := prunChecks_eq_trap ht hf
      rw [exec_prun_of_not_loading hl, queueCommand_traps hm (by rw [hc, State.iss_onIss, ht]; exact Option.some_ne_none _), hc]
    refine ⟨fun hl hmic hlo hhi => hqueue _ _ ?_, fun hl hmic _ _ => htrap hl (.inl hmic),
      fun hl hb => htrap hl (.inr ?_), fun hl => ?_⟩
    · rw [exec_prun_of_not_loading hl,
        queueCommand_passes hg hm (prunChecks_eq_self hmic ((Ctx.scratchBank_iff _ _).mpr ⟨hlo, hhi⟩))]
    · exact Bool.eq_false_iff.mpr fun hs => by have := (Ctx.scratchBank_iff _ _).mp hs; omega
    · have hx : exec (.prun h bank index) s = execPrun h bank index s := rfl
      rw [hx, execPrun, if_pos hl, State.engineCheck_of_none hm, State.hold]

end Sys2Proof.Machine
end

section
/-! SUPPORT. Operands and destinations of the vector slots (spec/06): what a field reads, what a result is written to. -/

namespace Sys2Proof.Machine

/-! ## Results in flight -/

/-- A result put in flight changes nothing of what the next one carries. -/
@[simp] theorem State.flight_inFlight (s : State) (l : List Landing) (slot : Slot) (due : Nat) (e : Eff) :
    (s.inFlight l).flight slot due e = s.flight slot due e := by
  simp only [State.flight, State.inFlight, State.act_onAct, State.iss_onAct]

/-- Results put in flight join those that were. -/
@[simp] theorem State.pend_inFlight (s : State) (l : List Landing) : (s.inFlight l).act.pend = s.act.pend ++ l := by
  rw [State.inFlight, State.act_onAct]

/-- A bypass value clashes with nothing (R102 speaks of registers). -/
theorem State.land_bx (s : State) (slot : Slot) (due src cl : Nat) (lanes : List Word) :
    s.land slot due (.bx src cl lanes) = s.inFlight [s.flight slot due (.bx src cl lanes)] := by
  refine State.land_clear s slot due _ fun o _ _ _ _ => ?_
  cases o.eff with
  | shut _ commit _ _ => cases commit <;> rfl
  | _ => rfl

/-- The bypass values of a result are in flight, one for each cluster (R155). -/
theorem State.pend_landBypass (s : State) (slot : Slot) (due src : Nat) (on : Nat → List Bool)
    (vals : List (Nat × List Word)) : (s.landBypass slot due src on vals).act.pend =
      s.act.pend ++ vals.map fun e => s.flight slot due (.bx src e.1 (guardedLanes (on e.1) e.2)) := by
  induction vals generalizing s with
  | nil => rw [State.landBypass, List.map_nil, List.append_nil]
  | cons e vals ih =>
    rw [State.landBypass, State.land_bx, ih]
    simp only [State.flight_inFlight, State.pend_inFlight, List.map_cons, List.append_assoc, List.singleton_append]

/-- No other slot of the bundle has written a vector register, so lanes clash with nothing (R102). -/
theorem State.clearVectors.clear_v {s : State} {slot : Slot} (h : s.clearVectors slot) (cells : List (Nat × Word)) :
    s.clear slot (.v cells) := by
  intro o ho hseq heng hslot
  have hv := h o ho hseq heng hslot
  cases he : o.eff with
  | v c => exact absurd he (hv c)
  | shut _ commit _ _ => cases commit <;> rfl
  | _ => rfl

/-- Where no other slot of the bundle has written a vector predicate, predicate bits clash with nothing (R102). -/
theorem State.clear_p {s : State} {slot : Slot}
    (h : ∀ o ∈ s.act.pend, o.seq = s.act.seq → (o.eng = false ∨ o.slot = .c) → o.slot ≠ slot → ∀ c, o.eff ≠ .p c)
    (cells : List (Nat × Bool)) : s.clear slot (.p cells) := by
  intro o ho hseq heng hslot
  have hp := h o ho hseq heng hslot
  cases he : o.eff with
  | p c => exact absurd he (hp c)
  | shut _ commit _ _ => cases commit <;> rfl
  | _ => rfl

/-! ## The cells of a result (R21, R152, R159) -/

/-- The entry of a key that one entry alone has. -/
theorem find?_of_unique {α : Type} {p : α → Bool} {l : List α} {x : α} (hx : x ∈ l) (hp : p x = true)
    (hu : ∀ y ∈ l, p y = true → y = x) : l.find? p = some x := by
  obtain ⟨y, hy⟩ := Option.isSome_iff_exists.mp (List.find?_isSome.mpr ⟨x, hx, hp⟩)
  rw [hy, hu y (List.mem_of_find?_eq_some hy) (List.find?_some hy)]

/-- The cells of the lanes whose guard bits are true, cluster by cluster. -/
def guardedCells {α β : Type} (key : Nat → Nat → Nat) (val : List α → Nat → β) (on : Nat → List Bool)
    (vals : List (Nat × List α)) : List (Nat × β) :=
  (vals.map fun e => lanes16.filterMap fun l =>
    if (on e.1).getD l false then some (key e.1 l, val e.2 l) else none).flatten

/-- The sixteen lanes. -/
theorem mem_lanes16 (l : Nat) : l ∈ lanes16 ↔ l < 16 := by
  simp only [lanes16, List.mem_cons, List.not_mem_nil, or_false]
  omega

/-- A cell is that of a lane of a cluster whose guard bit is true. -/
theorem mem_guardedCells {α β : Type} {key : Nat → Nat → Nat} {val : List α → Nat → β} {on : Nat → List Bool}
    {vals : List (Nat × List α)} {c : Nat × β} : c ∈ guardedCells key val on vals ↔
      ∃ e ∈ vals, ∃ l < 16, (on e.1).getD l false = true ∧ (key e.1 l, val e.2 l) = c := by
  simp only [guardedCells, List.mem_flatten, List.mem_map, exists_exists_and_eq_and, List.mem_filterMap, mem_lanes16,
    Option.ite_none_right_eq_some, Option.some.injEq]

/-- A lane's cell is found by its key when its guard bit is true, and no cell has the key when it is false. -/
theorem find?_guardedCells {α β : Type} {key : Nat → Nat → Nat} {val : List α → Nat → β} {on : Nat → List Bool}
    {vals : List (Nat × List α)} (hk : ∀ a b l m, l < 16 → m < 16 → key a l = key b m → a = b ∧ l = m)
    (hd : (vals.map fun e => e.1).Nodup) {e : Nat × List α} (he : e ∈ vals) {l : Nat} (hl : l < 16) :
    (guardedCells key val on vals).find? (fun c => decide (c.1 = key e.1 l)) =
      if (on e.1).getD l false then some (key e.1 l, val e.2 l) else none := by
  have lane {c : Nat × β} (hc : c ∈ guardedCells key val on vals) (hkey : decide (c.1 = key e.1 l) = true) :
      (on e.1).getD l false = true ∧ c = (key e.1 l, val e.2 l) := by
    obtain ⟨f, hf, m, hm, hon, rfl⟩ := mem_guardedCells.mp hc
    obtain ⟨hcl, rfl⟩ := hk _ _ _ _ hm hl (of_decide_eq_true hkey)
    obtain rfl : f = e := List.inj_on_of_nodup_map hd hf he hcl
    exact ⟨hon, rfl⟩
  split
  · next hon =>
    exact find?_of_unique (mem_guardedCells.mpr ⟨e, he, l, hl, hon, rfl⟩) (decide_eq_true rfl) fun c hc hp => (lane hc hp).2
  · next hoff => exact List.find?_eq_none.mpr fun c hc hp => hoff (lane hc hp).1

/-- A lane of a physical register has a key of its own. -/
theorem vKey_inj (n a b l m : Nat) (hl : l < 16) (hm : m < 16) (h : vKey a n l = vKey b n m) : a = b ∧ l = m := by
  unfold vKey at h
  omega

/-- The cells of a vector result are those of the lanes whose guard bits are true. -/
theorem destCells_eq (r : Regs) (n : Nat) (on : Nat → List Bool) (vals : List (Nat × List Word)) : destCells r n on vals =
    guardedCells (fun cl l => vKey cl (r.physical n) l) (fun x l => nth0 x l) on vals := rfl

/-! ## Destinations (R152, R154, R155, R159) -/

/-- A result for a register is its lanes in flight and then its bypass values (R152, R155). -/
theorem State.pend_writeVector_register {s : State} {slot : Slot} (hc : s.clearVectors slot) {n : Nat} (hn : n < 768)
    (bit due src : Nat) (on : Nat → List Bool) (vals : List (Nat × List Word)) :
    (s.writeVector slot bit n due src on vals).act.pend =
      s.act.pend ++ s.flight slot due (.v (destCells s.act.regs n on vals)) ::
        ((vals.filter fun e => (on e.1).any id).map fun e => s.flight slot due (.bx src e.1 (guardedLanes (on e.1) e.2))) := by
  have hr : ¬ 768 ≤ n := by omega
  simp only [State.writeVector, if_pos hn, State.land_clear s _ _ _ (hc.clear_v _), State.pend_landBypass,
    State.flight_inFlight, State.pend_inFlight, List.append_assoc, List.singleton_append, hr, decide_false, Bool.false_or]

/-- A result for a stream is one element for each cluster, and then its bypass values (R154, R155). -/
theorem State.writeVector_stream (s : State) (slot : Slot) {n : Nat} (hn : 768 ≤ n) (bit due src : Nat)
    (on : Nat → List Bool) (vals : List (Nat × List Word)) : s.writeVector slot bit n due src on vals =
      (s.pushAll slot bit (n - 768) due vals).landBypass slot due src on vals := by
  have hr : ¬ n < 768 := by omega
  simp only [State.writeVector, if_neg hr, hn, decide_true, Bool.true_or, List.filter_true]

/-- Settles O13: the cells in flight are those of the lanes whose guard bits are true. -/
theorem vectorDestinations : Obligations.VectorDestinations := by
  unfold Obligations.VectorDestinations
  refine ⟨fun s slot bit n due src on vals hc => ⟨fun hn => ?_, fun hn => State.writeVector_stream s slot hn bit due src on vals⟩,
    fun s slot due n on vals hc hn => ⟨fun h0 => if_pos h0, fun h0 => ?_⟩⟩
  · refine ⟨_, State.pend_writeVector_register hc hn bit due src on vals, fun hd e he l hl => ?_⟩
    rw [destCells_eq, cellOf, find?_guardedCells (vKey_inj (s.act.regs.physical n)) hd he hl]
    split <;> rfl
  · refine ⟨_, (if_neg h0).trans (State.land_clear s slot due _ (State.clear_p hc _)), fun hd e he l hl => ?_⟩
    exact find?_guardedCells (key := fun cl l => 16 * (16 * cl + n) + l) (val := fun x l => x.getD l false)
      (fun a b l m hl hm h => by omega) hd he hl

/-! ## Operand forms (R29, R82, R153) -/

/-- The one answer that a list gives, where some entry gives it and no entry another. -/
theorem firstSome_eq_some {α β : Type} {f : α → Option β} {l : List α} {y : β} (h : ∃ x ∈ l, f x = some y)
    (hu : ∀ x ∈ l, f x = none ∨ f x = some y) : firstSome f l = some y := by
  induction l with
  | nil => obtain ⟨x, hx, -⟩ := h; cases hx
  | cons a l ih =>
    rcases hu a List.mem_cons_self with ha | ha
    · obtain ⟨x, hx, hy⟩ := h
      rcases List.mem_cons.mp hx with rfl | hx
      · rw [ha] at hy; cases hy
      · simp only [firstSome, ha]
        exact ih ⟨x, hx, hy⟩ fun z hz => hu z (List.mem_cons_of_mem a hz)
    · simp only [firstSome, ha]

/-- No answer where no entry gives one. -/
theorem firstSome_eq_none {α β : Type} {f : α → Option β} {l : List α} (h : ∀ x ∈ l, f x = none) : firstSome f l = none := by
  induction l with
  | nil => rfl
  | cons a l ih =>
    simp only [firstSome, h a List.mem_cons_self]
    exact ih fun x hx => h x (List.mem_cons_of_mem a hx)

/-- A bypass register gives what its source wrote in the cycle before (R29). -/
theorem State.readBypass_eq {s : State} {n cl : Nat} {lanes : List Word} (h : (n, cl, lanes) ∈ s.act.bx)
    (hu : ∀ b ∈ s.act.bx, b.1 = n → b.2.1 = cl → b.2.2 = lanes) : s.readBypass n cl = (lanes, s) := by
  have hf : firstSome (fun b => if b.1 = n ∧ b.2.1 = cl then some b.2.2 else none) s.act.bx = some lanes := by
    refine firstSome_eq_some ⟨_, h, if_pos ⟨rfl, rfl⟩⟩ fun b hb => ?_
    by_cases hc : b.1 = n ∧ b.2.1 = cl
    · exact .inr ((if_pos hc).trans (congrArg some (hu b hb hc.1 hc.2)))
    · exact .inl (if_neg hc)
  rw [State.readBypass, hf]

/-- A bypass register whose source wrote nothing in the cycle before reads zero, and BE is set (R29). -/
theorem State.readBypass_empty {s : State} {n cl : Nat} (h : ∀ b ∈ s.act.bx, ¬ (b.1 = n ∧ b.2.1 = cl)) :
    s.readBypass n cl = (zeroLanes, s.onAct fun x => x.setCstat 1) := by
  rw [State.readBypass, firstSome_eq_none fun b hb => if_neg (h b hb)]

/-- A bypass field reads its register for a cluster (R29, R82). -/
theorem State.readField_bypass (s : State) (slot : Slot) (bit : Nat) {n : Nat} (hn : 784 ≤ n) (cl : Nat) :
    s.readField slot bit n [cl] = ([(cl, (s.readBypass (n - 784) cl).1)], (s.readBypass (n - 784) cl).2) := by
  rw [State.readField, if_neg (by omega), if_neg (by omega)]
  rfl

/-- Where nothing was read for a held bundle, an element is its words in the pool. -/
theorem State.nth0_readElem {s : State} (h : s.act.svc.bytes = []) (prio a ew : Nat) {l : Nat} (hl : l < ewLanes ew) :
    nth0 (s.readElem prio a ew) l = Memory.word s.here.pool (a + 4 * l) := by
  have hle : ewLanes ew ≤ 16 := by unfold ewLanes; split <;> decide
  have hlane : nth0 (s.readElem prio a ew) l =
      if l < ewLanes ew then BitVec.ofNat 32 (ofBytes (s.servedBytes prio (a + 4 * l) 4)) else 0#32 := by
    have h16 : l < 16 := by omega
    unfold State.readElem
    interval_cases l <;> rfl
  rw [hlane, if_pos hl, State.servedBytes_of_none h]
  rfl

/-- A pop of an affine stream within its elements and the window: its element, and the stream at its next position, the
element on its way to bx7 (R29, R189). -/
theorem State.popOne_affine {s : State} {q : Nat} {b : Binding} {base : Nat} {dims : List (Nat × Nat)} {wrap : Bool}
    (hb : s.act.binding q = some b) (hpush : b.push = false) (hsrc : b.src = .affine base dims wrap)
    (hpos : b.pos < affineTotal dims) (hwin : affineAddr base b.pos dims + ewBytes b.ew ≤ s.act.window)
    (slot : Slot) (cl bit : Nat) :
    let p := s.act.poolAddr (affineAddr base b.pos dims)
    let t := (s.access (rowsOf p (ewBytes b.ew)) false (1 + q)).onAct fun x =>
      { x with regs := x.regs.setQ q (some { b with pos := affineNext b.pos dims wrap }) }
    s.popOne slot cl bit q = (s.readElem (1 + q) p b.ew, t.popBypass slot cl (s.readElem (1 + q) p b.ew)) := by
  have hok : ¬ (decide (affineTotal dims ≤ b.pos) || !s.act.inWindow (affineAddr base b.pos dims) (ewBytes b.ew)) = true := by
    simp only [Ctx.inWindow, Bool.or_eq_true, Bool.not_eq_true', decide_eq_true_eq, decide_eq_false_iff_not]
    omega
  simp only [State.popOne, hb, hpush, Bool.false_eq_true, if_false, hsrc, State.popAffine, if_neg hok]

/-- Settles O14: each form of a field is read as its own rule says. -/
theorem operandForms : Obligations.OperandForms := by
  unfold Obligations.OperandForms
  intro s slot bit n cl
  refine ⟨fun hn => if_pos hn, fun hn lanes ⟨b, hb, hbe⟩ hu => ?_, fun hn h => ?_,
    fun b base dims wrap hlo hhi hb hpush hsrc hpos hwin hsvc => ?_⟩
  · rw [State.readField_bypass s slot bit hn, State.readBypass_eq (hbe ▸ hb) hu]
  · refine ⟨s.onAct fun x => x.setCstat 1, ?_, ?_, ?_⟩
    · rw [State.readField_bypass s slot bit hn, State.readBypass_empty h]
      rfl
    · rw [State.act_onAct]
      rfl
    · rw [State.act_onAct]
      rfl
  · have hpop := State.popOne_affine hb hpush hsrc hpos hwin slot cl bit
    have hr : s.readField slot bit n [cl] =
        ([(cl, (s.popOne slot cl bit (n - 768)).1)], (s.popOne slot cl bit (n - 768)).2) := by
      rw [State.readField, if_neg (by omega), if_pos hhi]
      rfl
    rw [hpop] at hr
    refine ⟨_, _, hr, fun l hl => State.nth0_readElem hsvc _ _ _ hl, ?_, ?_, ?_⟩
    · rw [State.popBypass, State.land_bx]
      simp only [State.inFlight, State.act_onAct, State.access, State.act_onIss, Regs.setQ]
    · rw [State.popBypass, State.land_bx]
      simp only [State.inFlight, State.iss_onAct, State.access, State.iss_onIss]
    · rw [State.popBypass, State.land_bx]
      simp only [State.inFlight, State.here_onAct_pool, State.access, State.here_onIss_pool]

end Sys2Proof.Machine
end

section
/-! SUPPORT. The floating-point instructions of the vector slots on .f64 (spec/06): lane pairs, their guards and flags. -/

namespace Sys2Proof.Machine

/-! ## Lane pairs (R23, R43) -/

/-- An entry of a list of numbers mapped. -/
theorem getD_map_range {α : Type} (f : Nat → α) (d : α) {n k : Nat} (h : k < n) : ((List.range n).map f).getD k d = f k := by
  simp [List.getD_eq_getElem?_getD, List.getElem?_range h]

/-- Lane l of sixteen lanes given by their numbers. -/
theorem getD_lanes16_map {α : Type} (f : Nat → α) (d : α) {l : Nat} (h : l < 16) : (lanes16.map f).getD l d = f l :=
  getD_map_range f d (n := 16) h

/-- Elements of .f64 are lane pairs. -/
theorem getD_elems_pair (x : List Word) {j : Nat} (h : j < 8) : (elems 64 x).getD j 0 = laneOrPair 10#4 x j :=
  getD_map_range _ 0 h

/-- A lane pair put together of an element is the element modulo 2^64. -/
theorem laneOrPair_unelems (l : List Nat) {j : Nat} (h : j < 8) : laneOrPair 10#4 (unelems 64 l) j = l.getD j 0 % 2 ^ 64 := by
  have lane {i : Nat} (hi : i < 16) :
      (nth0 (unelems 64 l) i).toNat = l.getD (i / 2) 0 / 2 ^ (32 * (i % 2)) % 2 ^ 32 := by
    have hu : nth0 (unelems 64 l) i = BitVec.ofNat 32 (l.getD (i / 2) 0 / 2 ^ (32 * (i % 2))) := by
      rw [unelems, if_pos rfl, nth0, getD_lanes16_map _ _ hi]
    rw [hu, BitVec.toNat_ofNat]
  have h0 : 2 * j / 2 = j ∧ 2 * j % 2 = 0 := by omega
  have h1 : (2 * j + 1) / 2 = j ∧ (2 * j + 1) % 2 = 1 := by omega
  rw [laneOrPair, if_pos rfl, lane (by omega), lane (by omega), h0.1, h0.2, h1.1, h1.2]
  norm_num
  omega

/-- A lane of a register as it is read. -/
theorem Regs.nth0_readV (r : Regs) (cl n : Nat) {l : Nat} (h : l < 16) : nth0 (r.readV cl n) l = r.lane cl n l :=
  getD_lanes16_map _ _ h

/-- A lane pair of a register as it is read. -/
theorem Regs.laneOrPair_readV (r : Regs) (cl n : Nat) {j : Nat} (h : j < 8) :
    laneOrPair 10#4 (r.readV cl n) j = r.pairLane cl n j := by
  rw [laneOrPair, if_pos rfl, Regs.nth0_readV r cl n (by omega), Regs.nth0_readV r cl n (by omega), Regs.pairLane]

/-- An elementwise operation on lane pairs. -/
theorem map3_pair (f : Nat → Nat → Nat → FRes) (a b d : List Word) : map3 f 64 a b d =
    (List.range 8).map fun j => f (laneOrPair 10#4 a j) (laneOrPair 10#4 b j) (laneOrPair 10#4 d j) := by
  have hl : (elems 64 a).length = 8 := by simp [elems]
  rw [map3, hl]
  refine List.map_congr_left fun j hj => ?_
  have h8 := List.mem_range.mp hj
  rw [getD_elems_pair a h8, getD_elems_pair b h8, getD_elems_pair d h8]

/-! ## Flags of the guarded elements (R55) -/

/-- A flag of R55 is raised by either of two results together. -/
theorem ieeeFlags_or {φ : FFlags → Bool} (h : φ ∈ ieeeFlags) (a b : FFlags) : φ (a.or b) = (φ a || φ b) := by
  simp only [ieeeFlags, List.mem_cons, List.not_mem_nil, or_false] at h
  rcases h with rfl | rfl | rfl | rfl | rfl <;> rfl

/-- No flag of R55 is raised by no result. -/
theorem ieeeFlags_none {φ : FFlags → Bool} (h : φ ∈ ieeeFlags) : φ FFlags.none = false := by
  simp only [ieeeFlags, List.mem_cons, List.not_mem_nil, or_false] at h
  rcases h with rfl | rfl | rfl | rfl | rfl <;> rfl

/-- A flag of a cluster is that of an element whose guard bit is true. -/
theorem guardedFlags_iff {φ : FFlags → Bool} (h : φ ∈ ieeeFlags) (w : Nat) (on : List Bool) (l : List FRes) :
    φ (guardedFlags w on l) = true ↔ ∃ k r, l[k]? = some r ∧ on.getD (elemLane w k) false = true ∧ φ r.2 = true := by
  have key (l : List FRes) (m : Nat) (a : FFlags) :
      φ ((l.foldl (fun (m : Nat × FFlags) (r : FRes) =>
        (m.1 + 1, if on.getD (elemLane w m.1) false then m.2.or r.2 else m.2)) (m, a)).2) = true ↔
        φ a = true ∨ ∃ k r, l[k]? = some r ∧ on.getD (elemLane w (m + k)) false = true ∧ φ r.2 = true := by
    induction l generalizing m a with
    | nil => simp
    | cons x l ih =>
      have hx : φ (if on.getD (elemLane w m) false then a.or x.2 else a) = true ↔
          φ a = true ∨ (on.getD (elemLane w m) false = true ∧ φ x.2 = true) := by
        split
        · next hon => rw [ieeeFlags_or h, Bool.or_eq_true, eq_true hon, true_and]
        · next hoff => rw [eq_false hoff, false_and, or_false]
      rw [List.foldl_cons, ih, hx]
      constructor
      · rintro ((ha | hon) | ⟨k, r, hr, hon⟩)
        · exact .inl ha
        · exact .inr ⟨0, x, rfl, hon⟩
        · exact .inr ⟨k + 1, r, hr, by rwa [show m + (k + 1) = m + 1 + k by omega]⟩
      · rintro (ha | ⟨k, r, hr, hon⟩)
        · exact .inl (.inl ha)
        · cases k with
          | zero => exact .inl (.inr ((Option.some.inj hr) ▸ hon))
          | succ k => exact .inr ⟨k, r, hr, by rwa [show m + 1 + k = m + (k + 1) by omega]⟩
  rw [guardedFlags, key, ieeeFlags_none h]
  simp only [Bool.false_eq_true, false_or, Nat.zero_add]

/-- The guard of a lane pair is the guard bit of its even lane (R23, R81). -/
theorem State.guardOf_pair (s : State) {o : VOp} {cl : Nat} (h : o.has cl) {j : Nat} (hj : j < 8) :
    (s.guardOf o true cl).getD (2 * j) false = o.active s.act.regs cl (2 * j) := by
  have hp : (s.guardOf o true cl).getD (2 * j) false =
      (s.act.regs.guardLanes o.gp.toNat o.gs cl).getD (2 * (2 * j / 2)) false := by
    rw [State.guardOf, if_pos rfl, pairGuard, getD_lanes16_map _ _ (by omega)]
  have hg : (s.act.regs.guardLanes o.gp.toNat o.gs cl).getD (2 * j) false =
      s.act.regs.laneGuard o.gp.toNat o.gs cl (2 * j) := getD_lanes16_map _ _ (by omega)
  rw [hp, show 2 * (2 * j / 2) = 2 * j by omega, hg, VOp.active, h.2, Bool.true_and, Regs.laneGuard]

/-! ## The slot (R24, R28, R81, R156) -/

/-- Every operand a slot names may be named, so its check finds nothing. -/
theorem State.checkNames_of_named {s : State} {l : List (Nat × Nat)} (h : s.named l) (slot : Slot) (cl : Nat) :
    s.checkNames slot cl l = s := by
  induction l with
  | nil => rfl
  | cons e l ih =>
    have he : s.act.badName e.1 = false := h e List.mem_cons_self
    rw [State.checkNames, he, if_neg Bool.false_ne_true]
    exact ih fun x hx => h x (List.mem_cons_of_mem e hx)

/-- A guard other than p0 with sense 1 is not false for the slot as a whole (R81). -/
theorem neverGuard_of_runs {o : VOp} (h : o.runs) : neverGuard o.gp.toNat o.gs = false := by
  refine Bool.eq_false_iff.mpr fun hn => h ?_
  rw [neverGuard, Bool.and_eq_true, decide_eq_true_eq] at hn
  exact ⟨BitVec.eq_of_toNat_eq hn.1, hn.2⟩

/-- A .f64 form holds its floating-point unit for the next cycle, and executes (R156). -/
theorem fpuSlot_pair {o : VOp} {names : List (Nat × Nat)} {body : State → State} {s : State} (hn : s.named names)
    (hr : o.runs) (hf : s.fpuFree o.slotOf) : fpuSlot o true names body s =
      .next (body (s.onAct fun x => { x with fpuHold := x.fpuHold ++ [(o.slotOf, s.cycle + 1)] })) := by
  have hhold : ¬ (s.act.fpuHold.any fun h => decide (h.1 = o.slotOf) && decide (h.2 = s.cycle)) = true := by
    rw [List.any_eq_true]
    rintro ⟨h, hh, hd⟩
    rw [Bool.and_eq_true, decide_eq_true_eq, decide_eq_true_eq] at hd
    exact hf ⟨h, hh, hd⟩
  let s1 := s.onAct fun x => { x with fpuHold := x.fpuHold ++ [(o.slotOf, s.cycle + 1)] }
  have huse : s.useFpu o.slotOf true = s1 := by
    simp only [State.useFpu, if_neg hhold, if_true, s1]
  have hn1 : s1.named names := by
    intro e he
    rw [State.act_onAct]
    exact hn e he
  have htrap : s1.here.iss.trap = s.here.iss.trap := by rw [State.iss_onAct]
  simp only [fpuSlot, huse, State.checkNames_of_named hn1, State.unlessTrapped, if_pos htrap, neverGuard_of_runs hr,
    Bool.false_eq_true, if_false, s1]

/-- What each floating-point instruction is: `floatSlot` with its latencies, whether it has one source, whether the
destination is an addend, and its function, which looks at an addend only then. -/
theorem exec_vectorFloat {i : Instr} {o : VOp} {lat lat64 : Nat} {f : Nat → Nat → Nat → FRes} (s : State)
    (h : vectorFloat i = some (o, lat, lat64, f)) : ∃ addend, exec i s = floatSlot o lat lat64 (!floatSource2 i) addend f s ∧
      (addend = false → ∀ a b d d', f a b d = f a b d') := by
  unfold vectorFloat at h
  split at h <;> cases h
  case h_4 => exact ⟨true, rfl, Bool.noConfusion⟩
  all_goals exact ⟨false, rfl, fun _ _ _ _ _ => rfl⟩

/-- The sources of an elementwise operation, cluster by cluster, are its operands. -/
theorem State.sources_eq (s : State) (o : VOp) (two addend : Bool) :
    s.sources o (!two) addend = ((clustersOf o).map fun cl => (cl, (s.operands o two).1 cl, (s.operands o two).2.1 cl,
      if addend then s.act.regs.readV cl o.dst.toNat else zeroLanes), (s.operands o two).2.2) := by
  cases two <;> rfl

/-- A floating-point operation on .f64 writes, for each cluster, the elements that its function gives, with the flags of the
guarded ones. -/
theorem State.floatOp_pair (s : State) {o : VOp} (ht : o.type = 10#4) (latency : Nat) (two addend : Bool)
    (f : Nat → Nat → Nat → FRes) :
    let l (cl : Nat) := map3 f 64 ((s.operands o two).1 cl) ((s.operands o two).2.1 cl)
      (if addend then s.act.regs.readV cl o.dst.toNat else zeroLanes)
    s.floatOp o latency (!two) addend f = (s.operands o two).2.2.writeFloat o latency true
      (perCluster o fun cl => unelems 64 ((l cl).map fun x => x.1))
      ((clustersOf o).map fun cl => (cl, guardedFlags 64 (s.guardOf o true cl) (l cl))) := by
  have hw : width o.type.toNat = 64 := by rw [ht]; rfl
  simp only [State.floatOp, State.sources_eq, hw, decide_true, perCluster, List.map_map, Function.comp_def]

/-- Settles O12: the instruction is `floatSlot`, and an element of .f64 is a lane pair. -/
theorem vectorDoubleResults : Obligations.VectorDoubleResults := by
  unfold Obligations.VectorDoubleResults
  intro i o lat lat64 f s hi _ ht hn hr hf s1
  obtain ⟨addend, hx, hadd⟩ := exec_vectorFloat s hi
  let l (cl : Nat) := map3 f 64 ((s1.operands o (floatSource2 i)).1 cl) ((s1.operands o (floatSource2 i)).2.1 cl)
    (if addend then s1.act.regs.readV cl o.dst.toNat else zeroLanes)
  have hregs : s1.act.regs = s.act.regs := by rw [State.act_onAct]
  refine ⟨fun cl => unelems 64 ((l cl).map fun x => x.1), fun cl => guardedFlags 64 (s1.guardOf o true cl) (l cl), ?_, ?_⟩
  · rw [hx, floatSlot, decide_eq_true ht, Bool.not_not, fpuSlot_pair hn hr hf, if_pos rfl, State.floatOp_pair s1 ht]
  · intro r
    have hl (cl : Nat) : l cl = (List.range 8).map (r cl) := by
      refine (map3_pair _ _ _ _).trans (List.map_congr_left fun j hj => ?_)
      cases addend with
      | false => exact hadd rfl _ _ _ _
      | true =>
        rw [if_pos rfl, hregs, Regs.laneOrPair_readV _ _ _ (List.mem_range.mp hj)]
    refine ⟨fun cl j _ hj => ?_, fun cl hcl φ hφ => ?_⟩
    · rw [laneOrPair_unelems _ hj, hl, List.map_map, getD_map_range _ _ hj]
      rfl
    · rw [guardedFlags_iff hφ, hl]
      constructor
      · rintro ⟨k, x, hk, hon, hflag⟩
        obtain ⟨hk8, rfl⟩ : k < 8 ∧ r cl k = x := by
          rw [List.getElem?_map, Option.map_eq_some_iff] at hk
          obtain ⟨j, hj, hx⟩ := hk
          rw [List.getElem?_eq_some_iff] at hj
          obtain ⟨h8, rfl⟩ := hj
          rw [List.length_range] at h8
          rw [List.getElem_range] at hx
          exact ⟨h8, hx⟩
        refine ⟨k, hk8, ?_, hflag⟩
        rw [← hregs, ← State.guardOf_pair s1 hcl hk8]
        exact hon
      · rintro ⟨j, hj, hon, hflag⟩
        refine ⟨j, r cl j, by rw [List.getElem?_map, List.getElem?_range hj]; rfl, ?_, hflag⟩
        rw [← hregs, ← State.guardOf_pair s1 hcl hj] at hon
        exact hon

end Sys2Proof.Machine
end

section
/-! SUPPORT. Waits and barriers (R30, R138 to R140, R345): thresholds, arrivals, and releases. -/

namespace Sys2Proof

/-- What a table reads whose entries are all changed alike, the change leaving the default. -/
theorem Store.get_map {α : Type} {d : α} {f : α → α} (hd : f d = d) (l : Store α) (k : Nat) :
    Store.get d (l.map fun e => (e.1, f e.2)) k = f (Store.get d l k) := by
  induction l with
  | nil => exact hd.symm
  | cons e l ih =>
    simp only [List.map_cons, Store.get]
    split
    · rfl
    · split
      · exact hd.symm
      · exact ih

end Sys2Proof

namespace Sys2Proof.Machine

/-! ## Waits (R138) -/

/-- A wait is over when its condition holds. -/
theorem Ctx.waitOver_iff (x : Ctx) (w : Wait) : x.waitOver w = true ↔ x.conditionHolds w := by
  cases w with
  | count tl n scope => exact decide_eq_true_iff
  | outstanding tl n => exact decide_eq_true_iff
  | barrier inst => exact iff_of_false Bool.false_ne_true id
  | stores seq => simp only [Ctx.waitOver, Ctx.conditionHolds, List.all_eq_true, Bool.or_eq_true, decide_eq_true_eq]

/-- A context with a wait that holds no longer has a first such wait. -/
theorem Ctx.satisfied_of_conditionHolds {x : Ctx} {w : Wait} (hw : w ∈ x.waits) (h : x.conditionHolds w) :
    ∃ v ∈ x.waits, x.conditionHolds v ∧ x.satisfied = some v := by
  obtain ⟨v, hv⟩ := Option.isSome_iff_exists.mp
    (List.find?_isSome.mpr ⟨w, hw, (Ctx.waitOver_iff x w).mpr h⟩)
  exact ⟨v, List.mem_of_find?_eq_some hv, (Ctx.waitOver_iff x v).mp (List.find?_some hv), hv⟩

/-- What a satisfied wait acquires: vectors of the context's own, and of its die at pkg scope or wider; below pkg scope the
dies are as they were (R138, R316). -/
theorem State.acquire_spec (s : State) (core : Nat) (w : Wait) : ∃ k, ((s.acquire core w).core core) =
      { s.core core with act := { (s.core core).act with clocks := k } } ∧
    (∀ m, m ≠ core → (s.acquire core w).core m = s.core m) ∧ (s.acquire core w).hbm = s.hbm ∧
    (s.acquire core w).host = s.host ∧ ((∀ tl n scope, w = .count tl n scope → scope < 3) → (s.acquire core w).dies = s.dies) := by
  cases w with
  | count tl n scope =>
    rw [State.acquire]
    split
    · exact ⟨_, rfl, fun _ _ => rfl, rfl, rfl, fun _ => rfl⟩
    · next hs =>
      exact ⟨_, State.core_onCore _ _ _, fun m hm => State.core_onCore_ne _ _ hm, rfl, rfl, fun h => absurd (h _ _ _ rfl) hs⟩
  | _ => exact ⟨_, rfl, fun _ _ => rfl, rfl, rfl, fun _ => rfl⟩

/-! ## Arrivals at a barrier (R139) -/

/-- Marking complete instances draws free values and changes nothing else. -/
theorem State.completeAll_state (s : State) (l : List Barrier) :
    ∃ n, (s.completeAll l).2 = { s with free := n } := by
  have one (s : State) (b : Barrier) : ∃ n, (s.completeAt b).2 = { s with free := n } := by
    unfold State.completeAt
    split <;> exact ⟨_, rfl⟩
  induction l generalizing s with
  | nil => exact ⟨s.free, rfl⟩
  | cons b l ih =>
    simp only [State.completeAll]
    split
    · obtain ⟨n, hn⟩ := one s b
      obtain ⟨k, hk⟩ := ih (s.completeAt b).2
      exact ⟨k, by rw [hk, hn]⟩
    · exact ih s

/-- Marking complete instances changes of each whether it is complete. -/
theorem State.mem_completeAll (s : State) {l : List Barrier} {b : Barrier} (h : b ∈ l) :
    ∃ f, { b with full := f } ∈ (s.completeAll l).1 := by
  induction l generalizing s with
  | nil => cases h
  | cons c l ih =>
    simp only [State.completeAll]
    rcases List.mem_cons.mp h with rfl | h
    · split <;> exact ⟨_, List.mem_cons_self⟩
    · split
      · obtain ⟨f, hf⟩ := ih (s.completeAt c).2 h
        exact ⟨f, List.mem_cons_of_mem _ hf⟩
      · obtain ⟨f, hf⟩ := ih s h
        exact ⟨f, List.mem_cons_of_mem _ hf⟩

/-- The check for complete instances changes the list of instances alone. -/
theorem State.checkBarriers_eq (s : State) : ∃ n, s.checkBarriers =
    { s with free := n, dist := { s.dist with barriers := (s.completeAll s.dist.barriers).1 } } := by
  obtain ⟨n, hn⟩ := s.completeAll_state s.dist.barriers
  exact ⟨n, by rw [State.checkBarriers, hn]; rfl⟩

/-- Is a round of a barrier the one at which a context arrives next (R139)? -/
def State.awaits (s : State) (key : Nat × Nat × Nat) (b : Barrier) : Bool :=
  decide (b.scope = key.1) && decide (b.key = key.2.1) && decide (b.quad = key.2.2) &&
    decide (b.inst = Store.get 0 s.act.barriers key.1 + 1) && b.full.isNone

/-- The identity of that round: one known, or the next. -/
def State.awaitedId (s : State) (key : Nat × Nat × Nat) : Nat := match s.dist.barriers.filter (s.awaits key) with
  | b :: _ => b.id
  | [] => s.dist.nextBarrier

/-- The distributor with an arrival noted. -/
def State.withArrival (s : State) (key : Nat × Nat × Nat) : Distributor :=
  match s.dist.barriers.filter (s.awaits key) with
  | _ :: _ => { s.dist with
      barriers := s.dist.barriers.map fun b =>
        if s.awaits key b then { b with arrived := b.arrived ++ [(s.cur, s.act.cid)] } else b }
  | [] => { s.dist with
      barriers := s.dist.barriers ++ [
        { id := s.awaitedId key, scope := key.1, key := key.2.1, quad := key.2.2,
          inst := Store.get 0 s.act.barriers key.1 + 1, members := (s.members key).map fun e => (e.1, e.2.cid),
          arrived := [(s.cur, s.act.cid)], full := none }]
      nextBarrier := s.dist.nextBarrier + 1 }

/-- The state in which an arrival is noted and counted, and the next bundle waits for that round. -/
def State.arrived (s : State) (key : Nat × Nat × Nat) : State :=
  (({ s with dist := s.withArrival key }).onAct fun x =>
    { x with barriers := Store.insert x.barriers key.1 (Store.get 0 s.act.barriers key.1 + 1) }).onIss fun i =>
    { i with waits := i.waits ++ [Wait.barrier (s.awaitedId key)] }

/-- After an arrival the instances that have become complete are marked so. -/
theorem State.arrive_eq (s : State) (key : Nat × Nat × Nat) : s.arrive key = (s.arrived key).checkBarriers := rfl

/-- What an arrival changes of its core. -/
theorem State.here_arrive (s : State) (key : Nat × Nat × Nat) : (s.arrive key).here = { s.here with
    act := { s.act with barriers := Store.insert s.act.barriers key.1 (Store.get 0 s.act.barriers key.1 + 1) }
    iss := { s.here.iss with waits := s.here.iss.waits ++ [.barrier (s.awaitedId key)] } } := by
  obtain ⟨n, hn⟩ := (s.arrived key).checkBarriers_eq
  have hc : (s.arrive key).here = (s.arrived key).here := by rw [State.arrive_eq, hn]; rfl
  rw [hc, State.arrived]
  simp only [State.onIss, State.onAct, State.here_onHere]
  rfl

/-- An arrival changes nothing outside its core. -/
theorem State.sameOutside_arrive (s : State) (key : Nat × Nat × Nat) : s.sameOutside (s.arrive key) := by
  obtain ⟨n, hn⟩ := (s.arrived key).checkBarriers_eq
  have ha : s.sameOutside (s.arrived key) :=
    (State.sameOutside_onAct { s with dist := s.withArrival key } _).trans (State.sameOutside_onIss _ _)
  rw [State.arrive_eq, hn]
  exact ha

/-- The round of a barrier at which a context has arrived. -/
theorem State.mem_withArrival (s : State) (key : Nat × Nat × Nat) : ∃ b ∈ (s.withArrival key).barriers,
    b.id = s.awaitedId key ∧ b.scope = key.1 ∧ b.key = key.2.1 ∧ b.inst = Store.get 0 s.act.barriers key.1 + 1 ∧
      (s.cur, s.act.cid) ∈ b.arrived := by
  cases hk : s.dist.barriers.filter (s.awaits key) with
  | nil =>
    simp only [State.withArrival, hk]
    exact ⟨_, List.mem_append_right _ (List.mem_singleton.mpr rfl), rfl, rfl, rfl, rfl, List.mem_singleton.mpr rfl⟩
  | cons b l =>
    obtain ⟨hb, hmine⟩ := List.mem_filter.mp (hk ▸ List.mem_cons_self : b ∈ s.dist.barriers.filter (s.awaits key))
    have h := hmine
    simp only [State.awaits, Bool.and_eq_true, decide_eq_true_eq] at h
    obtain ⟨⟨⟨⟨hscope, hkey⟩, -⟩, hinst⟩, -⟩ := h
    simp only [State.withArrival, State.awaitedId, hk]
    refine ⟨_, List.mem_map_of_mem hb, ?_⟩
    rw [if_pos hmine]
    exact ⟨rfl, hscope, hkey, hinst, List.mem_append_right _ (List.mem_singleton.mpr rfl)⟩

/-- The round stays known, complete or not. -/
theorem State.mem_arrive (s : State) (key : Nat × Nat × Nat) : ∃ b ∈ (s.arrive key).dist.barriers,
    b.id = s.awaitedId key ∧ b.scope = key.1 ∧ b.key = key.2.1 ∧ b.inst = Store.get 0 s.act.barriers key.1 + 1 ∧
      (s.cur, s.act.cid) ∈ b.arrived := by
  obtain ⟨b, hb, hspec⟩ := s.mem_withArrival key
  obtain ⟨n, hn⟩ := (s.arrived key).checkBarriers_eq
  obtain ⟨f, hf⟩ := State.mem_completeAll (s.arrived key) hb
  exact ⟨{ b with full := f }, by rw [State.arrive_eq, hn]; exact hf, hspec⟩

/-- BAR with a true guard and membership is an arrival (R139). -/
theorem exec_bar_member {g : SGuard} {s : State} (hg : g.holds s.act.regs = true) {c : BitVec 3} {key : Nat × Nat × Nat}
    (hkey : s.group s.cur s.act c.toNat = some key) : exec (.bar g c) s = .next (s.arrive key) := by
  have hx : exec (.bar g c) s = execBar g c s := rfl
  simp only [hx, execBar, whenTrue, if_pos hg, hkey]

/-- BAR with a true guard and without membership raises an illegal-operand fault (R140). -/
theorem exec_bar_alone {g : SGuard} {s : State} (hg : g.holds s.act.regs = true) {c : BitVec 3}
    (hnone : s.group s.cur s.act c.toNat = none) : exec (.bar g c) s = .next s.badControl := by
  have hx : exec (.bar g c) s = execBar g c s := rfl
  simp only [hx, execBar, whenTrue, if_pos hg, hnone]

/-! ## Releases (R139, R345) -/

/-- A core in which a barrier has been released. -/
def Core.freed (c : Core) (inst cycle : Nat) : Core :=
  { c with
    act := c.act.released inst cycle, shadow := c.shadow.released inst cycle
    saved := c.saved.map fun v => { v with ctx := v.ctx.released inst cycle } }

/-- A release takes the waits for its round away. -/
theorem Ctx.released_spec (x : Ctx) (inst cycle : Nat) :
    (x.released inst cycle).waits = x.waits.filter (fun w => !decide (w = .barrier inst)) ∧
      (x.released inst cycle).regs = x.regs := by
  unfold Ctx.released
  split
  · exact ⟨rfl, rfl⟩
  · next h =>
    refine ⟨(List.filter_eq_self.mpr fun w hw => ?_).symm, rfl⟩
    rw [Bool.not_eq_true', decide_eq_false_iff_not]
    rintro rfl
    exact h (List.contains_iff_mem.mpr hw)

/-- The clocks of the members' dies merge, and nothing else changes; below pkg scope no die changes (R139, R316). -/
theorem State.mergeClocks_spec (s : State) (b : Barrier) :
    ∃ l, s.mergeClocks b = { s with dies := l } ∧ (b.scope < 3 → l = s.dies) := by
  have fold (k : Store Nat) (l : List Nat) (s : State) :
      ∃ d, l.foldl (fun s d => s.onDie d fun e => { e with vc := mergeMax e.vc k }) s = { s with dies := d } := by
    induction l generalizing s with
    | nil => exact ⟨s.dies, rfl⟩
    | cons a l ih =>
      obtain ⟨d, hd⟩ := ih (s.onDie a fun e => { e with vc := mergeMax e.vc k })
      exact ⟨d, hd⟩
  unfold State.mergeClocks
  split
  · exact ⟨s.dies, rfl, fun _ => rfl⟩
  · next h =>
    obtain ⟨d, hd⟩ := fold (b.dies.foldl (fun (m : Store Nat) d => mergeMax m (s.clockOf d)) []) b.dies s
    exact ⟨d, hd, fun hs => absurd hs h⟩

/-- A complete round is due for release its latency after its last arrival, when no route of a pod barrier is down. -/
theorem State.releaseDue_of_full {s : State} {b : Barrier} {a : Nat} (hf : b.full = some a)
    (ht : a + (if b.scope = 1 then 8 else if b.scope = 2 then 40 else if b.scope = 3 then 220 else 1300) ≤ s.cycle)
    (hr : b.scope = 4 → ∀ d, (s.die d).routesDown = []) : s.releaseDue b = true := by
  have hlat : barrierLatency b.scope =
      if b.scope = 1 then 8 else if b.scope = 2 then 40 else if b.scope = 3 then 220 else 1300 := by
    unfold barrierLatency
    split <;> simp_all
  have hroute : (decide (b.scope ≠ 4) || !s.routeHolds b) = true := by
    by_cases h4 : b.scope = 4
    · have hno : s.routeHolds b = false := by
        rw [State.routeHolds, List.any_eq_false]
        intro e _
        rw [hr h4, List.any_nil]
        exact Bool.false_ne_true
      rw [hno, Bool.not_false, Bool.or_true]
    · rw [decide_eq_true h4, Bool.true_or]
  rw [State.releaseDue, hf]
  simp only [hlat, hroute, Bool.and_true, decide_eq_true_eq]
  exact ht

/-- The release of a round that is due: every core is freed of it, and it is gone (R139). -/
theorem exec_barrierRelease_due {s : State} {b : Barrier}
    (hb : s.dist.barriers.find? (fun e => decide (e.id = b.id)) = some b) (hd : s.releaseDue b = true) :
    exec (.barrierRelease b.id) s = .next { s.mergeClocks b with
      cores := (s.mergeClocks b).cores.map fun e => (e.1, e.2.freed b.id s.cycle)
      dist := { (s.mergeClocks b).dist with
        barriers := (s.mergeClocks b).dist.barriers.filter fun e => !decide (e.id = b.id) } } := by
  have hx : exec (.barrierRelease b.id) s = execBarrierRelease b.id s := rfl
  rw [hx, execBarrierRelease, hb]
  simp only [hd, if_true]
  rfl

/-- Settles O33, part by part: thresholds, counters, the end of a wait, arrivals, and releases. -/
theorem waitsAndBarriers : Obligations.WaitsAndBarriers := by
  unfold Obligations.WaitsAndBarriers
  refine ⟨fun g s t n e hg => ⟨?_, ?_, ?_, ?_⟩, Timeline.le_c, fun s core w hcore hw hc => ?_,
    fun g s c hg => ⟨fun key hkey => ?_, fun hnone ht => ?_⟩, fun s b a hb hf ht hr => ?_⟩
  iterate 4 exact congrArg Host.Outcome.next (if_pos hg)
  · obtain ⟨v, hv, hvc, hsat⟩ := Ctx.satisfied_of_conditionHolds hw hc
    obtain ⟨k, hcore', hne, hhbm, hhost, hdies⟩ := s.acquire_spec core v
    have hx : exec (.waitSatisfied core) s = execWaitSatisfied core s := rfl
    refine ⟨v, hv, hvc, (s.acquire core v).onCore core fun c =>
      { c with act := { c.act with waits := c.act.waits.erase v, heldSince := s.cycle } }, ?_, ?_, ?_, ?_,
      fun m hm => (State.core_onCore_ne _ _ hm).trans (hne m hm), hhbm, hhost, hdies⟩
    · rw [hx, execWaitSatisfied, if_neg (by omega), hsat]
    · rw [State.core_onCore, hcore']
    · rw [State.core_onCore, hcore']
    · rw [State.core_onCore, hcore']
  · have hh := s.here_arrive key
    refine ⟨s.arrive key, s.awaitedId key, exec_bar_member hg hkey, by rw [hh], by rw [State.act, hh], s.mem_arrive key,
      s.sameOutside_arrive key, ?_⟩
    rw [State.sameHere, State.act, hh]
    exact ⟨rfl, rfl, rfl, rfl, rfl, rfl, rfl, fun _ => rfl, rfl, rfl, rfl, rfl, rfl, rfl⟩
  · rw [exec_bar_alone hg hnone, State.badControl, State.raise_first s _ _ _ _ ht]
    rfl
  · obtain ⟨d, hd, hdies⟩ := s.mergeClocks_spec b
    have hcore (n : Nat) : Store.get Core.reset (s.cores.map fun e => (e.1, e.2.freed b.id s.cycle)) n =
        (s.core n).freed b.id s.cycle := Store.get_map (f := fun c => c.freed b.id s.cycle) rfl s.cores n
    rw [exec_barrierRelease_due hb (State.releaseDue_of_full hf ht hr), hd]
    refine ⟨_, rfl, fun n => ?_, fun e he => ?_, rfl, rfl, hdies⟩
    · rw [State.core, hcore]
      obtain ⟨hact, hregs⟩ := Ctx.released_spec (s.core n).act b.id s.cycle
      exact ⟨hact, (Ctx.released_spec _ _ _).1, hregs, rfl⟩
    · have := (List.mem_filter.mp he).2
      rwa [Bool.not_eq_true', decide_eq_false_iff_not] at this

end Sys2Proof.Machine
end

section
/-! SUPPORT. The end of a committing bundle, on a state with an older mark whose cycle is still to come. -/

namespace Sys2Proof.Machine

/-- A store of bundle 0, all bytes of which are written in cycle 50. -/
def laterStore : Gated :=
  { seq := 0, prio := 0, wcycle := 0, written := false, released := false, cells := [], old := [], fills := none,
    pipe := none, stream := none, whole := 50, masks := [], part := false, relAt := (0, 0) }

/-- A package in cycle 0. The active context of core 0 holds a store whose bytes are written in cycle 50, and an
uncommitted mark of cycle 100 after it. -/
def markToCome : State :=
  State.reset.onCore 0 fun c => { c with act := { c.act with
    seq := 1, gate := [laterStore], marks := [⟨1, 100, false, Regs.reset⟩] } }

/-- The committing bundle of a SHUTD. -/
def shutterBundle : Bundle := { Bundle.empty with c := .shutd ⟨0#3, false⟩ 0#1 }

/-- At the end of the bundle the mark to come commits, and releases the store by its own cycle. -/
theorem laterStore_released : laterStore ∉ ((markToCome.finish 0 shutterBundle).core 0).act.gate := by
  decide

/-- Refutes O39, by its clause on the end of a committing bundle. The clause keeps a store that is not whole by the current
cycle; its premises bound the bundle numbers of the older marks, not their cycles, so an older mark of cycle 100 commits
with the bundle and releases a store that is whole in cycle 50 (R231). The clause lacks the premise that no mark of `x` has
a cycle after the current one. -/
theorem not_bundleSequencing : ¬ Obligations.BundleSequencing := by
  unfold Obligations.BundleSequencing
  rintro ⟨-, -, hend, -⟩
  have h := hend markToCome 0 shutterBundle (by decide) (by decide) (by decide) (by decide) (by decide) (by decide)
    (by decide)
  obtain ⟨-, -, -, -, -, -, -, hgoes, -⟩ := h
  obtain ⟨-, -, hkeeps⟩ := hgoes (by decide)
  exact laterStore_released (hkeeps laterStore (by decide) (by decide) (by decide))

end Sys2Proof.Machine
end

section
/-! SUPPORT. Tables as lists of entries: what a list of cells holds for a key, filtered, written into a memory. -/

namespace Sys2Proof

/-- A table with the entries of some keys only keeps the form. -/
theorem Store.okAbove_filter {α : Type} [DecidableEq α] {d : α} (p : Nat → Bool) {b : Nat} {l : Store α}
    (h : Store.okAbove d b l = true) : Store.okAbove d b (l.filter fun e => p e.1) = true := by
  induction l generalizing b with
  | nil => rfl
  | cons e l ih =>
    simp only [Store.okAbove, Bool.and_eq_true, decide_eq_true_eq] at h
    obtain ⟨⟨hb, hd⟩, hl⟩ := h
    rw [List.filter_cons]
    split
    · simp only [Store.okAbove, Bool.and_eq_true, decide_eq_true_eq]
      exact ⟨⟨hb, hd⟩, ih hl⟩
    · exact Store.okAbove_mono (ih hl) (by omega)

end Sys2Proof

namespace Sys2Proof.Machine

/-- A key that no entry names has no value. -/
theorem lookup_eq_none {α : Type} {l : List (Nat × α)} {k : Nat} (h : ∀ e ∈ l, k ≠ e.1) : lookup l k = none := by
  induction l with
  | nil => rfl
  | cons e l ih =>
    simp only [lookup, ih fun x hx => h x (List.mem_cons_of_mem e hx), if_neg (h e List.mem_cons_self)]

/-- The entry added last stands. -/
theorem lookup_concat {α : Type} (l : List (Nat × α)) (k : Nat) (x : α) : lookup (l ++ [(k, x)]) k = some x := by
  induction l with
  | nil => simp [lookup]
  | cons e l ih => simp only [List.cons_append, lookup, ih]

/-- What a list holds for a key, of the entries whose keys meet a test. -/
theorem lookup_filter {α : Type} (p : Nat → Bool) (l : List (Nat × α)) (k : Nat) :
    lookup (l.filter fun e => p e.1) k = if p k = true then lookup l k else none := by
  induction l with
  | nil => simp [lookup]
  | cons e l ih =>
    obtain ⟨j, x⟩ := e
    by_cases hj : p j = true <;> by_cases hk : p k = true
    · simp only [List.filter_cons, hj, hk, if_true, lookup] at ih ⊢
      rw [ih]
    · have : k ≠ j := by rintro rfl; exact hk hj
      simp only [List.filter_cons, hj, hk, if_true, lookup] at ih ⊢
      simp [ih, this]
    · have : k ≠ j := by rintro rfl; exact hj hk
      simp only [List.filter_cons, hj, hk, if_true, lookup, if_neg this] at ih ⊢
      simp only [Bool.false_eq_true, if_false, ih]
      cases lookup l k <;> rfl
    · simp only [List.filter_cons, hj, hk] at ih ⊢
      simpa using ih

/-- Keys renamed one to one keep their values. -/
theorem lookup_map {α : Type} {f : Nat → Nat} (hf : ∀ a b, f a = f b → a = b) (l : List (Nat × α)) (k : Nat) :
    lookup (l.map fun e => (f e.1, e.2)) (f k) = lookup l k := by
  induction l with
  | nil => rfl
  | cons e l ih =>
    simp only [List.map_cons, lookup, ih]
    by_cases h : k = e.1
    · simp only [h, if_true]
    · simp only [h, if_neg fun hk => h (hf _ _ hk), if_false]

/-- What a table in canonical form reads, as a list. -/
theorem get_eq_lookup {α : Type} [DecidableEq α] {d : α} {b : Nat} {l : Store α} (h : Store.okAbove d b l = true) (k : Nat) :
    Store.get d l k = (lookup l k).getD d ∧ (k < b → lookup l k = none) := by
  induction l generalizing b with
  | nil => exact ⟨rfl, fun _ => rfl⟩
  | cons e l ih =>
    obtain ⟨j, x⟩ := e
    simp only [Store.okAbove, Bool.and_eq_true, decide_eq_true_eq] at h
    obtain ⟨⟨hb, -⟩, hl⟩ := h
    obtain ⟨hget, hnone⟩ := ih hl
    rcases Nat.lt_trichotomy k j with hk | rfl | hk
    · have hn := hnone (by omega)
      have hkj : k ≠ j := by omega
      simp only [Store.get, lookup, hn, if_neg hkj, if_pos hk]
      exact ⟨rfl, fun _ => trivial⟩
    · have hn := hnone (by omega)
      simp only [Store.get, lookup, hn, if_true]
      exact ⟨rfl, fun h => by omega⟩
    · have hkj : k ≠ j := by omega
      simp only [Store.get, lookup, if_neg hkj, if_neg (show ¬ k < j by omega), hget]
      refine ⟨by cases lookup l k <;> rfl, fun h => by omega⟩

/-- What a memory reads after a list of cells is written. -/
theorem Memory.read_writeCells {m : Memory} (h : m.wf = true) (l : List (Nat × Byte)) (a : Nat) :
    (m.writeCells l).read a = (lookup l a).getD (m.read a) := by
  induction l generalizing m with
  | nil => rfl
  | cons e l ih =>
    obtain ⟨k, b⟩ := e
    rw [show m.writeCells ((k, b) :: l) = (m.write k b).writeCells l from rfl, ih (Memory.wf_write h k b), lookup]
    cases lookup l a with
    | some y => rfl
    | none =>
      by_cases hk : a = k
      · subst hk
        simp [Memory.read_write_same h]
      · simp [Memory.read_write_ne h b hk, hk]

/-- The cells of some addresses only. -/
theorem Memory.read_filter {m : Memory} (h : m.wf = true) (p : Nat → Bool) (a : Nat) :
    Memory.read (m.filter fun e => p e.1) a = if p a = true then m.read a else 0#8 := by
  rw [Memory.read, (get_eq_lookup (Store.okAbove_filter p h) a).1, lookup_filter, Memory.read, (get_eq_lookup h a).1]
  split <;> rfl

/-- The cells of some addresses only are in canonical form. -/
theorem Memory.wf_filter {m : Memory} (h : m.wf = true) (p : Nat → Bool) :
    Memory.wf (m.filter fun e => p e.1) = true := Store.okAbove_filter p h

end Sys2Proof.Machine
end

section
/-! SUPPORT. The start of a task (R41, R125, R240, R257). -/

namespace Sys2Proof.Machine

/-- A change of one core changes nothing else. -/
theorem State.onlyCore_onCore (s : State) (n : Nat) (f : Core → Core) : s.onlyCore (s.onCore n f) n := s.onlyCore_setCore n _

/-- The active context comes first. -/
theorem Core.firstCtx_act {c : Core} {p : Ctx → Bool} (h : p c.act = true) : c.firstCtx p = some c.act := if_pos h

/-- With no context that meets the test there is none. -/
theorem Core.firstCtx_none {c : Core} {p : Ctx → Bool} (ha : p c.act = false) (hs : p c.shadow = false) :
    c.firstCtx p = none := by simp [Core.firstCtx, ha, hs]

@[simp] theorem Core.onCtx_act (c : Core) (f : Ctx → Ctx) : c.onCtx c.act.cid f = { c with act := f c.act } := if_pos rfl

/-- Clearing leaves what lies outside the partition. -/
theorem Core.read_clearBanks_outside {c : Core} (h : c.pool.wf = true) (y : Ctx) (pre : List (Nat × Byte)) {a : Nat}
    (ha : a < 32768 * y.bankBase ∨ 32768 * (64 - y.xb) ≤ a) :
    Memory.read (c.clearBanks y pre).pool a = Memory.read c.pool a := by
  have hout : y.owns a = false := by
    simp only [Ctx.owns, Bool.and_eq_false_iff, decide_eq_false_iff_not]
    omega
  rw [Core.clearBanks, Memory.read_writeCells (Memory.wf_filter h fun a => !y.owns a), lookup_eq_none,
    Memory.read_filter h fun a => !y.owns a, hout]
  · rfl
  · simp only [List.mem_map, List.mem_filter, Ctx.inWindow, decide_eq_true_eq]
    rintro _ ⟨e, ⟨-, he⟩, rfl⟩
    simp only [Ctx.window, Ctx.banks, Ctx.poolAddr, Ctx.firstBank] at he ⊢
    omega

/-- Clearing zeroes the banks before the scratchpad. -/
theorem Core.read_clearBanks_before {c : Core} (h : c.pool.wf = true) (y : Ctx) (pre : List (Nat × Byte)) {a : Nat}
    (h1 : 32768 * y.bankBase ≤ a) (h2 : a < 32768 * y.firstBank) (h3 : a < 32768 * (64 - y.xb)) :
    Memory.read (c.clearBanks y pre).pool a = 0#8 := by
  have hin : y.owns a = true := by
    simp only [Ctx.owns, Bool.and_eq_true, decide_eq_true_eq]
    exact ⟨h1, h3⟩
  rw [Core.clearBanks, Memory.read_writeCells (Memory.wf_filter h fun a => !y.owns a), lookup_eq_none,
    Memory.read_filter h fun a => !y.owns a, hin]
  · rfl
  · simp only [List.mem_map, List.mem_filter]
    rintro _ ⟨e, -, rfl⟩
    simp only [Ctx.poolAddr]
    omega

/-- The scratchpad holds the preload, and zero elsewhere. -/
theorem Core.read_clearBanks_window {c : Core} (h : c.pool.wf = true) (y : Ctx) (pre : List (Nat × Byte)) {a : Nat}
    (ha : a < y.window) : Memory.read (c.clearBanks y pre).pool (y.poolAddr a) = (lookup pre a).getD 0#8 := by
  have hin : y.owns (y.poolAddr a) = true := by
    simp only [Ctx.owns, Bool.and_eq_true, decide_eq_true_eq]
    simp only [Ctx.window, Ctx.banks, Ctx.poolAddr, Ctx.firstBank] at ha ⊢
    omega
  have hw : y.inWindow a 1 = true := by
    simp only [Ctx.inWindow, decide_eq_true_eq]
    omega
  have hinj (a b : Nat) (hab : y.poolAddr a = y.poolAddr b) : a = b := by
    simp only [Ctx.poolAddr] at hab
    omega
  rw [Core.clearBanks, Memory.read_writeCells (Memory.wf_filter h fun a => !y.owns a), lookup_map hinj,
    lookup_filter fun a => y.inWindow a 1, if_pos hw, Memory.read_filter h fun a => !y.owns a, hin]
  rfl

/-- The start of a waiting task whose banks nothing writes any more. -/
theorem exec_taskStart_waiting {s : State} {core : Nat} {τ : Task} {l : Launch} (hcore : core < 512)
    (ht : (s.core core).act.task = some τ) (hp : (s.core core).act.phase = .waiting) (hl : s.launch τ.launch = some l)
    (hops : ∀ o ∈ s.ops, o.writesInto core (s.core core).act = false) (hpane : (s.core core).paneIdle (s.core core).act.cid = true) :
    exec (.taskStart core) s = .next (s.onCore core fun c =>
      ((c.clearBanks ((s.core core).act.begin_ τ l s.cycle) l.image.preload).clearTrap).onCtx (s.core core).act.cid
        fun _ => (s.core core).act.begin_ τ l s.cycle) := by
  have hx : exec (.taskStart core) s = execTaskStart core s := rfl
  have hcl : (s.core core).act.cleared s.cycle = false := by simp only [Ctx.cleared, hp]
  have hany : (s.ops.any fun o => o.writesInto core (s.core core).act) = false :=
    List.any_eq_false.mpr fun o ho => by simp [hops o ho]
  have hst : s.startCtx core = some (s.core core).act :=
    Core.firstCtx_act (by simp [State.clearReady, hp, hany, hpane])
  simp only [hx, execTaskStart, if_neg (show ¬ 512 ≤ core by omega), hst, hcl, ht, hl]
  rfl

/-- Groups marked valid one after the other are valid. -/
theorem get_validGroups (l : List Nat) {p : Store Parity} (h : Store.wf Parity.valid p = true) (g : Nat) :
    Store.get Parity.valid (l.foldl (fun p g => Store.set Parity.valid p g .valid) p) g =
      if g ∈ l then Parity.valid else Store.get Parity.valid p g := by
  induction l generalizing p with
  | nil => simp
  | cons k l ih =>
    rw [List.foldl_cons, ih (Store.wf_set h k _), Store.get_set h]
    by_cases hk : g = k <;> simp [hk]

/-- A core without a second context, and whose active one neither waits to be cleared nor is cleared, starts no task. -/
theorem exec_taskStart_none {s : State} {core : Nat} (hcore : core < 512)
    (ha : (s.core core).act.cleared s.cycle = false) (hw : (s.core core).act.phase ≠ .waiting)
    (hs : (s.core core).shadow.phase = .none) : exec (.taskStart core) s = .next s := by
  have hx : exec (.taskStart core) s = execTaskStart core s := rfl
  have hst : s.startCtx core = none :=
    Core.firstCtx_none (by simp [ha, State.clearReady, hw]) (by simp [Ctx.cleared, State.clearReady, hs])
  simp only [hx, execTaskStart, if_neg (show ¬ 512 ≤ core by omega), hst]

/-- The start of a task whose clear is over. -/
theorem exec_taskStart_cleared {s : State} {core : Nat} (hcore : core < 512)
    (ha : (s.core core).act.cleared s.cycle = true) :
    exec (.taskStart core) s = .next (s.onCore core fun c => c.beginRun (s.core core).act) := by
  have hx : exec (.taskStart core) s = execTaskStart core s := rfl
  have hst : s.startCtx core = some (s.core core).act := Core.firstCtx_act (by simp [ha])
  simp only [hx, execTaskStart, if_neg (show ¬ 512 ≤ core by omega), hst, ha, if_true]

end Sys2Proof.Machine
end

section
/-! SUPPORT. A task leaves its core: retirement and killing (R135, R239, R285, R302, R303). -/

namespace Sys2Proof.Machine

/-- A launch changed is the launch found under its number. -/
theorem State.launch_onLaunch {s : State} {n : Nat} {l : Launch} (h : s.launch n = some l) (f : Launch → Launch)
    (hf : ∀ k, (f k).num = k.num) : (s.onLaunch n f).launch n = some (f l) := by
  have go (ls : List Launch) (h : firstSome (fun l => if l.num = n then some l else none) ls = some l) :
      firstSome (fun l => if l.num = n then some l else none) (replaceFirst (fun l => decide (l.num = n)) f ls) =
        some (f l) := by
    induction ls with
    | nil => simp [firstSome] at h
    | cons k ls ih =>
      by_cases hk : k.num = n
      · simp only [firstSome, hk, if_true, Option.some.injEq] at h
        subst h
        simp only [replaceFirst, hk, decide_true, if_true, firstSome, hf]
      · simp only [firstSome, if_neg hk] at h
        simp only [replaceFirst, decide_eq_true_eq, if_neg hk, firstSome]
        exact ih h
  exact go s.dist.launches h

/-- Blocks whose counters are decremented, one after the other: the launch is otherwise as it was. -/
theorem Launch.foldl_bump (succ : List Nat) {l : Launch} (h : Store.wf 0 l.deps = true) :
    ∃ deps, succ.foldl (fun l b => l.bump b (-1)) l = { l with deps := deps } ∧
      ∀ b, Store.get 0 deps b = Store.get 0 l.deps b - (succ.count b : Int) := by
  induction succ generalizing l with
  | nil => exact ⟨l.deps, rfl, fun b => by simp⟩
  | cons k succ ih =>
    obtain ⟨deps, heq, hget⟩ := ih (l := l.bump k (-1)) (Store.wf_set h k _)
    refine ⟨deps, by rw [List.foldl_cons, heq]; rfl, fun b => ?_⟩
    rw [hget, Launch.bump, Store.get_set h, List.count_cons]
    by_cases hb : b = k
    · subst hb
      simp only [if_true, beq_self_eq_true]
      omega
    · have hkb : (k == b) = false := beq_eq_false_iff_ne.mpr (Ne.symm hb)
      simp only [if_neg hb, hkb, Bool.false_eq_true, if_false]
      omega

theorem Launch.foldl_bump_num (succ : List Nat) (l : Launch) : (succ.foldl (fun l b => l.bump b (-1)) l).num = l.num := by
  induction succ generalizing l with
  | nil => rfl
  | cons k succ ih => rw [List.foldl_cons, ih, Launch.bump]

/-- A record that leaves the list of released ones changes that list and TICK's time only. -/
theorem Distributor.recordLeaves_eq (d : Distributor) (t : Task) (cycle : Nat) :
    ∃ running next, d.recordLeaves t cycle = { d with running := running, nextTick := next } := by
  unfold Distributor.recordLeaves
  dsimp only
  split
  · exact ⟨_, _, rfl⟩
  · split
    · exact ⟨_, _, rfl⟩
    · exact ⟨_, _, rfl⟩

/-- The counts of a launch that a block leaves (R302, R303). -/
structure Launch.Without (l k : Launch) (t : Task) (killed : Bool) : Prop where
  killed : k.killed = (l.killed || killed)
  left : ∀ b, b ∈ k.left ↔ b ∈ l.left ∧ b ≠ t.blk
  deps : ∀ b, Store.get 0 k.deps b = Store.get 0 l.deps b - (t.succ.count b : Int)

/-- A task without gang, mailbox, trace and queue leaves: its launch counts it, and no core, memory or queue changes. -/
theorem State.taskLeaves_spec {s : State} {core : Nat} {x : Ctx} {t : Task} {l : Launch} (killed : Bool)
    (hl : s.launch t.launch = some l) (hg : t.gang = none) (hm : t.mailbox = none) (ht : t.trace = 0)
    (hq : t.fromQueue = none) (hd : Store.wf 0 l.deps = true) :
    let u := s.taskLeaves core x t killed
    u.cycle = s.cycle ∧ u.cores = s.cores ∧ u.hbm = s.hbm ∧ u.host = s.host ∧ u.dist.queues = s.dist.queues ∧
      u.dist.barriers = s.dist.barriers ∧ ∃ k, u.launch t.launch = some k ∧ l.Without k t killed := by
  let l0 : Launch := { l with clock := mergeMax l.clock (s.clockOf (dieOf core)) }
  let s0 := s.onLaunch t.launch fun l => { l with clock := mergeMax l.clock (s.clockOf (dieOf core)) }
  let s1 := (s0.decrement t.launch t.succ).onLaunch t.launch fun l => l.blockGone t killed
  have h0 : s0.launch t.launch = some l0 := State.launch_onLaunch hl _ fun _ => rfl
  have h1 : (s0.decrement t.launch t.succ).launch t.launch = some (t.succ.foldl (fun l b => l.bump b (-1)) l0) :=
    State.launch_onLaunch h0 _ fun k => Launch.foldl_bump_num t.succ k
  have hgone (k : Launch) : k.blockGone t killed =
      { k with left := k.left.filter fun b => !decide (b = t.blk), killed := k.killed || killed } := by
    simp only [Launch.blockGone, hq]
  have h2 : s1.launch t.launch = some ((t.succ.foldl (fun l b => l.bump b (-1)) l0).blockGone t killed) :=
    State.launch_onLaunch h1 _ fun k => by rw [hgone]
  have hu : s.taskLeaves core x t killed = (s1.onDist fun d => d.recordLeaves t s.cycle).unpark core x.cid := by
    simp only [State.taskLeaves, hg, State.freeMailSlot, hm, State.validate, ht, if_true]
    rfl
  obtain ⟨ls, hls⟩ : ∃ ls, s1 = { s with dist := { s.dist with launches := ls } } := ⟨_, rfl⟩
  clear_value s1
  subst hls
  obtain ⟨running, next, hrec⟩ := Distributor.recordLeaves_eq { s.dist with launches := ls } t s.cycle
  obtain ⟨deps, hfold, hdeps⟩ := Launch.foldl_bump t.succ (l := l0) hd
  rw [hu, State.onDist, hrec]
  refine ⟨rfl, rfl, rfl, rfl, rfl, rfl, _, h2, ?_⟩
  rw [hgone, hfold]
  exact ⟨rfl, fun b => by simp [l0], hdeps⟩

/-- No request, nothing to withdraw. -/
theorem State.settleSwap_of_none {s : State} {core : Nat} (h : (s.core core).swapWanted = none) :
    s.settleSwap core = s := if_neg (by simp [h])

/-- What a task has left: its core changed, its launch counted, and then the barriers looked at, of which there are none
(R302, R303). -/
theorem State.core_changed_spec {s u : State} {core : Nat} (f : Core → Core) (hc : u.cores = s.cores)
    (hw : (f (s.core core)).swapWanted = none) :
    let t := ((u.onCore core f).checkBarriers).settleSwap core
    t.core core = f (s.core core) ∧ (∀ n, n ≠ core → t.core n = s.core n) ∧ t.hbm = u.hbm ∧ t.host = u.host ∧
      t.dist.queues = u.dist.queues ∧ t.launch = u.launch := by
  have hcore (n : Nat) : u.core n = s.core n := by rw [State.core, State.core, hc]
  obtain ⟨n, hn⟩ := (u.onCore core f).checkBarriers_eq
  have hat : ((u.onCore core f).checkBarriers).core core = f (s.core core) := by
    rw [hn, ← hcore]
    exact State.core_onCore u core f
  dsimp only
  rw [State.settleSwap_of_none (by rw [hat]; exact hw)]
  refine ⟨hat, fun k hk => ?_, ?_⟩
  · rw [hn, ← hcore]
    exact State.core_onCore_ne u f hk
  · rw [hn]
    exact ⟨rfl, rfl, rfl, rfl⟩

/-- A halted task that nothing keeps retires (R135, R302). -/
theorem exec_taskRetire_halted {s : State} {core : Nat} {τ : Task} (hcore : core < 512)
    (ht : (s.core core).act.task = some τ) (hp : (s.core core).act.phase = .halted)
    (hr : (s.core core).retires (s.core core).act s.cycle = true) :
    exec (.taskRetire core) s = .next ((((s.taskLeaves core (s.core core).act τ false).onCore core fun c =>
      c.vacate (s.core core).act.cid).checkBarriers).settleSwap core) := by
  have hx : exec (.taskRetire core) s = execTaskRetire core s := rfl
  have hst : s.leavingCtx core = some (s.core core).act := by
    simp only [State.leavingCtx]
    exact Core.firstCtx_act (by simp [hr])
  simp only [hx, execTaskRetire, if_neg (show ¬ 512 ≤ core by omega), hst, ht, hp]

/-- A core whose active task runs and that holds no second context retires nothing. -/
theorem exec_taskRetire_running {s : State} {core : Nat} (hcore : core < 512) (hp : (s.core core).act.phase = .running)
    (hs : (s.core core).shadow.phase = .none) : exec (.taskRetire core) s = .next s := by
  have hx : exec (.taskRetire core) s = execTaskRetire core s := rfl
  have hst : s.leavingCtx core = none := by
    simp only [State.leavingCtx]
    exact Core.firstCtx_none (by simp [Core.retires, hp]) (by simp [Core.retires, hs])
  simp only [hx, execTaskRetire, if_neg (show ¬ 512 ≤ core by omega), hst]

/-- The active context of a core whose task has been killed (R303). -/
def Core.killed (c : Core) (t : Task) : Core :=
  { c with
    resumeAt := none
    act := { c.act with
      task := some { t with gang := none, bars := 0, mailbox := none }, phase := .killed, held := false, waits := [] } }

/-- A held task without a gang is killed (R239, R303). -/
theorem exec_taskKill_held {s : State} {core : Nat} {τ : Task} (hcore : core < 512)
    (ht : (s.core core).act.task = some τ) (hh : (s.core core).act.held = true) (hg : τ.gang = none) :
    exec (.taskKill core) s = .next ((((s.taskLeaves core (s.core core).act τ true).onCore core fun c =>
      c.killed τ).checkBarriers).settleSwap core) := by
  have hx : exec (.taskKill core) s = execTaskKill core s := rfl
  simp only [hx, execTaskKill, if_neg (show ¬ 512 ≤ core by omega), ht, hh, hg, Core.killed]
  rfl

/-- A core without a held task kills none. -/
theorem exec_taskKill_none {s : State} {core : Nat} (hcore : core < 512)
    (h : (s.core core).act.task = none ∨ (s.core core).act.held = false) : exec (.taskKill core) s = .next s := by
  have hx : exec (.taskKill core) s = execTaskKill core s := rfl
  simp only [hx, execTaskKill, if_neg (show ¬ 512 ≤ core by omega)]
  cases ht : (s.core core).act.task with
  | none => rfl
  | some t =>
    have hh := h.resolve_left (by simp [ht])
    simp [hh]

end Sys2Proof.Machine
end

section
/-! SUPPORT. Requests and the exchange of the contexts (R137, R242, R292). -/

namespace Sys2Proof.Machine

/-- When a second context can come in. -/
theorem State.shadowRuns_iff (s : State) (core : Nat) : s.shadowRuns core = true ↔ (s.core core).shadow.canRun = true ∧
    ∀ p ∈ (s.die (core / 32)).parked, ¬ (p.core = core ∧ p.cid = (s.core core).shadow.cid) := by
  simp only [State.shadowRuns, State.isParked, dieOf, Bool.and_eq_true, Bool.not_eq_true', List.any_eq_false, decide_eq_true_eq,
    beq_iff_eq]

/-- When the distributor raises a request. -/
theorem State.requestDue_iff (s : State) (core : Nat) : s.requestDue core = true ↔
    ((s.core core).swapWanted = none ∧ s.shadowRuns core = true) ∧ ((s.core core).act.canRun = false ∨
      ((s.core core).shadow.asked = false ∧ (s.core core).shadow.level < (s.core core).act.level ∧
        (s.core core).act.gang = none)) := by
  simp only [State.requestDue, Ctx.yields, Bool.and_eq_true, Bool.or_eq_true, Bool.not_eq_true', decide_eq_true_eq,
    Option.isNone_iff_eq_none, and_assoc]

/-- SWAP_REQUEST (R242, R292). -/
theorem exec_swapRequest {core : Nat} (hcore : core < 512) (s : State) : exec (.swapRequest core) s =
    .next (if s.requestDue core = true then s.onCore core fun c => c.request 0 else s) := by
  have hx : exec (.swapRequest core) s = execSwapRequest core s := rfl
  rw [hx, execSwapRequest, if_neg (by omega)]

/-- The end of a quantum (R242). -/
theorem exec_quantumExpiry {core : Nat} (hcore : core < 512) (s : State) : exec (.quantumExpiry core) s =
    .next (if (s.core core).swapWanted = none ∧ s.shadowRuns core = true ∧ (s.core core).act.gang = none then
      s.onCore core fun c => c.request 1 else s) := by
  have hx : exec (.quantumExpiry core) s = execQuantumExpiry core s := rfl
  simp only [hx, execQuantumExpiry, if_neg (show ¬ 512 ≤ core by omega), Ctx.yields, Bool.and_eq_true,
    Option.isNone_iff_eq_none, and_assoc]

/-- When the active context has settled, in the words of R242. -/
theorem Core.settled_iff (c : Core) (cycle : Nat) : c.settled cycle = true ↔
    (c.act.canRun = false ∨ c.act.atMark = true) ∧ c.act.held = false ∧ c.act.trap = none ∧ c.act.fp = [] ∧
      (∀ l ∈ c.act.pend, l.eng = true) ∧ (∀ g ∈ c.act.gate, g.stream ≠ none ∨ g.pipe ≠ none → g.wcycle ≤ cycle) ∧
      (c.act.timeline 0).out = [] ∧ (c.mx.rep = none ∨ c.mx.busyTo ≤ cycle) := by
  have hgate (g : Gated) : (!g.landing cycle) = true ↔ (g.stream ≠ none ∨ g.pipe ≠ none → g.wcycle ≤ cycle) := by
    simp only [Gated.landing, Bool.not_eq_true', Bool.and_eq_false_iff, Bool.or_eq_false_iff, Option.isSome_eq_false_iff,
      Option.isNone_iff_eq_none, decide_eq_false_iff_not, Nat.not_lt]
    tauto
  have hrep : (!c.mx.repeating cycle) = true ↔ (c.mx.rep = none ∨ c.mx.busyTo ≤ cycle) := by
    simp only [Matrix.repeating, Bool.not_eq_true', Bool.and_eq_false_iff, Option.isSome_eq_false_iff,
      Option.isNone_iff_eq_none, decide_eq_false_iff_not, Nat.not_lt]
  simp only [Core.settled, Bool.and_eq_true, List.all_eq_true, hgate, hrep, Bool.or_eq_true, Bool.not_eq_true',
    Option.isNone_iff_eq_none, List.isEmpty_iff]
  tauto

/-- When the swap begins. -/
theorem State.swapDue_iff (s : State) (core : Nat) : s.swapDue core = true ↔ (s.core core).swapWanted ≠ none ∧
    s.shadowRuns core = true ∧ (s.core core).swapEnd ≤ s.cycle ∧ (s.core core).settled s.cycle = true := by
  simp only [State.swapDue, Bool.and_eq_true, decide_eq_true_eq, Option.isSome_iff_ne_none, and_assoc]

/-- Nothing but one core changes, and of that core only the marks of the active context. -/
def State.onlyMarks (s t : State) (core : Nat) : Prop :=
  s.onlyCore t core ∧ ∃ ms n, t.core core =
    { s.core core with act := { (s.core core).act with marks := ms, sinceMark := n } }

theorem State.onlyCore_trans {s t u : State} {core : Nat} (h : s.onlyCore t core) (h' : t.onlyCore u core) :
    s.onlyCore u core := by
  obtain ⟨a1, a2, a3, a4, a5, a6, a7, a8, a9, a10, a11, a12⟩ := h
  obtain ⟨b1, b2, b3, b4, b5, b6, b7, b8, b9, b10, b11, b12⟩ := h'
  exact ⟨b1.trans a1, fun n hn => (b2 n hn).trans (a2 n hn), b3.trans a3, b4.trans a4, b5.trans a5, b6.trans a6, b7.trans a7,
    b8.trans a8, b9.trans a9, b10.trans a10, b11.trans a11, b12.trans a12⟩

theorem State.onlyMarks_refl (s : State) (core : Nat) : s.onlyMarks s core :=
  ⟨⟨rfl, fun _ _ => rfl, rfl, rfl, rfl, rfl, rfl, rfl, rfl, rfl, rfl, rfl⟩, _, _, rfl⟩

theorem State.onlyMarks.trans {s t u : State} {core : Nat} (h : s.onlyMarks t core) (h' : t.onlyMarks u core) :
    s.onlyMarks u core := by
  obtain ⟨hs, ms, n, hc⟩ := h
  obtain ⟨ht, ms', n', hc'⟩ := h'
  exact ⟨State.onlyCore_trans hs ht, ms', n', by rw [hc', hc]⟩

/-- A context that a mark frees nothing of: no store, no emptied slot, no gang. -/
def Ctx.nothingHeld (x : Ctx) : Prop := x.gate = [] ∧ x.regs.emptied = [] ∧ x.gang = none

theorem State.onlyMarks.nothingHeld {s t : State} {core : Nat} (h : s.onlyMarks t core)
    (hx : (s.core core).act.nothingHeld) : (t.core core).act.nothingHeld := by
  obtain ⟨-, ms, n, hc⟩ := h
  rw [hc]
  exact hx

/-- A mark that frees nothing changes the marks only. -/
theorem Ctx.commitMark_of_nothingHeld {x : Ctx} (h : x.nothingHeld) (k : Mark) (all : Bool) :
    ∃ ms, x.commitMark k all = { x with marks := ms } := by
  obtain ⟨hgate, hemptied, -⟩ := h
  have hrel : x.release k.cycle k.seq all = x := by
    simp only [Ctx.release, Ctx.settle, hgate, List.foldl_nil, List.reverse_nil, Ctx.fillReleased, List.filter_nil,
      List.map_nil, List.flatten_nil, List.append_nil]
    rw [← hgate]
  have hfree : x.regs.freeEmptied k.seq = x.regs := by
    simp only [Regs.freeEmptied, hemptied, List.filter_nil, List.foldl_nil]
    rw [← hemptied]
  rw [Ctx.commitMark, hrel]
  simp only [Ctx.onAllRegs, hfree]
  exact ⟨_, rfl⟩

/-- The commit of such a mark. -/
theorem State.onlyMarks_commit {s : State} {core : Nat} (h : (s.core core).act.nothingHeld) (k : Mark) (all : Bool) :
    s.onlyMarks (s.commit core k all) core := by
  obtain ⟨ms, hms⟩ := Ctx.commitMark_of_nothingHeld h k all
  obtain ⟨hgate, -, hgang⟩ := h
  have hpush : (s.core core).act.releasedPushes k.cycle k.seq all = [] := by
    simp only [Ctx.releasedPushes, Ctx.settle, hgate, List.foldl_nil]
  have hc : s.commit core k all = s.onCore core fun c => { c with act := c.act.commitMark k all } := by
    simp only [State.commit, hpush, State.enterPushes, State.releasePops, hgang]
  rw [hc]
  refine ⟨s.onlyCore_onCore core _, ms, (s.core core).act.sinceMark, ?_⟩
  rw [State.core_onCore, hms]

theorem State.onlyMarks_commitReady {s : State} {core : Nat} (h : (s.core core).act.nothingHeld) (fuel : Nat) :
    s.onlyMarks (s.commitReady core fuel) core := by
  induction fuel generalizing s with
  | zero => exact s.onlyMarks_refl core
  | succ fuel ih =>
    rw [State.commitReady]
    split
    · exact s.onlyMarks_refl core
    · next k _ =>
      have hk := State.onlyMarks_commit h k false
      exact hk.trans (ih (hk.nothingHeld h))

/-- A mark that frees nothing. -/
theorem State.onlyMarks_mark {s : State} {core : Nat} (h : (s.core core).act.nothingHeld) :
    s.onlyMarks (s.mark core) core := by
  have ht : s.onlyMarks (s.onCore core fun c => { c with act := c.act.takeMark s.cycle }) core :=
    ⟨s.onlyCore_onCore core _, _, 0, State.core_onCore s core _⟩
  exact ht.trans (State.onlyMarks_commitReady (ht.nothingHeld h) _)

/-- CONTEXT_SWAP when it is due: the marks of the outgoing context, and the exchange. -/
theorem exec_contextSwap_due {s : State} {core : Nat} (hcore : core < 512) (h : s.swapDue core = true)
    (hx : (s.core core).act.nothingHeld) : ∃ t, s.onlyMarks t core ∧
      exec (.contextSwap core) s = .next (t.onCore core fun c => c.exchange s.cycle) := by
  have he : exec (.contextSwap core) s = execContextSwap core s := rfl
  let s1 := if (s.core core).act.canRun then s.mark core else s
  have h1 : s.onlyMarks s1 core := by
    by_cases hr : (s.core core).act.canRun = true
    · rw [show s1 = s.mark core from if_pos hr]
      exact State.onlyMarks_mark hx
    · rw [show s1 = s from if_neg hr]
      exact s.onlyMarks_refl core
  refine ⟨s1.commit core ⟨(s1.core core).act.seq, s.cycle, false, (s1.core core).act.regs⟩ true,
    h1.trans (State.onlyMarks_commit (h1.nothingHeld hx) _ _), ?_⟩
  rw [he, execContextSwap, if_neg (by omega), if_pos h]

end Sys2Proof.Machine
end

section
/-! SUPPORT. The wait table and saved contexts (R244, R306). -/

namespace Sys2Proof.Machine

/-- A core changed leaves the dies. -/
theorem State.die_onCore (s : State) (n d : Nat) (f : Core → Core) : (s.onCore n f).die d = s.die d := rfl

/-- When a context may park (R306). -/
theorem State.parkable_iff (s : State) (core : Nat) : s.parkable core = true ↔
    (s.core core).act.phase = .running ∧ (s.core core).act.held = false ∧ (s.core core).act.trap = none ∧
      (s.core core).act.atMark = true ∧ ((s.core core).act.atWait = true ∨ (s.core core).act.heldPop ≠ none) ∧
      (s.core core).act.heldSince + 512 ≤ s.cycle ∧ (s.core core).swapWanted = none := by
  simp only [State.parkable, Bool.and_eq_true, decide_eq_true_eq, Bool.not_eq_true', Option.isNone_iff_eq_none, Bool.or_eq_true,
    Option.isSome_iff_ne_none]
  tauto

/-- PARK with a second context that can run: the context parks, or is refused when the table is full (R306). -/
theorem exec_park_shadow {s : State} {core : Nat} (hcore : core < 512) (hp : s.parkable core = true)
    (hs : s.shadowRuns core = true) : exec (.park core) s = .next (if 1024 ≤ (s.die (core / 32)).parked.length then
      (s.onDie (core / 32) fun k => { k with wtfull := min (k.wtfull + 1) 0xFFFFFFFF }).onCore core fun c =>
        { c with act := { c.act with heldSince := s.cycle } }
    else (s.onDie (core / 32) fun k => { k with parked := k.parked ++ [⟨core, (s.core core).act.cid⟩] }).onCore core fun c =>
      c.request 3) := by
  have hx : exec (.park core) s = execPark core s := rfl
  have hd : s.parkDue core = true := by simp [State.parkDue, hp, hs]
  rw [hx, execPark, if_neg (by omega), if_pos hd]
  simp only [dieOf, hs, if_true]
  split <;> rfl

/-- A context that may not park does not. -/
theorem exec_park_none {s : State} {core : Nat} (hcore : core < 512) (hp : s.parkable core = false) :
    exec (.park core) s = .next s := by
  have hx : exec (.park core) s = execPark core s := rfl
  have hd : ¬ s.parkDue core = true := by simp [State.parkDue, hp]
  rw [hx, execPark, if_neg (by omega), if_neg hd]

/-- Is a context parked, in the words of R306? -/
theorem State.isParked_iff (s : State) (core : Nat) (x : Ctx) : s.isParked core x = true ↔
    ∃ p ∈ (s.die (core / 32)).parked, p.core = core ∧ p.cid = x.cid := by
  simp only [State.isParked, dieOf, List.any_eq_true, Bool.and_eq_true, decide_eq_true_eq, beq_iff_eq]

/-- The condition of a context that waits at no pop. -/
theorem State.conditionHolds_of_waits {s : State} {core : Nat} {x : Ctx} (hp : x.heldPop = none)
    (hc : ∀ tl n scope, Wait.count tl n scope ∈ x.waits → n ≤ (x.timeline tl).c)
    (ho : ∀ tl n, Wait.outstanding tl n ∈ x.waits → (x.timeline tl).out.length ≤ n) : s.conditionHolds core x = true := by
  simp only [State.conditionHolds, hp, Bool.and_true, List.all_eq_true]
  intro w hw
  cases w with
  | count tl n scope => exact decide_eq_true (hc tl n scope hw)
  | outstanding tl n => exact decide_eq_true (ho tl n hw)
  | barrier _ => rfl
  | stores _ => rfl

/-- WAIT_TABLE_WAKE of a parked context whose condition holds (R306). -/
theorem exec_waitTableWake_due {s : State} {core : Nat} (hcore : core < 512)
    (hp : s.isParked core (s.core core).shadow = true) (hc : s.conditionHolds core (s.core core).shadow = true) :
    exec (.waitTableWake core) s = .next (if (s.core core).swapWanted = none ∧ (s.core core).act.gang = none then
      (s.unpark core (s.core core).shadow.cid).onCore core fun c => c.request 3
    else s.unpark core (s.core core).shadow.cid) := by
  have hx : exec (.waitTableWake core) s = execWaitTableWake core s := rfl
  have hd : s.wakeDue core = true := by simp [State.wakeDue, hp, hc]
  rw [hx, execWaitTableWake, if_neg (by omega), if_pos hd]
  simp only [Ctx.yields, Bool.and_eq_true, Option.isNone_iff_eq_none]

/-- A context that is not parked is not woken. -/
theorem exec_waitTableWake_none {s : State} {core : Nat} (hcore : core < 512)
    (hp : ¬ s.isParked core (s.core core).shadow = true) : exec (.waitTableWake core) s = .next s := by
  have hx : exec (.waitTableWake core) s = execWaitTableWake core s := rfl
  have hd : ¬ s.wakeDue core = true := by simp [State.wakeDue, hp]
  rw [hx, execWaitTableWake, if_neg (by omega), if_neg hd]

/-- An entry taken out of the wait table. -/
theorem State.mem_parked_unpark (s : State) (core : Nat) (cid : Bool) (p : Parked) :
    p ∈ ((s.unpark core cid).die (core / 32)).parked ↔
      p ∈ (s.die (core / 32)).parked ∧ ¬ (p.core = core ∧ p.cid = cid) := by
  have hd : (s.unpark core cid).die (core / 32) = { s.die (core / 32) with
      parked := (s.die (core / 32)).parked.filter fun p => !(decide (p.core = core) && (p.cid == cid)) } :=
    State.die_onDie s (core / 32) _
  rw [hd]
  simp only [List.mem_filter, Bool.not_eq_true', Bool.and_eq_false_iff, decide_eq_false_iff_not, beq_eq_false_iff_ne, ne_eq]
  tauto

/-- Firmware saves or restores a context through the block of its core. -/
theorem State.onBlock_blockAt (s : State) (core : Nat) (f : Nat → State) :
    s.onBlock (core / 32) (blockAt core 0) f = f core := by
  have hb : blockCore (core / 32) (blockAt core 0) = some core := by
    rw [blockCore, if_pos (blockAt_range (by omega)), blockAt_core (by omega)]
  rw [State.onBlock, hb]

theorem exec_registerWrite_saves {core : Nat} (hcore : core < 512) (key : Word) (s : State) :
    exec (.registerWrite .saves (core / 32) (blockAt core 0) key) s = .next (s.saveContext core key) := by
  have hx : exec (.registerWrite .saves (core / 32) (blockAt core 0) key) s =
    execRegisterWrite .saves (core / 32) (blockAt core 0) key s := rfl
  rw [hx, execRegisterWrite, if_neg (by omega)]
  exact congrArg Host.Outcome.next (s.onBlock_blockAt core _)

theorem exec_registerWrite_restores {core : Nat} (hcore : core < 512) (key : Word) (s : State) :
    exec (.registerWrite .restores (core / 32) (blockAt core 0) key) s = .next (s.restoreContext core key) := by
  have hx : exec (.registerWrite .restores (core / 32) (blockAt core 0) key) s =
    execRegisterWrite .restores (core / 32) (blockAt core 0) key s := rfl
  rw [hx, execRegisterWrite, if_neg (by omega)]
  exact congrArg Host.Outcome.next (s.onBlock_blockAt core _)

/-- When firmware may save a context that is out (log 121). -/
theorem State.savable_iff (s : State) (core : Nat) (x : Ctx) : s.savable core x = true ↔
    x.phase = .running ∧ x.gang = none ∧ (∀ e ∈ x.tl, e.2.out = []) ∧ x.gate = [] ∧
      ∀ p ∈ (s.die (core / 32)).parked, ¬ (p.core = core ∧ p.cid = x.cid) := by
  have hpark : (!s.isParked core x) = true ↔ ∀ p ∈ (s.die (core / 32)).parked, ¬ (p.core = core ∧ p.cid = x.cid) := by
    rw [Bool.not_eq_true', ← Bool.not_eq_true, State.isParked_iff]
    push Not
    rfl
  simp only [State.savable, Ctx.countersIdle, Bool.and_eq_true, hpark, decide_eq_true_eq, Option.isNone_iff_eq_none,
    List.all_eq_true, List.isEmpty_iff, and_assoc]

/-- The context that is out once it has been saved, with its banks. -/
def Core.savedUnder (c : Core) (key : Word) : Core :=
  { c with
    shadow := { c.shadow with task := none, phase := .none }
    saved := c.saved ++ [⟨key, c.shadow, c.pool.filter fun e => c.shadow.owns e.1⟩] }

/-- A context that may be saved, with no request pending. -/
theorem State.saveContext_of_savable {s : State} {core : Nat} (h : s.savable core (s.core core).shadow = true)
    (hw : (s.core core).swapWanted = none) (key : Word) :
    s.saveContext core key = s.onCore core fun c => c.savedUnder key := by
  have hs : s.saveContext core key = (s.onCore core fun c => { c with
      shadow := { (s.core core).shadow with task := none, phase := .none }
      saved := c.saved ++ [⟨key, (s.core core).shadow, c.pool.filter fun e => (s.core core).shadow.owns e.1⟩] }).settleSwap core :=
    if_pos h
  rw [hs, State.settleSwap_of_none (by rw [State.core_onCore]; exact hw)]
  rfl

/-- Are the shadow bank and the banks of a saved context free? -/
theorem Core.roomFor_iff (c : Core) (v : Saved) : c.roomFor v = true ↔ c.shadow.task = none ∧ c.act.phase ≠ .waiting ∧
    (c.act.task = none ∨ 64 - c.act.xb ≤ v.ctx.bankBase ∨ 64 - v.ctx.xb ≤ c.act.bankBase) := by
  simp only [Core.roomFor, Ctx.besides, Bool.and_eq_true, Bool.or_eq_true, decide_eq_true_eq, Option.isNone_iff_eq_none, ne_eq,
    and_assoc]

/-- The pool with the banks of a restored context. -/
theorem Core.read_restoreContext {c : Core} {v : Saved} (h : c.pool.wf = true) (hv : v.pool.wf = true)
    (ho : ∀ e ∈ v.pool, v.ctx.owns e.1 = true) (a : Nat) : Memory.read (c.restoreContext v).pool a =
      Memory.read (if v.ctx.owns a = true then v.pool else c.pool) a := by
  rw [Core.restoreContext, Memory.read_writeCells (Memory.wf_filter h fun a => !v.ctx.owns a),
    Memory.read_filter h fun a => !v.ctx.owns a]
  by_cases ha : v.ctx.owns a = true
  · simp only [ha, if_true, Memory.read, (get_eq_lookup hv a).1]
    rfl
  · have hn : lookup v.pool a = none := lookup_eq_none fun e he hae => ha (hae ▸ ho e he)
    simp only [ha, hn, if_false, Bool.not_false, if_true, Option.getD_none, Bool.false_eq_true]

/-- The first saved context of a key. -/
theorem find?_key {pre post : List Saved} {v : Saved} {key : Word} (h : ∀ u ∈ pre, u.key ≠ key) (hv : v.key = key) :
    (pre ++ v :: post).find? (fun v => decide (v.key = key)) = some v := by
  induction pre with
  | nil => simp [hv]
  | cons u pre ih =>
    rw [List.cons_append, List.find?_cons_of_neg (by simpa using h u List.mem_cons_self)]
    exact ih fun w hw => h w (List.mem_cons_of_mem u hw)

/-- A saved context comes back where there is room, and only there. -/
theorem State.restoreContext_of_saved {s : State} {core : Nat} {key : Word} {pre post : List Saved} {v : Saved}
    (hs : (s.core core).saved = pre ++ v :: post) (h : ∀ u ∈ pre, u.key ≠ key) (hv : v.key = key) :
    s.restoreContext core key = if (s.core core).roomFor v = true then
      (s.onCore core fun c => c.restoreContext v).onDie (core / 32) fun d => { d with
        reported := (d.reported.filter fun e => !decide (e.1 = core)) ++ [(core, 0)] }
    else s := by
  simp only [State.restoreContext, hs, find?_key h hv, dieOf]

/-- No context of the key is saved. -/
theorem State.restoreContext_of_unknown {s : State} {core : Nat} {key : Word} (h : ∀ u ∈ (s.core core).saved, u.key ≠ key) :
    s.restoreContext core key = s := by
  have hn : (s.core core).saved.find? (fun v => decide (v.key = key)) = none :=
    List.find?_eq_none.mpr fun u hu => by simpa using h u hu
  simp only [State.restoreContext, hn]

end Sys2Proof.Machine
end

section
/-! SUPPORT. The life of a task and the two contexts of a core, clause by clause. -/

namespace Sys2Proof.Machine

/-- Settles O59, clause by clause: the start of a task, its retirement and its killing, requests, swaps, the wait table,
saved contexts. -/
theorem tasksAndContexts : Obligations.TasksAndContexts := by
  unfold Obligations.TasksAndContexts
  refine ⟨fun s core τ l hcore ht hp hl hops hpane hwf => ?_, fun s core u hcore hp => ⟨fun hu hpar => ?_, fun hu _ hs => ?_⟩,
    fun s core τ l hcore ht hp hh htr hfp hpend hgate htl hrep hl hg hm htrace hq hbar hsw hdeps => ?_,
    fun s core hcore hp _ hs => exec_taskRetire_running hcore hp hs,
    fun s core hcore => ⟨exec_taskKill_none hcore, fun τ l ht hh hl hg hm htrace hq hbar hsw hdeps => ?_⟩,
    fun s core hcore => ?_, fun s core hcore => ?_, fun s core hcore => ?_, fun s core hcore => ?_, fun s core key hcore => ?_⟩
  · refine ⟨_, exec_taskStart_waiting hcore ht hp hl hops hpane, ?_, s.onlyCore_onCore core _⟩
    rw [State.core_onCore, show (s.core core).act.cid =
      (((s.core core).clearBanks ((s.core core).act.begin_ τ l s.cycle) l.image.preload).clearTrap).act.cid from rfl,
      Core.onCtx_act]
    exact ⟨rfl, rfl, rfl, rfl, rfl, rfl, rfl, rfl, rfl, rfl, rfl, rfl, rfl, rfl, rfl, rfl, rfl, rfl, rfl, rfl, rfl, rfl, rfl, rfl,
      rfl, rfl, rfl, rfl, rfl, fun a ha => Core.read_clearBanks_outside hwf _ _ ha,
      fun a h1 h2 h3 => Core.read_clearBanks_before hwf _ _ h1 h2 h3, fun a ha => Core.read_clearBanks_window hwf _ _ ha,
      rfl, rfl, rfl, rfl⟩
  · have hcl : (s.core core).act.cleared s.cycle = true := by simp only [Ctx.cleared, hp, hu, decide_true]
    refine ⟨_, exec_taskStart_cleared hcore hcl, ?_, ?_, fun g hg h1 h2 => ?_, s.onlyCore_onCore core _⟩
    · rw [State.core_onCore, Core.beginRun, Core.onCtx_act]
    · rw [State.core_onCore, Core.beginRun, Core.onCtx_act]
    · rw [State.core_onCore, Core.beginRun, Core.onCtx_act]
      refine (get_validGroups _ hpar g).trans (if_pos ?_)
      simpa [Ctx.ownGroups, hg] using ⟨h1, h2⟩
  · have hcl : (s.core core).act.cleared s.cycle = false := by
      simp only [Ctx.cleared, hp, decide_eq_false_iff_not]
      omega
    exact exec_taskStart_none hcore hcl (by simp [hp]) hs
  · have hr : (s.core core).retires (s.core core).act s.cycle = true := by
      simp [Core.retires, Ctx.flagPendingBefore, Ctx.countersIdle, hp, hh, htr, hfp, hpend, hgate, hrep]
      simpa using htl
    obtain ⟨-, hcores, hhbm, hhost, hqueues, -, k, hk, hgone⟩ :=
      State.taskLeaves_spec (core := core) (x := (s.core core).act) false hl hg hm htrace hq hdeps
    obtain ⟨hc, hne, hhbm', hhost', hqueues', hlaunch⟩ := State.core_changed_spec (core := core)
      (fun c => c.vacate (s.core core).act.cid) hcores (by rw [Core.vacate, Core.onCtx_act]; exact hsw)
    rw [Core.vacate, Core.onCtx_act] at hc
    refine ⟨_, k, exec_taskRetire_halted hcore ht hp hr, by rw [hc], by rw [hc], by rw [hc], by rw [hc], by rw [hc],
      by rw [hlaunch]; exact hk, by rw [hgone.killed, Bool.or_false], hgone.left, hgone.deps, hqueues'.trans hqueues, hne,
      hhbm'.trans hhbm, hhost'.trans hhost⟩
  · obtain ⟨-, hcores, hhbm, hhost, -, -, k, hk, hgone⟩ :=
      State.taskLeaves_spec (core := core) (x := (s.core core).act) true hl hg hm htrace hq hdeps
    obtain ⟨hc, hne, hhbm', hhost', -, hlaunch⟩ := State.core_changed_spec (core := core)
      (fun c => c.killed τ) hcores hsw
    exact ⟨_, k, exec_taskKill_held hcore ht hh hg, by rw [hc]; rfl, by rw [hc]; rfl, by rw [hc]; rfl, by rw [hc]; rfl,
      by rw [hc]; rfl, by rw [hlaunch]; exact hk, by rw [hgone.killed, Bool.or_true], hgone.left, hgone.deps, hne,
      hhbm'.trans hhbm, hhost'.trans hhost⟩
  · intro c request ready higher
    have hready : ready ↔ c.swapWanted = none ∧ s.shadowRuns core = true := and_congr_right' (s.shadowRuns_iff core).symm
    have hreq (n : Nat) : request (s.onCore core fun c => c.request n) n :=
      ⟨State.core_onCore s core _, s.onlyCore_onCore core _⟩
    refine ⟨fun hr h => ⟨_, ?_, hreq 0⟩, fun h => ?_, fun hr hg => ⟨_, ?_, hreq 1⟩, fun h => ?_⟩
    · rw [exec_swapRequest hcore, if_pos ((s.requestDue_iff core).mpr ⟨hready.mp hr, h⟩)]
    · have hn : ¬ s.requestDue core = true := by
        rw [State.requestDue_iff]
        rintro ⟨hr, hdue⟩
        obtain ⟨hcan, hhigh⟩ := h.resolve_left (not_not.mpr (hready.mpr hr))
        rcases hdue with hd | ⟨-, hd⟩
        · exact Bool.noConfusion (hcan.symm.trans hd)
        · exact hhigh hd
      rw [exec_swapRequest hcore, if_neg hn]
    · obtain ⟨hw, hs⟩ := hready.mp hr
      rw [exec_quantumExpiry hcore, if_pos ⟨hw, hs, hg⟩]
    · have hn : ¬ ((s.core core).swapWanted = none ∧ s.shadowRuns core = true ∧ (s.core core).act.gang = none) := by
        rintro ⟨hw, hs, hg⟩
        exact h.elim (fun hr => hr (hready.mpr ⟨hw, hs⟩)) fun hr => hr hg
      rw [exec_quantumExpiry hcore, if_neg hn]
  · intro c x settled
    have hset : settled ↔ (s.core core).settled s.cycle = true := (Core.settled_iff _ _).symm
    refine ⟨fun hw hs he hst hgate hem hgang => ?_, fun h => ?_⟩
    · obtain ⟨u, ⟨hu, ms, n, hc⟩, hx⟩ := exec_contextSwap_due hcore
        ((s.swapDue_iff core).mpr ⟨hw, hs, he, hset.mp hst⟩) ⟨hgate, hem, hgang⟩
      obtain ⟨-, hne, -, hhbm, hhost, -⟩ := hu
      refine ⟨_, hx, ?_, ?_, ?_, ?_, ?_, ?_, ?_, ?_, ?_, ?_, ?_, fun m hm => (State.core_onCore_ne u _ hm).trans (hne m hm), hhbm,
        hhost⟩
      all_goals rw [State.core_onCore, hc]; rfl
    · have he : exec (.contextSwap core) s = execContextSwap core s := rfl
      have hn : ¬ s.swapDue core = true := by
        rw [State.swapDue_iff, ← hset]
        rintro ⟨hw, hs, he, hst⟩
        rcases h with h | h | h | h
        · exact hw h
        · exact Bool.noConfusion (h.symm.trans hs)
        · exact absurd he (Nat.not_le.mpr h)
        · exact h hst
      rw [he, execContextSwap, if_neg (by omega), if_neg hn]
  · intro c x d parkable
    have hpark : parkable ↔ s.parkable core = true := (s.parkable_iff core).symm
    refine ⟨fun hp hs hd => ?_, fun hp hs hd => ?_, fun hp => exec_park_none hcore ?_⟩
    · refine ⟨_, exec_park_shadow hcore (hpark.mp hp) hs, ?_⟩
      rw [if_neg (Nat.not_le.mpr hd)]
      exact ⟨by rw [State.die_onCore, State.die_onDie], State.core_onCore _ core _, fun n hn => State.core_onCore_ne _ _ hn, rfl, rfl⟩
    · refine ⟨_, exec_park_shadow hcore (hpark.mp hp) hs, ?_⟩
      obtain ⟨-, -, -, -, -, -, hw⟩ := hp
      rw [if_pos hd, State.core_onCore]
      exact ⟨by rw [State.die_onCore, State.die_onDie], rfl, hw, fun n hn => State.core_onCore_ne _ _ hn, rfl, rfl⟩
    · rw [← Bool.not_eq_true, ← hpark]
      exact hp
  · intro c x parked holds
    have hpk : parked ↔ s.isParked core x = true := (s.isParked_iff core x).symm
    refine ⟨fun hp ⟨hwaits, hpop⟩ => ?_, fun hp => exec_waitTableWake_none hcore fun h => hp (hpk.mpr h)⟩
    have hcond : s.conditionHolds core x = true := State.conditionHolds_of_waits hpop
      (fun tl n scope hw => hwaits (.count tl n scope) hw) fun tl n hw => hwaits (.outstanding tl n) hw
    refine ⟨_, exec_waitTableWake_due hcore (hpk.mp hp) hcond, ?_⟩
    split
    · exact ⟨s.mem_parked_unpark core _, by rw [State.core_onCore]; rfl, by rw [State.core_onCore]; rfl,
        fun n hn => State.core_onCore_ne _ _ hn, rfl, rfl⟩
    · exact ⟨s.mem_parked_unpark core _, rfl, rfl, fun n hn => rfl, rfl, rfl⟩
  · intro c x wr savable
    have hsav : savable ↔ s.savable core x = true := (s.savable_iff core x).symm
    refine ⟨fun hs hw => ⟨_, ⟨key, x, c.pool.filter fun e => x.owns e.1⟩,
      exec_registerWrite_saves hcore key s, ?_⟩, fun hs => ?_, fun pre v post hsv hpre hkey => ?_,
      fun hk => ?_⟩
    · rw [State.saveContext_of_savable (hsav.mp hs) hw]
      exact ⟨s.onlyCore_onCore core _, State.core_onCore s core _, rfl, rfl, rfl⟩
    · exact (exec_registerWrite_saves hcore key s).trans (congrArg _ (if_neg fun h => hs (hsav.mpr h)))
    · intro room
      have hroom : room ↔ c.roomFor v = true := (c.roomFor_iff v).symm
      refine ⟨fun hr hpool hvp hown => ⟨_, exec_registerWrite_restores hcore key s, ?_⟩, fun hr => ?_⟩
      · rw [State.restoreContext_of_saved hsv hpre hkey, if_pos (hroom.mp hr)]
        refine ⟨by rw [State.core_onDie, State.core_onCore]; rfl, by rw [State.core_onDie, State.core_onCore]; rfl, fun a => ?_,
          ?_, fun n hn => by rw [State.core_onDie, State.core_onCore_ne s _ hn], rfl, rfl⟩
        · rw [State.core_onDie, State.core_onCore]
          exact Core.read_restoreContext hpool hvp hown a
        · rw [State.die_onDie]
          exact lookup_concat _ core 0
      · refine (exec_registerWrite_restores hcore key s).trans ?_
        rw [State.restoreContext_of_saved hsv hpre hkey, if_neg fun h => hr (hroom.mpr h)]
    · exact (exec_registerWrite_restores hcore key s).trans (congrArg _ (State.restoreContext_of_unknown hk))

end Sys2Proof.Machine
end

section
/-! SUPPORT. The host's writes in their turn, its messages, and its reads and writes of registers (R340, R341, R343, R347). -/

namespace Sys2Proof.Machine

/-! ## Lists of bytes -/

theorem mem_insertBy {α : Type} (key : α → Nat) (x y : α) (l : List α) : y ∈ insertBy key x l ↔ y = x ∨ y ∈ l := by
  induction l with
  | nil => simp [insertBy]
  | cons z l ih =>
    rw [insertBy]
    split
    · rw [List.mem_cons]
    · rw [List.mem_cons, ih, List.mem_cons]
      tauto

/-- Sorting keeps what a list holds. -/
theorem mem_sortBy {α : Type} (key : α → Nat) (y : α) (l : List α) : y ∈ sortBy key l ↔ y ∈ l := by
  induction l with
  | nil => rfl
  | cons x l ih => rw [sortBy, mem_insertBy, ih, List.mem_cons]

/-- What consecutive cells hold for an address. -/
theorem lookup_cellsAt (l : List Byte) (a b : Nat) :
    lookup (cellsAt a l) b = if a ≤ b ∧ b < a + l.length then some (nth0 l (b - a)) else none := by
  induction l generalizing a with
  | nil => simp [cellsAt, lookup]
  | cons x l ih =>
    rw [cellsAt, lookup, ih]
    rcases Nat.lt_trichotomy b a with h | rfl | h
    · rw [if_neg (by omega), if_neg (by omega : ¬ b = a), if_neg (by simp only [List.length_cons]; omega)]
    · rw [if_neg (by omega), if_pos rfl, if_pos (by simp only [List.length_cons]; omega), Nat.sub_self]
      rfl
    · have hlen : (x :: l).length = l.length + 1 := rfl
      by_cases hl : b < a + 1 + l.length
      · rw [if_pos (show a + 1 ≤ b ∧ b < a + 1 + l.length by omega),
          if_pos (show a ≤ b ∧ b < a + (x :: l).length by omega), show b - a = (b - (a + 1)) + 1 by omega]
        rfl
      · rw [if_neg (show ¬ (a + 1 ≤ b ∧ b < a + 1 + l.length) by omega), if_neg (show ¬ b = a by omega),
          if_neg (show ¬ (a ≤ b ∧ b < a + (x :: l).length) by omega)]

/-- Consecutive bytes written are the cells written in order. -/
theorem Memory.writeBytes_eq (m : Memory) (a : Nat) (l : List Byte) : m.writeBytes a l = m.writeCells (cellsAt a l) := by
  induction l generalizing m a with
  | nil => rfl
  | cons b l ih => exact ih (m.write a b) (a + 1)

/-- Writing consecutive bytes, in the words of the specification. -/
theorem bytesWritten_writeBytes {m : Memory} (h : m.wf = true) (a : Nat) (l : List Byte) :
    bytesWritten m (m.writeBytes a l) a l := by
  intro b
  rw [Memory.writeBytes_eq, Memory.read_writeCells h, lookup_cellsAt]
  split <;> rfl

/-! ## Turns (R343, R347) -/

/-- A posted write of the host other than a register's: whether it goes to the control window. -/
def HostPosted (i : Instr) (control : Bool) : Prop :=
  (control = true ∧ ∃ off bytes, i = .hostMemoryWrite ⟨.control, off⟩ bytes) ∨
    (control = false ∧ ((∃ slot words, slot < 1024 ∧ i = .hostMessage slot words) ∨
      ∃ space off bytes, (space = .window ∨ space = .mailbox) ∧ i = .hostMemoryWrite ⟨space, off⟩ bytes))

/-- Is a posted write taken up at all: the link is up and, but for the control window, bring-up is done? -/
def State.takesUp (s : State) (control : Bool) : Bool := !s.hostDown && (control || decide ((s.die 0).stage = 6))

theorem exec_hostMessage {slot : Nat} (h : slot < 1024) (words : List Word) (s : State) :
    exec (.hostMessage slot words) s = .next (if s.takesUp false = true then
      s.hostTurn (.hostMessage slot words) s.postedReady fun s => s.takeMessage slot words else s) := by
  have hx : exec (.hostMessage slot words) s = execHostMessage slot words s := rfl
  have ho : s.hostOpen = s.takesUp false := by
    rw [State.hostOpen, State.takesUp, Bool.false_or, Bool.and_comm]
  rw [hx, execHostMessage, if_neg (by omega), ho]
  cases s.takesUp false <;> rfl

theorem exec_hostMemoryWrite_control (off : Nat) (bytes : List Byte) (s : State) :
    exec (.hostMemoryWrite ⟨.control, off⟩ bytes) s = .next (if s.takesUp true = true then
      s.hostTurn (.hostMemoryWrite ⟨.control, off⟩ bytes) s.postedReady fun s => s.controlWrite off bytes else s) := by
  have hx : exec (.hostMemoryWrite ⟨.control, off⟩ bytes) s = .next (if s.hostDown then s else
    s.hostTurn (.hostMemoryWrite ⟨.control, off⟩ bytes) s.postedReady fun s => s.controlWrite off bytes) := rfl
  rw [hx, State.takesUp]
  cases s.hostDown <;> rfl

theorem exec_hostMemoryWrite_window (off : Nat) (bytes : List Byte) (s : State) :
    exec (.hostMemoryWrite ⟨.window, off⟩ bytes) s = .next (if s.takesUp false = true then
      s.hostTurn (.hostMemoryWrite ⟨.window, off⟩ bytes) s.postedReady fun s => s.hostWrite off bytes else s) := by
  have hx : exec (.hostMemoryWrite ⟨.window, off⟩ bytes) s = .next (if s.hostOpen then
    s.hostTurn (.hostMemoryWrite ⟨.window, off⟩ bytes) s.postedReady (fun s => s.hostWrite off bytes) else s) := rfl
  rw [hx, State.hostOpen, State.takesUp, Bool.false_or, Bool.and_comm]

theorem exec_hostMemoryWrite_mailbox (off : Nat) (bytes : List Byte) (s : State) :
    exec (.hostMemoryWrite ⟨.mailbox, off⟩ bytes) s = .next (if s.takesUp false = true then
      s.hostTurn (.hostMemoryWrite ⟨.mailbox, off⟩ bytes) s.postedReady fun s => s.spaceWrite off bytes else s) := by
  have hx : exec (.hostMemoryWrite ⟨.mailbox, off⟩ bytes) s = .next (if s.hostOpen then
    s.hostTurn (.hostMemoryWrite ⟨.mailbox, off⟩ bytes) s.postedReady (fun s => s.spaceWrite off bytes) else s) := rfl
  rw [hx, State.hostOpen, State.takesUp, Bool.false_or, Bool.and_comm]

/-- A posted write is taken up in its turn, or discarded. -/
theorem exec_of_hostPosted {i : Instr} {control : Bool} (h : HostPosted i control) (s : State) :
    ∃ body, exec i s = .next (if s.takesUp control = true then s.hostTurn i s.postedReady body else s) := by
  rcases h with ⟨rfl, off, bytes, rfl⟩ | ⟨rfl, ⟨slot, words, hs, rfl⟩ | ⟨space, off, bytes, rfl | rfl, rfl⟩⟩
  · exact ⟨_, exec_hostMemoryWrite_control off bytes s⟩
  · exact ⟨_, exec_hostMessage hs words s⟩
  · exact ⟨_, exec_hostMemoryWrite_window off bytes s⟩
  · exact ⟨_, exec_hostMemoryWrite_mailbox off bytes s⟩

theorem State.takesUp_iff (s : State) (control : Bool) : s.takesUp control = true ↔
    s.hostDown = false ∧ (control = true ∨ (s.die 0).stage = 6) := by
  simp only [State.takesUp, Bool.and_eq_true, Bool.not_eq_true', Bool.or_eq_true, decide_eq_true_eq]

/-- A posted write that cannot be taken yet waits. -/
theorem State.hostTurn_waits {s : State} (hnil : s.hostWait = [])
    (h : (∃ id ∈ s.hostSent, s.visible id = false) ∨ 64 ≤ s.hostMessages) (i : Instr) (body : State → State) :
    s.hostTurn i s.postedReady body = { s with hostWait := [i] } := by
  have hn : ¬ s.postedReady = true := by
    rw [State.postedReady_iff]
    rintro ⟨hv, hm⟩
    rcases h with ⟨id, hid, hf⟩ | h
    · exact Bool.noConfusion (hf.symm.trans (hv id hid))
    · omega
  rw [State.hostTurn_nil hnil, if_neg hn]

/-- A posted write that can be taken is. -/
theorem State.hostTurn_ready {s : State} (hnil : s.hostWait = []) (hv : ∀ id ∈ s.hostSent, s.visible id = true)
    (hm : s.hostMessages < 64) (i : Instr) (body : State → State) : s.hostTurn i s.postedReady body = body s := by
  rw [State.hostTurn_nil hnil, if_pos ((State.postedReady_iff s).mpr ⟨hv, hm⟩)]

/-- A host access behind another one waits behind it. -/
theorem State.hostTurn_behind {s : State} {i j : Instr} {l : List Instr} (hw : s.hostWait = j :: l) (hij : i ≠ j)
    (ready : Bool) (body : State → State) : s.hostTurn i ready body = { s with hostWait := s.hostWait ++ [i] } := by
  simp only [State.hostTurn, hw, if_neg fun h : j = i ∧ ready = true => hij h.1.symm]

/-! ## Messages (R341) -/

/-- A well-formed message joins those that await acceptance at its registration. -/
theorem State.takeMessage_registered {s : State} {slot : Nat} {words : List Word} {m : Mailbox}
    (hm : Store.get none s.dist.mailboxes slot = some m) (hw : words.length = 16) (h1 : 1 ≤ (nth0 words 0).toNat % 16)
    (h12 : (nth0 words 0).toNat % 16 ≤ 12) : s.takeMessage slot words =
      s.post slot 2 0 0 ⟨0, 0xFFFF, none, words.take 13, 0, []⟩ := by
  rw [State.takeMessage, if_pos ⟨hw, h1, h12, by rw [hm]; rfl⟩]

/-- Any other message sets MB. -/
theorem State.takeMessage_refused {s : State} {slot : Nat} {words : List Word}
    (h : Store.get none s.dist.mailboxes slot = none ∨ words.length ≠ 16 ∨ (nth0 words 0).toNat % 16 = 0 ∨
      12 < (nth0 words 0).toNat % 16) : s.takeMessage slot words = s.hostBit 2 := by
  refine if_neg ?_
  rintro ⟨hw, h1, h12, hm⟩
  rcases h with h | h | h | h
  · rw [h] at hm
    exact Bool.noConfusion hm
  · exact h hw
  · omega
  · omega

/-- What a message changes of its registration. -/
theorem State.mailbox_post {s : State} {slot : Nat} {m : Mailbox} (hm : Store.get none s.dist.mailboxes slot = some m)
    (kind core tl : Nat) (msg : Message) : ∃ key, Store.get none (s.post slot kind core tl msg).dist.mailboxes slot =
      some { m with waiting := sortBy (fun (e : Message) => e.order) (m.waiting ++ [{ msg with order := key }]) } := by
  refine ⟨s.cycle * 2 ^ 20 + kind * 2 ^ 16 + core * 32 + tl, ?_⟩
  simp only [State.post, State.onMailbox, State.onDist, hm]
  exact Store.get_insert_same _ _ _ _

/-- A list of sixteen words from its entries. -/
theorem words16_eq {words : List Word} (h : words.length = 16) {f : Nat → Word} (hf : ∀ k, k < 16 → nth0 words k = f k) :
    (List.range 16).map f = words := by
  refine List.ext_getElem (by simp [h]) fun k h1 h2 => ?_
  have hk : k < 16 := by omega
  rw [List.getElem_map, List.getElem_range, ← hf k hk, nth0, List.getD_eq_getElem _ _ h2]

/-- A write of an aligned slot of the mailbox space is a message (R341). -/
theorem State.spaceWrite_slot {s : State} {slot : Nat} {words : List Word} {bytes : List Byte} (hs : slot < 1024)
    (hb : bytes.length = 64) (hw : words.length = 16)
    (hf : ∀ k, k < 16 → nth0 words k = BitVec.ofNat 32 (ofBytes ((bytes.drop (4 * k)).take 4))) :
    s.spaceWrite (64 * slot) bytes = s.takeMessage slot words := by
  rw [State.spaceWrite, if_pos ⟨by omega, hb, by omega⟩, words16_eq hw hf, Nat.mul_div_cancel_left _ (by omega)]

/-- A write of the mailbox space of another extent sets MB. -/
theorem State.spaceWrite_other {s : State} {off : Nat} {bytes : List Byte}
    (h : off % 64 ≠ 0 ∨ bytes.length ≠ 64 ∨ 65536 ≤ off) : s.spaceWrite off bytes = s.hostBit 2 := by
  refine if_neg ?_
  rintro ⟨h1, h2, h3⟩
  rcases h with h | h | h
  · exact h h1
  · exact h h2
  · omega

/-! ## Registers (R340) -/

/-- The bytes of a word, one by one. -/
theorem toBytes_eq_map (x n : Nat) : (List.range n).map (fun k => ((toBytes x n).drop k).headD 0#8) = toBytes x n := by
  have hlen : (toBytes x n).length = n := by
    induction n generalizing x with
    | zero => rfl
    | succ n ih => simp [toBytes, ih]
  refine List.ext_getElem (by simp [hlen]) fun k h1 h2 => ?_
  rw [List.getElem_map, List.getElem_range, List.drop_eq_getElem_cons h2]
  rfl

/-- A word of the control window as the host reads it. -/
theorem State.controlBytes_word (s : State) {off : Nat} (h : off % 4 = 0) : s.controlBytes off 4 =
    toBytes (s.readRegister (off / 2 ^ 22 % 16) (off % 2 ^ 22)).toNat 4 := by
  rw [← toBytes_eq_map, State.controlBytes]
  refine List.map_congr_left fun k hk => ?_
  have hk4 := List.mem_range.mp hk
  have hdie : (off + k) / 2 ^ 22 % 16 = off / 2 ^ 22 % 16 := by omega
  have hbyte : (off + k) % 2 ^ 22 % 4 = k := by omega
  have hword : (off + k) % 2 ^ 22 - k = off % 2 ^ 22 := by omega
  simp only [controlPlace, hdie, hbyte, hword]

/-- A host read of a word of BAR0 other than SPDAT (R340). -/
theorem State.controlRead_word (s : State) {off : Nat} (h : off % 4 = 0)
    (hs : off % 2 ^ 22 < 0x10000 ∨ 0x12000 ≤ off % 2 ^ 22 ∨ off % 0x100 ≠ 0x44) : s.controlRead off 4 =
      { s with answer := some ⟨true, toBytes (s.readRegister (off / 2 ^ 22 % 16) (off % 2 ^ 22)).toNat 4⟩ } := by
  rw [← s.controlBytes_word h, State.controlRead]
  refine if_neg ?_
  simp only [controlPlace]
  omega

end Sys2Proof.Machine
end

section
/-! SUPPORT. The host's memory window: its pages, and what it writes and reads there (R313, R315, R316, R330, R342). -/

namespace Sys2Proof.Machine

/-! ## Steps that touch the controllers of the dies only -/

/-- Nothing but the controllers of the dies changes, and the free values drawn. -/
def State.onlyDies (s t : State) : Prop := t = { s with free := t.free, dies := t.dies }

theorem State.onlyDies_refl (s : State) : s.onlyDies s := rfl

theorem State.onlyDies.trans {s t u : State} (h : s.onlyDies t) (h' : t.onlyDies u) : s.onlyDies u := by
  rw [State.onlyDies] at h h' ⊢
  rw [h']
  dsimp only
  rw [h]

theorem State.onlyDies_draw (s : State) : s.onlyDies s.draw.2 := rfl

theorem State.onlyDies_onDie (s : State) (d : Nat) (f : Die → Die) : s.onlyDies (s.onDie d f) := rfl

/-- A die changed in a way that leaves one of its fields leaves it everywhere. -/
theorem State.onDie_field {α : Type} (g : Die → α) {f : Die → Die} (hf : ∀ d, g (f d) = g d) (s : State) (n k : Nat) :
    g ((s.onDie n f).die k) = g (s.die k) := by
  by_cases h : k = n
  · subst h
    rw [State.die_onDie, hf]
  · rw [State.die_onDie_ne s f h]

/-- Nothing changes but what the controllers of the dies keep of translations and far lines. -/
def State.onlyKept (s t : State) : Prop := s.onlyDies t ∧ ∀ k, (t.die k).incoming = (s.die k).incoming

theorem State.onlyKept_refl (s : State) : s.onlyKept s := ⟨s.onlyDies_refl, fun _ => rfl⟩

theorem State.onlyKept.trans {s t u : State} (h : s.onlyKept t) (h' : t.onlyKept u) : s.onlyKept u :=
  ⟨h.1.trans h'.1, fun k => (h'.2 k).trans (h.2 k)⟩

/-- A die changed, what is on its way to it left, after a free value is drawn. -/
theorem State.onlyKept_onDie (s : State) (d : Nat) {f : Die → Die} (hf : ∀ e, (f e).incoming = e.incoming) :
    s.onlyKept (s.draw.2.onDie d f) :=
  ⟨s.onlyDies_draw.trans (State.onlyDies_onDie _ d f), fun k => State.onDie_field (fun e => e.incoming) hf s.draw.2 d k⟩

/-- Steps in a row that keep what is on its way keep it. -/
theorem State.onlyKept_foldl {α : Type} {f : State → α → State} (hf : ∀ (s : State) (x : α), s.onlyKept (f s x))
    (l : List α) (s : State) : s.onlyKept (l.foldl f s) := by
  induction l generalizing s with
  | nil => exact s.onlyKept_refl
  | cons x l ih => exact (hf s x).trans (ih (f s x))

theorem State.onlyKept_install (s : State) (die eng asid va : Nat) (l : Leaf) :
    s.onlyKept (s.install die eng asid va l) := by
  unfold State.install
  exact s.onlyKept_onDie die (by intro e; rfl)

theorem State.onlyKept_keepWalk (s : State) (die eng asid va : Nat) : s.onlyKept (s.keepWalk die eng asid va) := by
  have htables (path : List (Nat × Nat)) : s.onlyKept (s.installTables die eng asid va path) :=
    State.onlyKept_foldl (fun s p => s.onlyKept_onDie die (by intro e; rfl)) path s
  rw [State.keepWalk]
  split
  · exact (htables _).trans (State.onlyKept_install _ die eng asid va _)
  · exact htables _

theorem State.onlyKept_keepPages (s : State) (pages : List (Nat × Nat)) : s.onlyKept (s.keepPages pages) := by
  refine State.onlyKept_foldl (fun s p => ?_) pages s
  split
  · exact s.onlyKept_refl
  · exact s.onlyKept_keepWalk _ _ _ _

theorem State.onlyKept_maybeInstall (s : State) (die line : Nat) : s.onlyKept (s.maybeInstall die line) := by
  rw [State.maybeInstall]
  split
  · exact s.onlyKept_refl
  · dsimp only
    split
    · exact s.onlyKept_onDie die (by intro e; rfl)
    · exact ⟨s.onlyDies_draw, fun _ => rfl⟩

/-! ## Blocks on their way (R313, R314, R316) -/

/-- The cells of a list are those of its first part and of its rest. -/
theorem cellsAt_take_drop (a n : Nat) (l : List Byte) :
    cellsAt a (l.take n) ++ cellsAt (a + n) (l.drop n) = cellsAt a l := by
  induction l generalizing a n with
  | nil => simp [cellsAt]
  | cons b l ih =>
    cases n with
    | zero => rfl
    | succ n =>
      have h := ih (a + 1) n
      rw [show a + 1 + n = a + (n + 1) by omega] at h
      exact congrArg ((a, b) :: ·) h

/-- The 64-byte blocks of consecutive bytes: together the bytes, each within one aligned block and none empty. -/
theorem blocks64_spec (fuel a : Nat) (l : List Byte) (h : l.length < fuel) :
    ((blocks64 fuel a l).map fun b => cellsAt b.1 b.2).flatten = cellsAt a l ∧
      ∀ b ∈ blocks64 fuel a l, b.2 ≠ [] ∧ b.1 % 64 + b.2.length ≤ 64 := by
  induction fuel generalizing a l with
  | zero => omega
  | succ fuel ih =>
    rw [blocks64]
    cases l with
    | nil => exact ⟨rfl, fun b hb => absurd hb List.not_mem_nil⟩
    | cons x l =>
      have hlen : ((x :: l).drop (64 - a % 64)).length < fuel := by
        simp only [List.length_drop, List.length_cons] at h ⊢
        omega
      obtain ⟨hcells, hall⟩ := ih (a + (64 - a % 64)) _ hlen
      simp only [List.isEmpty_cons, Bool.false_eq_true, if_false, List.map_cons, List.flatten_cons, hcells,
        cellsAt_take_drop]
      refine ⟨trivial, fun b hb => ?_⟩
      rcases List.mem_cons.mp hb with rfl | hb
      · refine ⟨fun he => ?_, ?_⟩
        · have := congrArg List.length he
          simp only [List.length_take, List.length_cons, List.length_nil] at this
          omega
        · simp only [List.length_take]
          omega
      · exact hall b hb

/-- A die that numbers a write (R316). -/
def Die.numbers (d : Die) (n id : Nat) : Die :=
  { d with sent := n, unseen := d.unseen ++ [(n, id)], open_ := d.open_ ++ [(n, id)] }

/-- A die to which a write is on its way. -/
def Die.expects (d : Die) (w : Stamped) : Die := { d with incoming := d.incoming ++ [w] }

/-- One block is sent: numbered on the sending die, it joins what is on its way to its home. -/
theorem State.sendBlock_spec (s : State) (die id : Nat) (v : Store Nat) (space a : Nat) (bytes : List Byte) :
    let t := s.sendBlock die id (some v) true space [] a bytes
    ∃ w : Stamped, (w.id = id ∧ w.src = die ∧ w.home = true ∧ w.space = space ∧ w.watched = true ∧ s.cycle < w.due ∧
        w.clock = v) ∧ w.num = (s.die die).sent + 1 ∧ w.addr = a ∧ w.bytes = bytes ∧ s.onlyDies t ∧
      (t.die die).sent = (s.die die).sent + 1 ∧ s.sent t [w] die space := by
  let u := s.onDie die fun d => d.numbers ((s.die die).sent + 1) id
  let w : Stamped := ⟨id, die, (s.die die).sent + 1, v, true, space, a, bytes, true, s.cycle + 1 + u.draw.1⟩
  let home := if space = 0 then homeDie a else die
  have ht : s.sendBlock die id (some v) true space [] a bytes = u.draw.2.onDie home fun d => d.expects w := rfl
  refine ⟨w, ⟨rfl, rfl, rfl, rfl, rfl, by simp only [w]; omega, rfl⟩, rfl, rfl, rfl, ht ▸ rfl, ?_, fun k => ?_⟩
  · rw [ht, State.onDie_field (fun d => d.sent) (f := fun d => d.expects w) fun _ => rfl]
    have hu : u.draw.2.die die = (s.die die).numbers ((s.die die).sent + 1) id :=
      State.die_onDie s die fun d => d.numbers ((s.die die).sent + 1) id
    rw [hu, Die.numbers]
  · have hin (k : Nat) : (u.draw.2.die k).incoming = (s.die k).incoming :=
      State.onDie_field (fun d => d.incoming) (f := fun d => d.numbers ((s.die die).sent + 1) id) (fun _ => rfl) s die k
    rw [ht]
    by_cases hk : home = k
    · subst hk
      rw [State.die_onDie, List.filter_cons_of_pos (by simp [home, w]), List.filter_nil]
      exact congrArg (· ++ [w]) (hin home)
    · rw [State.die_onDie_ne _ _ (Ne.symm hk), List.filter_cons_of_neg (by simpa [home, w] using hk), List.filter_nil,
        List.append_nil]
      exact hin k

/-- Blocks sent one after the other: what they are, and where they join. -/
theorem State.foldl_sendBlock (die id : Nat) (v : Store Nat) (space : Nat) (bl : List (Nat × List Byte)) (s : State) :
    let t := bl.foldl (fun s b => s.sendBlock die id (some v) true space [] b.1 b.2) s
    ∃ l : List Stamped, l.map (fun w => (w.addr, w.bytes)) = bl ∧ s.onlyDies t ∧ s.sent t l die space ∧
      (∀ w ∈ l, w.id = id ∧ w.src = die ∧ w.home = true ∧ w.space = space ∧ w.watched = true ∧ s.cycle < w.due ∧ w.clock = v) ∧
      l.map (fun w => w.num) = (List.range l.length).map fun k => (s.die die).sent + 1 + k := by
  induction bl generalizing s with
  | nil => exact ⟨[], rfl, s.onlyDies_refl, fun k => (List.append_nil _).symm, fun w hw => absurd hw List.not_mem_nil, rfl⟩
  | cons b bl ih =>
    obtain ⟨w, hw, hwnum, hwaddr, hwbytes, honly, hsent, hin⟩ := s.sendBlock_spec die id v space b.1 b.2
    let u := s.sendBlock die id (some v) true space [] b.1 b.2
    obtain ⟨l, hmap, honly', hin', hall, hnum⟩ := ih u
    have hcycle : u.cycle = s.cycle := by rw [show u = _ from honly]
    refine ⟨w :: l, by rw [List.map_cons, hmap, hwaddr, hwbytes], honly.trans honly', fun k => ?_, fun x hx => ?_, ?_⟩
    · rw [List.foldl_cons, hin' k, hin k, List.append_assoc, ← List.filter_append]
      rfl
    · rcases List.mem_cons.mp hx with rfl | hx
      · exact hw
      · rw [← hcycle]
        exact hall x hx
    · rw [List.map_cons, hnum, List.length_cons, List.range_succ_eq_map, List.map_cons, List.map_map, hwnum]
      refine congrArg₂ List.cons rfl (List.map_congr_left fun k _ => ?_)
      rw [hsent, Function.comp]
      omega

/-- A write of the host's within one page: its blocks on their way, and it is remembered until it is visible (R342, R343). -/
theorem State.hostPart_spec (s : State) (va : Nat) {l : Leaf} (hrep : l.rep = false) (bytes : List Byte) :
    let t := s.hostPart va l bytes
    t = { s with free := t.free, dies := t.dies, nextWrite := s.nextWrite + 1, hostSent := s.hostSent ++ [s.nextWrite] } ∧
      ∃ b, s.blocksOf b 0 l.kind (l.translate va) bytes (some (s.clockOf 0)) ∧ s.sent t b 0 l.kind := by
  obtain ⟨b, hmap, honly, hin, hall, hnum⟩ := State.foldl_sendBlock 0 s.nextWrite (s.clockOf 0) l.kind
    (blocks64 (bytes.length + 1) (l.translate va) bytes) { s with nextWrite := s.nextWrite + 1 }
  obtain ⟨hcells, hblocks⟩ := blocks64_spec (bytes.length + 1) (l.translate va) bytes (by omega)
  have hcopies : l.copies = [] := by rw [Leaf.copies, hrep]; rfl
  generalize hy : (blocks64 (bytes.length + 1) (l.translate va) bytes).foldl
    (fun t b => t.sendBlock 0 s.nextWrite (some (s.clockOf 0)) true l.kind [] b.1 b.2)
    { s with nextWrite := s.nextWrite + 1 } = y at honly hin
  have ht : s.hostPart va l bytes = { y.closeWrite 0 s.nextWrite with
      hostSent := (y.closeWrite 0 s.nextWrite).hostSent ++ [s.nextWrite] } := by
    rw [State.hostPart, hcopies, ← hy]
    rfl
  refine ⟨?_, b, ⟨?_, fun w hw => ?_, fun v hv => ?_, nofun⟩, fun k => ?_⟩
  · rw [ht]
    rw [State.onlyDies] at honly
    rw [honly]
    rfl
  · rw [← hcells, ← hmap, List.map_map]
    rfl
  · obtain ⟨h1, h2, h3, h4, h5, h6, -⟩ := hall w hw
    have hb := List.mem_map_of_mem (f := fun w : Stamped => (w.addr, w.bytes)) hw
    rw [hmap] at hb
    exact ⟨h1, h2, h3, h4, h5, h6, hblocks _ hb⟩
  · cases hv
    exact ⟨fun w hw => (hall w hw).2.2.2.2.2.2, hnum⟩
  · have hclose : ((y.closeWrite 0 s.nextWrite).die k).incoming = (y.die k).incoming := by
      unfold State.closeWrite
      exact State.onDie_field (fun d => d.incoming) (by intro e; rfl) y 0 k
    rw [ht]
    exact hclose.trans (hin k)

end Sys2Proof.Machine
end

section
/-! SUPPORT. Host accesses within one page of the memory window (R342, R343), and the host's reads. -/

namespace Sys2Proof.Machine

/-- The state in which the host's visible writes are no longer remembered (R343). -/
def State.forgetVisible (s : State) : State := { s with hostSent := s.hostSent.filter fun id => !s.visible id }

theorem State.forgetVisible_eq (s : State) :
    { s with hostSent := s.hostSent.filter fun id => !s.visible id } = s.forgetVisible := rfl

/-- The virtual address of a window offset (R342). -/
theorem State.windowVa_eq (s : State) (off : Nat) : s.windowVa off = s.hwbase.toNat % 65536 * 2 ^ 36 + off := rfl

/-- An access within 64 KB has one page. -/
theorem State.hostPages_one (s : State) {off n : Nat} (hn : 0 < n) (h : off % 65536 + n ≤ 65536) :
    s.hostPages off n = [(s.windowVa off, n)] := by
  have hva : s.windowVa off % 65536 = off % 65536 := by
    rw [State.windowVa_eq]
    omega
  have hmin : min n (65536 - s.windowVa off % 65536) = n := by omega
  rw [State.hostPages, show n / 65536 + 2 = (n / 65536 + 1) + 1 from rfl, pageParts, if_neg (by omega)]
  simp only [hmin, Nat.sub_self, pageParts, if_true]

/-- The leaf that an access is refused or served with (R342). -/
theorem State.hostLeaf_eq_some (s : State) {va : Nat} {write : Bool} {l : Leaf} (hm : 5 ∉ s.setNow)
    (hl : s.leafNow 0 hostEngine s.hostAsid va = some l) (hp : l.permits write = true) (hk : l.kind ≠ 1) :
    s.hostLeaf va write = some l := by
  have hw : ¬ s.windowMoves = true := by simpa [State.windowMoves] using hm
  rw [State.hostLeaf, if_neg hw, hl, Option.filter_some, if_pos (by simp [hp, hk])]

theorem State.hostLeaf_eq_none (s : State) {va : Nat} {write : Bool}
    (h : 5 ∈ s.setNow ∨ s.leafNow 0 hostEngine s.hostAsid va = none ∨
      ∃ l, s.leafNow 0 hostEngine s.hostAsid va = some l ∧ (l.kind = 1 ∨ l.permits write = false)) :
    s.hostLeaf va write = none := by
  rcases h with h | h | ⟨l, hl, h⟩
  · exact if_pos (by simpa [State.windowMoves] using h)
  · rw [State.hostLeaf, h]
    split <;> rfl
  · have hno : ¬ (l.permits write && !decide (l.kind = 1)) = true := by
      rcases h with h | h <;> simp [h]
    rw [State.hostLeaf, hl, Option.filter_some, if_neg hno]
    split <;> rfl

/-- No registration, no ring to write. -/
theorem State.ringWrite_of_none {s : State} (h : s.dist.mailboxes = []) (va : Nat) (bytes : List Byte) :
    s.ringWrite va bytes = none := by
  have hf : s.freesSlots va bytes = false := by rw [State.freesSlots, h]; rfl
  exact if_pos (by simp [hf])

/-- None of the host's writes is remembered when all are visible. -/
theorem State.forgetVisible_of_visible {s : State} (h : ∀ id ∈ s.hostSent, s.visible id = true) :
    s.forgetVisible = { s with hostSent := [] } := by
  rw [State.forgetVisible, List.filter_eq_nil_iff.mpr fun id hid => by simp [h id hid]]

/-- A write of the window that is refused sets WF (R342). -/
theorem State.hostWrite_refused {s : State} {off : Nat} {bytes : List Byte} (hmb : s.dist.mailboxes = []) (hb : bytes ≠ [])
    (hpage : off % 65536 + bytes.length ≤ 65536)
    (h : s.hostLeaf (s.windowVa off) true = none ∨ 2 ^ 36 < off + bytes.length) : s.hostWrite off bytes =
      s.forgetVisible.hostBit 1 := by
  have hpages := s.hostPages_one (List.length_pos_iff.mpr hb) hpage
  rw [State.hostWrite]
  by_cases hend : 2 ^ 36 < off + bytes.length
  · exact if_pos hend
  · have hl : s.forgetVisible.hostLeaf (s.windowVa off) true = none := h.resolve_right hend
    have hr : s.forgetVisible.ringWrite (s.windowVa off) bytes = none :=
      State.ringWrite_of_none (by exact hmb) _ _
    simp only [State.forgetVisible_eq, if_neg hend, hr, hpages, State.hostLeaves, hl]

/-- A write of the window within one page: its blocks on their way, and the walk that the translator keeps (R342). -/
theorem State.hostWrite_page {s : State} {off : Nat} {bytes : List Byte} {l : Leaf} (hmb : s.dist.mailboxes = [])
    (hb : bytes ≠ []) (hpage : off % 65536 + bytes.length ≤ 65536) (hl : s.hostLeaf (s.windowVa off) true = some l)
    (hend : ¬ 2 ^ 36 < off + bytes.length) : s.hostWrite off bytes =
      (s.forgetVisible.hostPart (s.windowVa off) l bytes).keepPages [(s.windowVa off, bytes.length)] := by
  have hpages := s.hostPages_one (List.length_pos_iff.mpr hb) hpage
  have hl' : s.forgetVisible.hostLeaf (s.windowVa off) true = some l := hl
  have hr : s.forgetVisible.ringWrite (s.windowVa off) bytes = none :=
    State.ringWrite_of_none (by exact hmb) _ _
  rw [State.hostWrite]
  simp only [State.forgetVisible_eq, if_neg hend, hr, hpages, State.hostLeaves, hl', Option.map_some,
    List.foldl_cons, List.foldl_nil, List.take_length]

/-- What such a write changes. -/
theorem State.hostWrite_page_spec {s : State} {off : Nat} {bytes : List Byte} {l : Leaf} (hmb : s.dist.mailboxes = [])
    (hv : ∀ id ∈ s.hostSent, s.visible id = true) (hb : bytes ≠ []) (hpage : off % 65536 + bytes.length ≤ 65536)
    (hl : s.hostLeaf (s.windowVa off) true = some l) (hrep : l.rep = false) (hend : ¬ 2 ^ 36 < off + bytes.length) :
    let t := s.hostWrite off bytes
    ∃ b, s.blocksOf b 0 l.kind (l.translate (s.windowVa off)) bytes (some (s.clockOf 0)) ∧ s.sent t b 0 l.kind ∧
      t.hostSent = [s.nextWrite] ∧ t.hstat = s.hstat ∧ t.hbm = s.hbm ∧ t.host = s.host ∧ t.pod = s.pod ∧
      t.cores = s.cores ∧ t.dist = s.dist := by
  rw [State.hostWrite_page hmb hb hpage hl hend, State.forgetVisible_of_visible hv]
  obtain ⟨heq, b, hblocks, hsent⟩ := State.hostPart_spec { s with hostSent := [] } (s.windowVa off) hrep bytes
  obtain ⟨honly, hin⟩ := State.onlyKept_keepPages
    (({ s with hostSent := [] } : State).hostPart (s.windowVa off) l bytes) [(s.windowVa off, bytes.length)]
  refine ⟨b, hblocks, fun k => (hin k).trans (hsent k), ?_⟩
  rw [honly, heq]
  exact ⟨rfl, rfl, rfl, rfl, rfl, rfl, rfl⟩

/-! ## Reads -/

/-- A host read of the memory window, the control window or the mailbox space: nothing with the link down. -/
theorem exec_hostMemoryRead_down {s : State} (h : s.hostDown = true) {space : HostSpace} (hs : space ≠ .own) (off n : Nat) :
    exec (.hostMemoryRead ⟨space, off⟩ n) s = .next s := by
  have hx : exec (.hostMemoryRead ⟨space, off⟩ n) s = execHostMemoryRead ⟨space, off⟩ n s := rfl
  cases space with
  | own => exact absurd rfl hs
  | _ => simp only [hx, execHostMemoryRead, h, if_true]

/-- A read of the control window waits for the host's earlier writes. -/
theorem exec_hostMemoryRead_control {s : State} (h : s.hostDown = false) (hnil : s.hostWait = []) (off n : Nat) :
    exec (.hostMemoryRead ⟨.control, off⟩ n) s = .next (if s.hostSettled = true then s.controlRead off n
      else { s with hostWait := [.hostMemoryRead ⟨.control, off⟩ n] }) := by
  have hx : exec (.hostMemoryRead ⟨.control, off⟩ n) s = execHostMemoryRead ⟨.control, off⟩ n s := rfl
  simp only [hx, execHostMemoryRead, h, Bool.false_eq_true, if_false, State.readTurn, State.hostTurn_nil hnil]

/-- Before stage 6 the window and the mailbox space return zero (R347). -/
theorem exec_hostMemoryRead_early {s : State} (h : s.hostDown = false) (hst : (s.die 0).stage ≠ 6) {space : HostSpace}
    (hs : space = .window ∨ space = .mailbox) (off n : Nat) :
    exec (.hostMemoryRead ⟨space, off⟩ n) s = .next (s.answerZero n) := by
  have hx : exec (.hostMemoryRead ⟨space, off⟩ n) s = execHostMemoryRead ⟨space, off⟩ n s := rfl
  have ho : s.hostOpen = false := by simp [State.hostOpen, hst]
  rcases hs with rfl | rfl <;> simp only [hx, execHostMemoryRead, h, ho, Bool.false_eq_true, if_false]

/-- A read of the mailbox space returns zero in its turn. -/
theorem exec_hostMemoryRead_mailbox {s : State} (h : s.hostDown = false) (hst : (s.die 0).stage = 6) (hnil : s.hostWait = [])
    (off n : Nat) : exec (.hostMemoryRead ⟨.mailbox, off⟩ n) s = .next (if s.hostSettled = true then s.answerZero n
      else { s with hostWait := [.hostMemoryRead ⟨.mailbox, off⟩ n] }) := by
  have hx : exec (.hostMemoryRead ⟨.mailbox, off⟩ n) s = execHostMemoryRead ⟨.mailbox, off⟩ n s := rfl
  have ho : s.hostOpen = true := by simp [State.hostOpen, hst, h]
  simp only [hx, execHostMemoryRead, h, ho, Bool.false_eq_true, if_false, if_true, State.readTurn, State.hostTurn_nil hnil]

/-- A read of the window is answered in its turn, once it need not wait for its bytes. -/
theorem exec_hostMemoryRead_window {s : State} (h : s.hostDown = false) (hst : (s.die 0).stage = 6) (hnil : s.hostWait = [])
    (off n : Nat) : exec (.hostMemoryRead ⟨.window, off⟩ n) s = .next (if s.readReady off n = true then s.answerRead off n
      else { s with hostWait := [.hostMemoryRead ⟨.window, off⟩ n] }) := by
  have hx : exec (.hostMemoryRead ⟨.window, off⟩ n) s = execHostMemoryRead ⟨.window, off⟩ n s := rfl
  have ho : s.hostOpen = true := by simp [State.hostOpen, hst, h]
  simp only [hx, execHostMemoryRead, h, ho, Bool.false_eq_true, if_false, if_true, State.readTurn, State.hostTurn_nil hnil]

theorem State.hostSettled_iff (s : State) : s.hostSettled = true ↔ ∀ id ∈ s.hostSent, s.visible id = true := by
  simp only [State.hostSettled, List.all_eq_true]

/-- A read that waits for the host's earlier writes. -/
theorem State.not_hostSettled {s : State} (h : ∃ id ∈ s.hostSent, s.visible id = false) : ¬ s.hostSettled = true := by
  obtain ⟨id, hid, hf⟩ := h
  rw [State.hostSettled_iff]
  exact fun hv => Bool.noConfusion (hf.symm.trans (hv id hid))

/-- A host read that is refused is answered with WF set (R342). -/
theorem State.answerRead_refused {s : State} {off n : Nat} (hv : s.hostSettled = true) (h : s.readLeaves off n = none) :
    s.readReady off n = true ∧ s.answerRead off n =
      { s with hstat := s.hstat ||| 2#32, setNow := s.setNow ++ [1], answer := some ⟨false, []⟩ } := by
  simp only [State.readReady, State.answerRead, h, hv, Bool.and_self, State.hostBit]
  exact ⟨trivial, rfl⟩

/-- A host read of HBM within one page, which die 0's clock lets through, returns the bytes as die 0 reads them (R315, R342). -/
theorem State.answerRead_page {s : State} {off n : Nat} {l : Leaf} (hv : s.hostSettled = true)
    (h : s.readLeaves off n = some [(s.windowVa off, n, l)]) (hk : l.kind = 0) (hrep : l.rep = false)
    (hc : s.covered (s.clockOf 0) = true) : s.readReady off n = true ∧ (let t := s.answerRead off n
      t.answer = some ⟨true, (List.range n).map fun k => s.deviceByte 0 (l.translate (s.windowVa off) + k)⟩ ∧
        t.hstat = s.hstat ∧ t.hbm = s.hbm ∧ t.cores = s.cores ∧ t.dist = s.dist) := by
  let u := (farLines 0 (l.translate (s.windowVa off)) n).foldl (fun s k => s.maybeInstall 0 k) s
  have hread : s.hostRead [(s.windowVa off, n, l)] = some (s.dieBytes 0 (l.translate (s.windowVa off)) n ++ [], u) := by
    simp [State.hostRead, State.readDevice, hk, hc, hrep, u]
  have hu : s.onlyKept u := State.onlyKept_foldl (fun s k => s.onlyKept_maybeInstall 0 k) _ s
  obtain ⟨honly, -⟩ := hu.trans (u.onlyKept_keepPages (s.hostPages off n))
  simp only [State.readReady, State.answerRead, h, hread, hv, Option.isSome_some, Bool.and_self, List.append_nil]
  refine ⟨trivial, rfl, ?_⟩
  rw [honly]
  exact ⟨rfl, rfl, rfl, rfl⟩

end Sys2Proof.Machine
end

section
/-! SUPPORT. Links, bring-up, reset, channels and power (R41, R344 to R349). -/

namespace Sys2Proof.Machine

/-! ## Links (R344, R345) -/

/-- The replays of a link's flit: one of them succeeds, or the link is down, and the routes lost with it. -/
theorem exec_linkReplay {link : Nat} (h : link < 32) (s : State) : ∃ lost, exec (.linkReplay link) s = .next s.draw.2 ∨
    exec (.linkReplay link) s = .next (s.draw.2.draw.2.onDie (link / 2) fun d => { d with
      linkDown := (d.linkDown.filter fun k => !decide (k = link % 2)) ++ [link % 2]
      routesDown := d.routesDown ++ lost, log := d.log ++ [⟨5, link, 0, 0⟩] }) := by
  have hx : exec (.linkReplay link) s = execLinkReplay link s := rfl
  rw [hx, execLinkReplay, if_neg (by omega)]
  dsimp only
  split
  · exact ⟨[], .inl rfl⟩
  · exact ⟨_, .inr rfl⟩

theorem exec_routeReturn {die : Nat} (h : die < 16) (pkg : Nat) (s : State) : exec (.routeReturn die pkg) s =
    .next (s.onDie die fun d => { d with routesDown := d.routesDown.filter fun p => !decide (p = pkg) }) := by
  have hx : exec (.routeReturn die pkg) s = execRouteReturn die pkg s := rfl
  rw [hx, execRouteReturn, if_neg (by omega)]

/-! ## Bring-up (R347, R348) -/

/-- What the work of a stage leaves: the cores, HBM, the other dies, and outside training the distributor. -/
theorem State.stageWork_frame (s : State) (die : Nat) : (s.stageWork die).cores = s.cores ∧ (s.stageWork die).hbm = s.hbm ∧
    (∀ k, k ≠ die → (s.stageWork die).die k = s.die k) ∧
      ((s.die die).stage ≠ 3 → (s.stageWork die).dist = s.dist) := by
  have hdie (f : Die → Die) (k : Nat) (hk : k ≠ die) : (s.draw.2.onDie die f).die k = s.die k :=
    State.die_onDie_ne s.draw.2 f hk
  unfold State.stageWork
  split
  · split
    · exact ⟨rfl, rfl, fun _ _ => rfl, fun _ => rfl⟩
    · exact ⟨rfl, rfl, fun k hk => hdie _ k hk, fun _ => rfl⟩
  · next h => exact ⟨rfl, rfl, fun _ _ => rfl, fun hn => absurd h hn⟩
  · exact ⟨rfl, rfl, fun k hk => hdie _ k hk, fun _ => rfl⟩
  · exact ⟨rfl, rfl, fun _ _ => rfl, fun _ => rfl⟩

/-- The die after the work of a stage that is neither verification nor the layout. -/
theorem State.die_stageWork_same (s : State) {die : Nat} (h : (s.die die).stage = 1 → (s.die die).verified = true)
    (h4 : (s.die die).stage ≠ 4) : (s.stageWork die).die die = s.die die := by
  unfold State.stageWork
  split
  · next h1 => rw [if_pos (h h1)]
  · rfl
  · next hs => exact absurd hs h4
  · rfl

/-- The die after the layout of its stack: the lending pool lies in it, on a 1 KB boundary. -/
theorem State.die_stageWork_layOut (s : State) {die : Nat} (h : (s.die die).stage = 4) :
    ∃ p, (s.stageWork die).die die = { s.die die with pool := some p } ∧ p / 2 ^ 36 = die ∧ p % 1024 = 0 := by
  have hw : s.stageWork die = s.layOut die := by simp only [State.stageWork, h]
  rw [hw, State.layOut]
  exact ⟨_, State.die_onDie s.draw.2 die _, by omega, by omega⟩

/-- The die after it has verified the image, or failed to. -/
theorem State.die_stageWork_verify (s : State) {die : Nat} (h : (s.die die).stage = 1) (hv : (s.die die).verified = false) :
    (s.stageWork die).die die = { s.die die with verified := true } ∨
      (s.stageWork die).die die = { s.die die with fail := true } := by
  have hw : s.stageWork die = s.verifyImage die := by
    simp only [State.stageWork, h, hv, Bool.false_eq_true, if_false]
  have hd (f : Die → Die) : (s.draw.2.onDie die f).die die = f (s.die die) := State.die_onDie s.draw.2 die f
  rw [hw, State.verifyImage]
  dsimp only
  rw [hd]
  split
  · exact .inl rfl
  · exact .inr rfl

/-- The channels that training retires stay retired (R348). -/
theorem State.stageWork_retmap (s : State) {die : Nat} (h : (s.die die).stage = 3) (hw : Store.wf 0#32 s.dist.retmap = true)
    (k c : Nat) (hk : (Store.get 0#32 s.dist.retmap k).getLsbD c = true) :
    (Store.get 0#32 (s.stageWork die).dist.retmap k).getLsbD c = true := by
  have hs : s.stageWork die = s.trainStack die := by simp only [State.stageWork, h]
  have hm : (s.trainStack die).dist.retmap = Store.set 0#32 s.dist.retmap die
    (Store.get 0#32 s.dist.retmap die ||| BitVec.ofNat 32 s.draw.1) := rfl
  rw [hs, hm, Store.get_set hw]
  split
  · next hd =>
    subst hd
    rw [BitVec.getLsbD_or, hk, Bool.true_or]
  · exact hk

/-- Is the work of a die's stage done, when it has not failed? -/
theorem State.stageDone_eq {s : State} {die : Nat} (h : (s.die die).fail = false) : s.stageDone die =
    (decide ((s.die die).stage ≠ 1) || dies16.all fun k => (s.die k).verified) := by
  rw [State.stageDone, h]
  rfl

/-- BOOT_STAGE_ADVANCE of a die that has not failed and is not up (R347). -/
theorem exec_bootStageAdvance {die : Nat} (h : die < 16) {s : State} (hf : (s.die die).fail = false)
    (h6 : (s.die die).stage < 6) : exec (.bootStageAdvance die) s = .next (if (s.stageWork die).stageDone die then
      (s.stageWork die).onDie die fun d => { d with stage := d.stage + 1 } else s.stageWork die) := by
  have hx : exec (.bootStageAdvance die) s = execBootStageAdvance die s := rfl
  have hn : ¬ ((s.die die).fail = true ∨ 6 ≤ (s.die die).stage) := by
    rintro (h | h)
    · exact Bool.noConfusion (hf.symm.trans h)
    · omega
  rw [hx, execBootStageAdvance, if_neg (by omega), if_neg hn]

theorem exec_bootStageAdvance_stays {die : Nat} (h : die < 16) {s : State}
    (hs : (s.die die).fail = true ∨ 6 ≤ (s.die die).stage) : exec (.bootStageAdvance die) s = .next s := by
  have hx : exec (.bootStageAdvance die) s = execBootStageAdvance die s := rfl
  rw [hx, execBootStageAdvance, if_neg (by omega), if_pos hs]

theorem exec_recoveryImage {die : Nat} (h : die < 16) (verified : Bool) (s : State) :
    exec (.recoveryImage die verified) s = .next (if (s.die die).fail = true ∧ (s.die die).stage = 1 ∧ verified = true then
      s.onDie die fun d => { d with fail := false, verified := true } else s) := by
  have hx : exec (.recoveryImage die verified) s = execRecoveryImage die verified s := rfl
  rw [hx, execRecoveryImage, if_neg (by omega)]
  dsimp only
  split <;> rfl

/-- The stage that a die reaches once its work is done, or keeps. -/
theorem State.die_advance (s : State) (die : Nat) :
    (if s.stageDone die then s.onDie die fun d => { d with stage := d.stage + 1 } else s).die die =
      if s.stageDone die = true then { s.die die with stage := (s.die die).stage + 1 } else s.die die := by
  split
  · exact State.die_onDie s die _
  · rfl

/-- From stage 1 a verified die goes on once every die has verified the image. -/
theorem State.die_advance_verified {s : State} {die : Nat} {d : Die} (hd : s.die die = d) (hf : d.fail = false)
    (h1 : d.stage = 1) (hv : d.verified = true) :
    (if s.stageDone die then s.onDie die fun d => { d with stage := d.stage + 1 } else s).die die =
      { d with stage := if (List.range 16).all (fun k => decide (k = die) || (s.die k).verified) then 2 else 1 } := by
  have hall : dies16.all (fun k => (s.die k).verified) =
      (List.range 16).all fun k => decide (k = die) || (s.die k).verified := by
    rw [Bool.eq_iff_iff, List.all_eq_true, List.all_eq_true]
    refine forall₂_congr fun k _ => ?_
    rw [Bool.or_eq_true, decide_eq_true_eq]
    refine ⟨Or.inr, fun hk => hk.elim (fun hk => ?_) id⟩
    rw [hk, hd]
    exact hv
  rw [State.die_advance, State.stageDone_eq (by rw [hd]; exact hf), hd, h1, hall]
  by_cases hb : ((List.range 16).all fun k => decide (k = die) || (s.die k).verified) = true
  · simp only [hb, ne_eq, not_true_eq_false, decide_false, Bool.false_or, if_true]
  · simp only [hb, ne_eq, not_true_eq_false, decide_false, Bool.false_or, Bool.false_eq_true, if_false]
    rw [← h1]

/-- What the other dies have verified, after a step that leaves them. -/
theorem verifiedAround {s t : State} {die : Nat} (h : ∀ k, k ≠ die → t.die k = s.die k) :
    ((List.range 16).all fun k => decide (k = die) || (t.die k).verified) =
      (List.range 16).all fun k => decide (k = die) || (s.die k).verified := by
  rw [Bool.eq_iff_iff, List.all_eq_true, List.all_eq_true]
  refine forall₂_congr fun k _ => ?_
  by_cases hk : k = die
  · simp [hk]
  · rw [h k hk]

/-! ## Reset (R41, R348) -/

/-- The bits of a power of two. -/
theorem getLsbD_twoPow_ofNat {c : Nat} (h : c < 32) (n : Nat) : (BitVec.ofNat 32 (2 ^ n)).getLsbD c = decide (n = c) := by
  rw [BitVec.getLsbD_ofNat, Nat.testBit_two_pow, decide_eq_true h, Bool.true_and]

/-- Fenced channels join the retired ones (R348). -/
theorem getLsbD_retired (l : List (Nat × Nat)) {m : Store Word} (hw : Store.wf 0#32 m = true) (k : Nat) {c : Nat}
    (hc : c < 32) : (Store.get 0#32 (l.foldl (fun m e =>
      Store.set 0#32 m e.1 (Store.get 0#32 m e.1 ||| BitVec.ofNat 32 (2 ^ e.2))) m) k).getLsbD c =
        ((Store.get 0#32 m k).getLsbD c || decide ((k, c) ∈ l)) := by
  induction l generalizing m with
  | nil => simp
  | cons e l ih =>
    rw [List.foldl_cons, ih (Store.wf_set hw _ _), Store.get_set hw]
    by_cases hk : k = e.1
    · subst hk
      have he : ((e.1, c) = e) = (e.2 = c) := by
        rw [Prod.ext_iff]
        simp [eq_comm]
      simp only [if_true, BitVec.getLsbD_or, getLsbD_twoPow_ofNat hc, List.mem_cons, he, Bool.decide_or, Bool.or_assoc]
    · have he : ¬ (k, c) = e := fun h => hk (congrArg Prod.fst h)
      simp only [if_neg hk, List.mem_cons, he, false_or]

/-! ## Channels and power (R348, R349) -/

/-- Without retired channels, the channel of an address is the number of its 256-byte unit (R328, R348). -/
theorem State.fencedRange_of_fenced {s : State} (hr : s.dist.retmap = []) {stack channel a n : Nat}
    (hf : (stack, channel) ∈ s.dist.fenced) (hn : 0 < n) (hs : a / 2 ^ 36 % 16 = stack)
    (hc : a % 2 ^ 36 / 256 % 32 = channel) : s.fencedRange a n = true := by
  have hlive (k : Nat) : s.liveChannels k = List.range 32 := by
    rw [State.liveChannels, hr]
    exact List.filter_eq_self.mpr fun c _ => by simp [Store.get]
  have hhome : homeDie a = stack := by
    rw [homeDie, field]
    omega
  have hat : s.fencedAt a = true := by
    have hch : (List.range 32).getD (a % 2 ^ 36 / 256 % 32) 0 = channel := by
      rw [List.getD_eq_getElem _ _ (by rw [List.length_range]; omega), List.getElem_range, hc]
    simp only [State.fencedAt, hlive, List.length_range, hch, hhome, Bool.or_eq_true, List.contains_iff_mem]
    exact .inr hf
  have hne : s.dist.fenced.isEmpty = false := by
    rw [List.isEmpty_eq_false_iff]
    exact List.ne_nil_of_mem hf
  simp only [State.fencedRange, hne, Bool.false_and, Bool.not_false, Bool.true_and, List.any_eq_true]
  exact ⟨0, List.mem_range.mpr (by omega), by rw [show min (a + 256 * 0) (a + n - 1) = a by omega]; exact hat⟩

/-- A stack with a fenced channel takes no layout. -/
theorem State.layoutRefused_of_fenced {s : State} {stack channel : Nat} (hs : stack < 16)
    (hf : (stack, channel) ∈ s.dist.fenced) (d : List Word) (hd : bitOf (dw d 7) stack = true) :
    s.layoutRefused d = true := by
  refine List.any_eq_true.mpr ⟨stack, List.mem_range.mpr hs, ?_⟩
  simp only [hd, Bool.true_and, Bool.or_eq_true, List.any_eq_true, decide_eq_true_eq]
  exact .inr ⟨_, hf, rfl⟩

/-- The same change on dies in a row: each of them is changed once, and nothing else. -/
theorem State.foldl_onDie (f : Die → Die) (l : List Nat) (s : State) :
    s.onlyDies (l.foldl (fun s d => s.onDie d f) s) ∧
      (l.Nodup → ∀ k, (l.foldl (fun s d => s.onDie d f) s).die k = if k ∈ l then f (s.die k) else s.die k) := by
  induction l generalizing s with
  | nil => exact ⟨s.onlyDies_refl, fun _ k => rfl⟩
  | cons d l ih =>
    obtain ⟨honly, hdies⟩ := ih (s.onDie d f)
    refine ⟨(State.onlyDies_onDie s d f).trans honly, fun hl k => ?_⟩
    obtain ⟨hd, hl⟩ := List.nodup_cons.mp hl
    rw [List.foldl_cons, hdies hl]
    by_cases hk : k = d
    · subst hk
      rw [if_neg hd, if_pos List.mem_cons_self, State.die_onDie]
    · simp only [List.mem_cons, hk, false_or, State.die_onDie_ne s f hk]

theorem State.onlyDies.noMemory {s t : State} (h : s.onlyDies t) : s.noMemory t ∧ t.dist = s.dist := by
  rw [h]
  exact ⟨⟨rfl, rfl, rfl, rfl, rfl, rfl, rfl, rfl, rfl⟩, rfl⟩

theorem exec_softErrorCorrect {die : Nat} (h : die < 16) (s : State) : exec (.softErrorCorrect die) s =
    .next (s.onDie die fun d => { d with eccc := min (d.eccc + 1) 0xFFFFFFFF }) := by
  have hx : exec (.softErrorCorrect die) s = execSoftErrorCorrect die s := rfl
  rw [hx, execSoftErrorCorrect, if_neg (by omega)]

theorem exec_thermalTrip {die : Nat} (h : die < 16) (s : State) : exec (.thermalTrip die) s =
    .next { (((s.onDie die fun d => { d with log := d.log ++ [⟨6, die, 0, 0⟩] })).hostBit 3) with stopped := true } := by
  have hx : exec (.thermalTrip die) s = execThermalTrip die s := rfl
  rw [hx, execThermalTrip, if_neg (by omega)]

/-- A bit of HSTAT and the stop leave the dies. -/
theorem State.die_stopped (s : State) (bit k : Nat) : ({ s.hostBit bit with stopped := true } : State).die k = s.die k := rfl

/-- A unit's error is toggled: the unit gets one, or is rid of it (log 118). -/
theorem mem_toggle {l : List Nat} (h : l.Nodup) (u v : Nat) : u ∈ (if l.contains v then l.erase v else l ++ [v]) ↔
    (u ∈ l ∧ u ≠ v) ∨ (u ∉ l ∧ u = v) := by
  split
  · next hv =>
    have hv := List.contains_iff_mem.mp hv
    rw [h.mem_erase_iff]
    constructor
    · exact fun ⟨hne, hu⟩ => .inl ⟨hu, hne⟩
    · rintro (⟨hu, hne⟩ | ⟨hu, rfl⟩)
      · exact ⟨hne, hu⟩
      · exact absurd hv hu
  · next hv =>
    have hv := fun hm => hv (List.contains_iff_mem.mpr hm)
    rw [List.mem_append, List.mem_singleton]
    constructor
    · rintro (hu | rfl)
      · exact .inl ⟨hu, by rintro rfl; exact hv hu⟩
      · exact .inr ⟨hv, rfl⟩
    · rintro (⟨hu, -⟩ | ⟨-, rfl⟩)
      · exact .inl hu
      · exact .inr rfl

end Sys2Proof.Machine
end

section
/-! SUPPORT. The package and its host, clause by clause. -/

namespace Sys2Proof.Machine

/-- Settles O60, clause by clause: turns, messages, registers, the host's own memory, the window, links, bring-up, reset,
channels and power. -/
theorem packageAndHost : Obligations.PackageAndHost := by
  unfold Obligations.PackageAndHost
  refine ⟨fun s i control hi => ?_, fun s slot words hslot hst hdown hnil hv hm => ?_, fun s off bytes hdown hnil hv hm => ?_,
    fun s off n bytes hwf => ?_, fun s off bytes hst hdown hnil hv hm hmb hb hpage => ?_, fun s off n hnil hn hpage => ?_,
    fun s => rfl, fun s link hlink => ?_, fun s die pkg hdie => ?_, fun s die hdie => ?_, fun s hret => ⟨?_, ?_⟩,
    fun s stack a herr => ?_, fun s stack channel => ?_, fun s die blocks temp hdie => ?_⟩
  · obtain ⟨body, hx⟩ := exec_of_hostPosted hi s
    have hup := s.takesUp_iff control
    refine ⟨fun h => ?_, fun hc hst => ?_, fun ho hdown hnil h => ?_, fun j l ho hdown hw hij => ?_⟩
    · rw [hx, if_neg fun ht => Bool.noConfusion (h.symm.trans (hup.mp ht).1)]
    · rw [hx, if_neg fun ht => (hup.mp ht).2.elim (fun h => Bool.noConfusion (hc.symm.trans h)) hst]
    · rw [hx, if_pos (hup.mpr ⟨hdown, ho⟩), State.hostTurn_waits hnil h]
    · rw [hx, if_pos (hup.mpr ⟨hdown, ho⟩), State.hostTurn_behind hw hij]
  · have hup := (s.takesUp_iff false).mpr ⟨hdown, .inr hst⟩
    have hmsg : exec (.hostMessage slot words) s = .next (s.takeMessage slot words) := by
      rw [exec_hostMessage hslot, if_pos hup, State.hostTurn_ready hnil hv hm]
    have hspace (off : Nat) (bytes : List Byte) :
        exec (.hostMemoryWrite ⟨.mailbox, off⟩ bytes) s = .next (s.spaceWrite off bytes) := by
      rw [exec_hostMemoryWrite_mailbox, if_pos hup, State.hostTurn_ready hnil hv hm]
    refine ⟨fun m hm hw h1 h12 => ?_, fun h => ?_, fun bytes hb hf hw => ?_, fun off bytes h => ?_⟩
    · obtain ⟨key, hkey⟩ := State.mailbox_post hm 2 0 0 ⟨0, 0xFFFF, none, words.take 13, 0, []⟩
      refine ⟨_, _, key, by rw [hmsg, State.takeMessage_registered hm hw h1 h12], hkey, fun e => ?_, rfl,
        State.noMemory_onDist s _, rfl, rfl⟩
      rw [mem_sortBy, List.mem_append, List.mem_singleton]
    · rw [hmsg, State.takeMessage_refused h]
      rfl
    · rw [hspace, hmsg, State.spaceWrite_slot hslot hb hw hf]
    · rw [hspace, State.spaceWrite_other h]
      rfl
  · have hwr : exec (.hostMemoryWrite ⟨.control, off⟩ bytes) s = .next (s.controlWrite off bytes) := by
      rw [exec_hostMemoryWrite_control, if_pos ((s.takesUp_iff true).mpr ⟨hdown, .inl rfl⟩), State.hostTurn_ready hnil hv hm]
    refine ⟨fun h26 h4 hlen => ?_, fun h => ?_, fun h4 h => ?_⟩
    · rw [hwr, exec_registerWrite_host (Nat.mod_lt _ (by omega)), hdown, State.hostTurn_ready hnil hv hm, State.controlWrite,
        if_pos ⟨h26, h4, hlen⟩]
      rfl
    · have hn : ¬ (off < 2 ^ 26 ∧ off % 4 = 0 ∧ bytes.length = 4) := by
        rintro ⟨h26, h4, hlen⟩
        rcases h with h | h | h
        · omega
        · exact h h4
        · exact h hlen
      rw [hwr, State.controlWrite, if_neg hn]
      rfl
    · rw [exec_hostMemoryRead_control hdown hnil, if_pos (s.hostSettled_iff.mpr hv), s.controlRead_word h4 h]
  · exact ⟨⟨_, rfl, rfl, bytesWritten_writeBytes hwf off bytes⟩, rfl⟩
  · intro va leaf
    have hwr : exec (.hostMemoryWrite ⟨.window, off⟩ bytes) s = .next (s.hostWrite off bytes) := by
      rw [exec_hostMemoryWrite_window, if_pos ((s.takesUp_iff false).mpr ⟨hdown, .inr hst⟩), State.hostTurn_ready hnil hv hm]
    refine ⟨fun h => ?_, fun l h5 hl hw hk hrep hend => ?_⟩
    · have hno : s.hostLeaf (s.windowVa off) true = none ∨ 2 ^ 36 < off + bytes.length := by
        rcases h with h | h | h | h
        · exact .inl (s.hostLeaf_eq_none (.inl h))
        · exact .inl (s.hostLeaf_eq_none (.inr (.inl h)))
        · exact .inl (s.hostLeaf_eq_none (.inr (.inr h)))
        · exact .inr h
      exact ⟨s.forgetVisible.hostBit 1, by rw [hwr, State.hostWrite_refused hmb hb hpage hno], rfl, rfl,
        ⟨rfl, rfl, rfl, rfl, rfl, rfl, rfl, rfl, rfl⟩, rfl⟩
    · obtain ⟨b, hspec⟩ := State.hostWrite_page_spec hmb hv hb hpage (s.hostLeaf_eq_some h5 hl hw hk) hrep (by omega)
      exact ⟨_, b, hwr, hspec⟩
  · intro va leaf wr zeros
    have hzeros : s.answerZero n = zeros := rfl
    refine ⟨fun space hs hdown => exec_hostMemoryRead_down hdown hs off n, fun hdown hst => ?_, fun hdown hst hv => ⟨?_, ?_, ?_⟩,
      fun space hs hdown hst hid => ?_⟩
    · exact ⟨exec_hostMemoryRead_early hdown hst (.inl rfl) off n, exec_hostMemoryRead_early hdown hst (.inr rfl) off n⟩
    · rw [← hzeros]
      exact (exec_hostMemoryRead_mailbox hdown hst hnil off n).trans (congrArg _ (if_pos (s.hostSettled_iff.mpr hv)))
    · intro h
      have hno : s.readLeaves off n = none := by
        by_cases hend : 2 ^ 36 < off + n
        · exact if_pos hend
        · have hl : s.hostLeaf (s.windowVa off) false = none := by
            rcases h with h | h | h | h
            · exact s.hostLeaf_eq_none (.inl h)
            · exact s.hostLeaf_eq_none (.inr (.inl h))
            · exact s.hostLeaf_eq_none (.inr (.inr h))
            · exact absurd h hend
          simp only [State.readLeaves, if_neg hend, s.hostPages_one hn hpage, State.hostLeaves, hl]
      obtain ⟨hready, hans⟩ := State.answerRead_refused (s.hostSettled_iff.mpr hv) hno
      rw [← hans]
      exact (exec_hostMemoryRead_window hdown hst hnil off n).trans (congrArg _ (if_pos hready))
    · intro l h5 hl hr hk hrep hend hc
      have hsome : s.readLeaves off n = some [(s.windowVa off, n, l)] := by
        have hle := s.hostLeaf_eq_some (write := false) h5 hl hr (by omega)
        have hle' : s.hostLeaf (s.windowVa off) false = some l := hle
        simp only [State.readLeaves, if_neg (show ¬ 2 ^ 36 < off + n by omega), s.hostPages_one hn hpage, State.hostLeaves, hle',
          Option.map_some]
      obtain ⟨hready, hspec⟩ := State.answerRead_page (s.hostSettled_iff.mpr hv) hsome hk hrep hc
      exact ⟨_, (exec_hostMemoryRead_window hdown hst hnil off n).trans (congrArg _ (if_pos hready)), hspec⟩
    · have hns := State.not_hostSettled hid
      cases space with
      | own => exact absurd rfl hs
      | control => exact (exec_hostMemoryRead_control hdown hnil off n).trans (congrArg _ (if_neg hns))
      | mailbox => exact (exec_hostMemoryRead_mailbox hdown hst hnil off n).trans (congrArg _ (if_neg hns))
      | window =>
        have hnr : ¬ s.readReady off n = true := fun h => hns (Bool.and_eq_true _ _ |>.mp h).1
        exact (exec_hostMemoryRead_window hdown hst hnil off n).trans (congrArg _ (if_neg hnr))
  · obtain ⟨lost, h | h⟩ := exec_linkReplay hlink s
    · exact ⟨_, h, s.onlyDie_refl _, .inl rfl⟩
    · refine ⟨_, h, State.onlyDie_onDie s.draw.2.draw.2 _ _, .inr ?_⟩
      rw [State.die_onDie]
      refine ⟨?_, rfl, fun p hp => List.mem_append_left _ hp, rfl, rfl⟩
      exact congrArg (· ++ [link % 2]) (List.filter_congr fun k _ => by simp)
  · refine ⟨_, exec_routeReturn hdie pkg s, s.onlyDie_onDie die _, fun p => ?_⟩
    rw [State.die_onDie, List.mem_filter, Bool.not_eq_true', decide_eq_false_iff_not]
  · intro d
    refine ⟨exec_bootStageAdvance_stays hdie, fun hf h6 => ?_, fun verified => exec_recoveryImage hdie verified s⟩
    obtain ⟨hcores, hhbm, hothers, hdist⟩ := s.stageWork_frame die
    refine ⟨_, exec_bootStageAdvance hdie hf h6, ?_, ?_, fun k hk => ?_, ⟨fun h1 h4 => ?_, fun h4 => ?_, fun h1 hv => ?_,
      fun h1 hv => ?_⟩, fun h3 => ?_, fun h3 hret k c hk => ?_⟩
    · split <;> exact hcores
    · split <;> exact hhbm
    · rw [← hothers k hk]
      split
      · exact State.die_onDie_ne _ _ hk
      · rfl
    · have hd := s.die_stageWork_same (fun h => absurd h h1) h4
      rw [State.die_advance, State.stageDone_eq (by rw [hd]; exact hf), hd, if_pos (by simp [show (s.die die).stage ≠ 1 from h1])]
    · obtain ⟨p, hd, hp, hp'⟩ := s.die_stageWork_layOut h4
      refine ⟨p, ?_, hp, hp'⟩
      rw [State.die_advance, State.stageDone_eq (by rw [hd]; exact hf), hd, if_pos (by simp [show (s.die die).stage = 4 from h4])]
      simp only [show (s.die die).stage = 4 from h4]
      rfl
    · have hd := s.die_stageWork_same (fun _ => hv) (by rw [show (s.die die).stage = 1 from h1]; decide)
      rw [State.die_advance_verified hd hf h1 hv, verifiedAround hothers]
    · rcases s.die_stageWork_verify h1 hv with hd | hd
      · refine .inr ?_
        rw [State.die_advance_verified hd hf h1 rfl, verifiedAround hothers]
      · refine .inl ?_
        have hfail : (s.stageWork die).stageDone die = false := by
          rw [State.stageDone, hd]
          rfl
        rw [State.die_advance, hfail, hd]
        rfl
    · rw [← hdist h3]
      split <;> rfl
    · have hkept := s.stageWork_retmap h3 hret k c hk
      split <;> exact hkept
  · refine ⟨_, rfl, fun n => rfl, fun n => rfl, rfl, rfl, rfl, rfl, rfl, rfl, rfl, rfl, rfl, rfl, rfl, rfl, fun k c hc => ?_, rfl⟩
    exact getLsbD_retired s.dist.fenced hret k hc
  · exact ⟨_, rfl, fun n => rfl, fun n => rfl, rfl, rfl, rfl, rfl, rfl, rfl⟩
  · exact ⟨_, rfl, rfl, fun u => mem_toggle herr u (a / 256)⟩
  · have hmem (e : Nat × Nat) : e ∈ (if s.dist.fenced.contains (stack.toNat, channel.toNat) then s.dist
        else { s.dist with fenced := s.dist.fenced ++ [(stack.toNat, channel.toNat)] }).fenced ↔
          e ∈ s.dist.fenced ∨ e = (stack.toNat, channel.toNat) := by
      split
      · next h =>
        refine ⟨.inl, fun h' => h'.elim id ?_⟩
        rintro rfl
        exact List.contains_iff_mem.mp h
      · rw [List.mem_append, List.mem_singleton]
    have hf := (hmem _).mpr (.inr rfl)
    refine ⟨_, rfl, hmem, s.noMemory_onDist _, rfl, State.layoutRefused_of_fenced stack.isLt hf, fun hr a n hn hs hc => ?_⟩
    refine State.fencedRange_of_fenced ?_ hf hn hs hc
    rw [← hr]
    simp only [State.onDist]
    split <;> rfl
  · obtain ⟨honly, hdies⟩ := State.foldl_onDie (fun k => { k with stops := min (k.stops + blocks) 0xFFFFFFFF }) dies16 s
    obtain ⟨hmem, hdist⟩ := honly.noMemory
    refine ⟨⟨_, exec_softErrorCorrect hdie s, s.onlyDie_onDie die _, State.die_onDie s die _⟩,
      ⟨_, rfl, hmem, hdist, fun d hd => ?_⟩, ⟨_, exec_thermalTrip hdie s, rfl, rfl,
        ⟨rfl, rfl, rfl, rfl, rfl, rfl, rfl, rfl, rfl⟩, by rw [State.die_stopped, State.die_onDie],
        fun d hd => by rw [State.die_stopped, State.die_onDie_ne s _ hd]⟩, rfl⟩
    rw [hdies (show dies16.Nodup from List.nodup_range),
      if_pos (show d ∈ dies16 from List.mem_range.mpr hd)]

end Sys2Proof.Machine
end

section
/-! SUPPORT. The IEEE formats: encodings by their fields, and the grid on which a value is rounded (R45, R52, R53, R55). -/

namespace Sys2Proof.Machine

/-! ## Exponents -/

theorem exponentOf_eq {m : Nat} (h : m ≠ 0) (e : Int) : exponentOf m e = m.log2 + e := by
  rw [exponentOf, bitLen, if_neg h]
  push_cast
  ring

theorem exponentOf_spec {m : Nat} (h : m ≠ 0) (e : Int) :
    (2 : Rat) ^ exponentOf m e ≤ m * 2 ^ e ∧ (m : Rat) * 2 ^ e < 2 ^ (exponentOf m e + 1) := by
  have hlo : 2 ^ m.log2 ≤ m := Nat.log2_self_le h
  have hhi : m < 2 ^ (m.log2 + 1) := Nat.lt_log2_self
  have hpe : (0 : Rat) < 2 ^ e := by positivity
  rw [exponentOf_eq h, zpow_add₀ two_ne_zero, show (m.log2 : Int) + e + 1 = ((m.log2 + 1 : Nat) : Int) + e by push_cast; ring,
    zpow_add₀ two_ne_zero, zpow_natCast, zpow_natCast]
  exact ⟨mul_le_mul_of_nonneg_right (by exact_mod_cast hlo) hpe.le, mul_lt_mul_of_pos_right (by exact_mod_cast hhi) hpe⟩

/-! ## The encodings of an IEEE format by their fields (R45) -/

/-- The code with a sign, an exponent field and a fraction. -/
def ieeeBits (t : Nat) (neg : Bool) (ex fr : Nat) : Nat := b2n neg * 2 ^ (expBits t + fracBits t) + ex * 2 ^ fracBits t + fr

/-- The smallest normal exponent. -/
def minExp (t : Nat) : Int := 2 - 2 ^ (expBits t - 1)

/-- The significand of a finite code, with the leading bit that a normal number hides. -/
def ieeeMan (t ex fr : Nat) : Nat := if ex = 0 then fr else 2 ^ fracBits t + fr

/-- The exponent of the last place of a finite code. -/
def ieeeExp (t ex : Nat) : Int := minExp t - fracBits t + (ex - 1 : Nat)

theorem decodeVal_ieee {t : Nat} (ht : t = 8 ∨ t = 9 ∨ t = 10) (x : Nat) : decodeVal t x = decodeIeee t x := by
  obtain rfl | rfl | rfl := ht <;> rfl

theorem width_ieee {t : Nat} (ht : t = 8 ∨ t = 9 ∨ t = 10) : width t = expBits t + fracBits t + 1 := by
  obtain rfl | rfl | rfl := ht <;> rfl

theorem gridOf_ieee {t : Nat} (ht : t = 8 ∨ t = 9 ∨ t = 10) : gridOf t = (fracBits t, minExp t) := by
  obtain rfl | rfl | rfl := ht <;> rfl

theorem maxOf_ieee {t : Nat} (ht : t = 8 ∨ t = 9 ∨ t = 10) :
    maxOf t = (2 ^ (fracBits t + 1) - 1, 1 - minExp t - fracBits t) := by
  obtain rfl | rfl | rfl := ht <;> rfl

theorem expBits_pos (t : Nat) : 8 ≤ expBits t := by unfold expBits; split <;> decide

theorem expMax_pos (t : Nat) : 0 < 2 ^ expBits t - 1 := by
  have : 2 ^ 8 ≤ 2 ^ expBits t := Nat.pow_le_pow_right two_pos (expBits_pos t)
  omega

theorem two_pow_expBits (t : Nat) : ((2 ^ expBits t : Nat) : Int) = 4 - 2 * minExp t := by
  have h := expBits_pos t
  obtain ⟨k, hk⟩ : ∃ k, expBits t = k + 1 := ⟨expBits t - 1, by omega⟩
  rw [minExp, hk, Nat.add_sub_cancel]
  push_cast [pow_succ]
  ring

theorem ieeeBits_eq (t : Nat) (neg : Bool) (ex fr : Nat) :
    ieeeBits t neg ex fr = fr + 2 ^ fracBits t * (ex + 2 ^ expBits t * b2n neg) := by
  rw [ieeeBits, pow_add]
  ring

/-- The fields of a code. -/
theorem fields_ieeeBits {t ex fr : Nat} (neg : Bool) (hex : ex < 2 ^ expBits t) (hfr : fr < 2 ^ fracBits t) :
    field (ieeeBits t neg ex fr) (fracBits t) (expBits t) = ex ∧ field (ieeeBits t neg ex fr) 0 (fracBits t) = fr ∧
      bitOf (ieeeBits t neg ex fr) (expBits t + fracBits t) = neg := by
  have hdiv : ieeeBits t neg ex fr / 2 ^ fracBits t = ex + 2 ^ expBits t * b2n neg := by
    rw [ieeeBits_eq, Nat.add_mul_div_left _ _ (by positivity), Nat.div_eq_of_lt hfr, zero_add]
  refine ⟨?_, ?_, ?_⟩
  · rw [field, hdiv, Nat.add_mul_mod_self_left, Nat.mod_eq_of_lt hex]
  · rw [field, pow_zero, Nat.div_one, ieeeBits_eq, Nat.add_mul_mod_self_left, Nat.mod_eq_of_lt hfr]
  · rw [bitOf, Nat.testBit_eq_decide_div_mod_eq, pow_add, mul_comm, ← Nat.div_div_eq_div_mul, hdiv,
      Nat.add_mul_div_left _ _ (by positivity), Nat.div_eq_of_lt hex]
    cases neg <;> rfl

/-- The value of a finite code. -/
theorem decodeIeee_bits {t ex fr : Nat} (neg : Bool) (hex : ex < 2 ^ expBits t - 1) (hfr : fr < 2 ^ fracBits t) :
    decodeIeee t (ieeeBits t neg ex fr) = .num neg (ieeeMan t ex fr) (ieeeExp t ex) := by
  obtain ⟨hexf, hfrf, hneg⟩ := fields_ieeeBits neg (show ex < 2 ^ expBits t by omega) hfr
  simp only [decodeIeee, hexf, hfrf, hneg, if_neg (show ex ≠ 2 ^ expBits t - 1 by omega), minExp, ieeeMan,
    ieeeExp]
  split
  · next h => subst h; congr 1; push_cast; ring
  · next h => congr 1; push_cast [Nat.one_le_iff_ne_zero.mpr h]; ring

/-- Every code by its fields. -/
theorem eq_ieeeBits {t x : Nat} (hx : x < 2 ^ (expBits t + fracBits t + 1)) :
    x = ieeeBits t (bitOf x (expBits t + fracBits t)) (field x (fracBits t) (expBits t)) (field x 0 (fracBits t)) := by
  have hs : b2n (bitOf x (expBits t + fracBits t)) = x / 2 ^ fracBits t / 2 ^ expBits t := by
    have hlt : x / 2 ^ (expBits t + fracBits t) < 2 := Nat.div_lt_of_lt_mul (by rw [← pow_succ]; exact hx)
    rw [bitOf, Nat.testBit_eq_decide_div_mod_eq, Nat.mod_eq_of_lt hlt, Nat.div_div_eq_div_mul, ← pow_add, add_comm (fracBits t)]
    interval_cases x / 2 ^ (expBits t + fracBits t) <;> rfl
  rw [ieeeBits_eq, hs, field, field, pow_zero, Nat.div_one, Nat.mod_add_div, Nat.mod_add_div]

/-- Every finite code: its fields, and its value. -/
theorem finite_ieee {t x m : Nat} {n : Bool} {e : Int} (hx : x < 2 ^ (expBits t + fracBits t + 1))
    (h : decodeIeee t x = .num n m e) : ∃ ex fr, ex < 2 ^ expBits t - 1 ∧ fr < 2 ^ fracBits t ∧ x = ieeeBits t n ex fr ∧
      m = ieeeMan t ex fr ∧ e = ieeeExp t ex := by
  have hfr : field x 0 (fracBits t) < 2 ^ fracBits t := Nat.mod_lt _ (by positivity)
  have hex : field x (fracBits t) (expBits t) < 2 ^ expBits t := Nat.mod_lt _ (by positivity)
  have hfin : field x (fracBits t) (expBits t) ≠ 2 ^ expBits t - 1 := by
    intro hmax
    simp only [decodeIeee, if_pos hmax] at h
    split at h <;> nomatch h
  have hex' : field x (fracBits t) (expBits t) < 2 ^ expBits t - 1 := by omega
  have hval := decodeIeee_bits (bitOf x (expBits t + fracBits t)) hex' hfr
  rw [← eq_ieeeBits hx, h] at hval
  obtain ⟨hn, hm, he⟩ := Val.num.inj hval
  exact ⟨_, _, hex', hfr, by rw [hn]; exact eq_ieeeBits hx, hm, he⟩

theorem ieeeMan_lt {t fr : Nat} (ex : Nat) (hfr : fr < 2 ^ fracBits t) : ieeeMan t ex fr < 2 ^ (fracBits t + 1) := by
  rw [ieeeMan, pow_succ]
  split <;> omega

theorem le_ieeeExp (t ex : Nat) : minExp t - fracBits t ≤ ieeeExp t ex := by
  rw [ieeeExp]
  omega

/-- A significand and a last place that a format holds, by the fields of their code. -/
theorem exists_fields {t n : Nat} {q : Int} (hq : minExp t - fracBits t ≤ q) (hn : n < 2 ^ (fracBits t + 1))
    (hlow : 2 ^ fracBits t ≤ n ∨ q = minExp t - fracBits t) :
    ∃ ex fr, fr < 2 ^ fracBits t ∧ n = ieeeMan t ex fr ∧ q = ieeeExp t ex := by
  rw [pow_succ] at hn
  by_cases hsub : n < 2 ^ fracBits t
  · refine ⟨0, n, hsub, rfl, ?_⟩
    simpa [ieeeExp] using hlow.resolve_left (by omega)
  · refine ⟨(q - (minExp t - fracBits t)).toNat + 1, n - 2 ^ fracBits t, by omega, ?_, ?_⟩
    · rw [ieeeMan, if_neg (by omega)]
      omega
    · rw [ieeeExp, Nat.add_sub_cancel]
      omega

/-! ## Counts of units (R52) -/

theorem above_iff (n : Nat) (q : Int) (m : Nat) (p : Int) : above n q m p = true ↔ (m : Rat) * 2 ^ p < n * 2 ^ q := by
  rw [above]
  split
  · next h =>
    have hq : (2 : Rat) ^ q = 2 ^ (q - p).toNat * 2 ^ p := by
      rw [← zpow_natCast, ← zpow_add₀ two_ne_zero]
      congr 1
      omega
    rw [decide_eq_true_iff, hq, ← mul_assoc, mul_lt_mul_iff_left₀ (by positivity)]
    exact_mod_cast Iff.rfl
  · next h =>
    have hp : (2 : Rat) ^ p = 2 ^ (p - q).toNat * 2 ^ q := by
      rw [← zpow_natCast, ← zpow_add₀ two_ne_zero]
      congr 1
      omega
    rw [decide_eq_true_iff, hp, ← mul_assoc, mul_lt_mul_iff_left₀ (by positivity)]
    exact_mod_cast Iff.rfl

/-- How many units a scaled value makes, the discarded part included. -/
def unitsOf (c : Nat × Nat × Nat) : Rat := c.1 + c.2.1 / c.2.2

/-- The count the mode rounds a scaled value to. -/
def roundedUnits (mode : Nat) (neg : Bool) (c : Nat × Nat × Nat) : Nat :=
  if roundsUp mode neg c.2.1 c.2.2 (decide (c.1 % 2 = 1)) then c.1 + 1 else c.1

theorem scaleTo_rem_lt (man : Nat) (exp q : Int) : (scaleTo man exp q).2.1 < (scaleTo man exp q).2.2 := by
  rw [scaleTo]
  split
  · exact Nat.one_pos
  · exact Nat.mod_lt _ (by positivity)

theorem unitsOf_scaleTo (man : Nat) (exp q : Int) : unitsOf (scaleTo man exp q) * 2 ^ q = man * 2 ^ exp := by
  rw [scaleTo, unitsOf]
  split
  · next h =>
    have hexp : (2 : Rat) ^ exp = 2 ^ (exp - q).toNat * 2 ^ q := by
      rw [← zpow_natCast, ← zpow_add₀ two_ne_zero]
      congr 1
      omega
    rw [hexp]
    push_cast
    ring
  · next h =>
    have hq : (2 : Rat) ^ q = 2 ^ (q - exp).toNat * 2 ^ exp := by
      rw [← zpow_natCast, ← zpow_add₀ two_ne_zero]
      congr 1
      omega
    have hdiv : ((man / 2 ^ (q - exp).toNat : Nat) : Rat) * 2 ^ (q - exp).toNat + (man % 2 ^ (q - exp).toNat : Nat) = man := by
      exact_mod_cast Nat.div_add_mod' man _
    rw [hq, ← hdiv]
    push_cast
    field_simp

/-- What is discarded is less than a unit. -/
theorem unitsOf_bounds {c : Nat × Nat × Nat} (h : c.2.1 < c.2.2) : (c.1 : Rat) ≤ unitsOf c ∧ unitsOf c < c.1 + 1 := by
  have hu : (0 : Rat) < c.2.2 := by exact_mod_cast (Nat.zero_le _).trans_lt h
  have hr : (c.2.1 : Rat) / c.2.2 < 1 := (div_lt_one hu).mpr (by exact_mod_cast h)
  have h0 : (0 : Rat) ≤ (c.2.1 : Rat) / c.2.2 := by positivity
  exact ⟨by rw [unitsOf]; linarith, by rw [unitsOf]; linarith⟩

theorem roundedUnits_exact {mode : Nat} {neg : Bool} {c : Nat × Nat × Nat} (h : c.2.1 < c.2.2) (h0 : c.2.1 = 0) :
    roundedUnits mode neg c = c.1 := by
  have hup : roundsUp mode neg c.2.1 c.2.2 (decide (c.1 % 2 = 1)) = false := by
    unfold roundsUp
    rw [h0]
    split
    · simp only [Bool.or_eq_false_iff, Bool.and_eq_false_iff, decide_eq_false_iff_not]
      omega
    all_goals simp
  rw [roundedUnits, hup]
  rfl

theorem roundedUnits_bounds (mode : Nat) (neg : Bool) (c : Nat × Nat × Nat) :
    c.1 ≤ roundedUnits mode neg c ∧ roundedUnits mode neg c ≤ c.1 + 1 := by
  rw [roundedUnits]
  split <;> omega

/-- Under round to nearest no whole count is nearer than the rounded one. -/
theorem roundedUnits_nearest {c : Nat × Nat × Nat} (h : c.2.1 < c.2.2) (neg : Bool) (k : Int) :
    |unitsOf c - roundedUnits 0 neg c| ≤ |unitsOf c - k| := by
  have hu : (0 : Rat) < c.2.2 := by exact_mod_cast (Nat.zero_le _).trans_lt h
  obtain ⟨hlo, hhi⟩ := unitsOf_bounds h
  have hk : (k : Rat) ≤ c.1 ∨ (c.1 : Rat) + 1 ≤ k := by
    rcases le_or_gt k c.1 with h | h
    · exact .inl (by exact_mod_cast h)
    · exact .inr (by exact_mod_cast h)
  have hpick : roundedUnits 0 neg c = c.1 ∧ unitsOf c - c.1 ≤ 1 / 2 ∨ roundedUnits 0 neg c = c.1 + 1 ∧ 1 / 2 ≤ unitsOf c - c.1 := by
    simp only [unitsOf, add_sub_cancel_left, roundedUnits, roundsUp, Bool.or_eq_true, Bool.and_eq_true, decide_eq_true_eq]
    split
    · next hup =>
      refine .inr ⟨rfl, ?_⟩
      rw [div_le_div_iff₀ two_pos hu]
      exact_mod_cast show 1 * c.2.2 ≤ c.2.1 * 2 by omega
    · next hup =>
      refine .inl ⟨rfl, ?_⟩
      rw [div_le_div_iff₀ hu two_pos]
      exact_mod_cast show c.2.1 * 2 ≤ 1 * c.2.2 by omega
  rcases hpick with ⟨hr, hhalf⟩ | ⟨hr, hhalf⟩ <;> rcases hk with hk | hk <;> rw [hr] <;> push_cast <;>
    rw [abs_le] <;> constructor <;> cases abs_cases (unitsOf c - k) <;> linarith

/-! ## Packing (R45, R53) -/

variable {t : Nat}

theorem log2_ieeeMan {ex fr : Nat} (hex : ex ≠ 0) (hfr : fr < 2 ^ fracBits t) : (ieeeMan t ex fr).log2 = fracBits t := by
  rw [ieeeMan, if_neg hex, Nat.log2_eq_iff (by have := Nat.two_pow_pos (fracBits t); omega), pow_succ]
  omega

theorem bitLen_eq {n : Nat} (h : n ≠ 0) : bitLen n = n.log2 + 1 := if_neg h

theorem decode_zeroBits (ht : t = 8 ∨ t = 9 ∨ t = 10) (neg : Bool) :
    decodeVal t (b2n neg * 2 ^ (width t - 1)) = .num neg 0 (minExp t - fracBits t) := by
  have h := decodeIeee_bits (t := t) neg (expMax_pos t) (show 0 < 2 ^ fracBits t by positivity)
  rw [ieeeBits, Nat.zero_mul] at h
  rw [decodeVal_ieee ht, width_ieee ht]
  simpa [ieeeMan, ieeeExp] using h

theorem zeroBits_ieee (ht : t = 8 ∨ t = 9 ∨ t = 10) (neg : Bool) : zeroBits t neg = b2n neg * 2 ^ (width t - 1) := by
  obtain rfl | rfl | rfl := ht <;> rfl

/-- Packing undoes decoding. -/
theorem packGrid_fields (ht : t = 8 ∨ t = 9 ∨ t = 10) (neg : Bool) {ex fr : Nat} (hfr : fr < 2 ^ fracBits t)
    (h0 : ieeeMan t ex fr ≠ 0) : packGrid t neg (ieeeMan t ex fr) (ieeeExp t ex) = ieeeBits t neg ex fr := by
  simp only [packGrid, gridOf_ieee ht, if_neg h0, exponentOf_eq h0, width_ieee ht, Nat.add_sub_cancel]
  by_cases hex : ex = 0
  · subst hex
    have hlog : (ieeeMan t 0 fr).log2 < fracBits t := (Nat.log2_lt h0).mpr hfr
    rw [if_pos (by simp only [ieeeExp]; omega), ieeeBits, ieeeMan, if_pos rfl, Nat.zero_mul, Nat.add_zero]
  · have hlog := log2_ieeeMan hex hfr
    rw [hlog, bitLen_eq h0, hlog, if_neg (by simp only [ieeeExp]; omega), if_pos (by omega), Nat.add_sub_cancel, Nat.sub_self,
      pow_zero, Nat.div_one, show ((fracBits t : Int) + ieeeExp t ex - minExp t + 1).toNat = ex by simp only [ieeeExp]; omega,
      ieeeMan, if_neg hex, Nat.add_sub_cancel_left, ieeeBits]

/-- A significand that rounding carried into the next binade packs as that binade's first. -/
theorem packGrid_carry (ht : t = 8 ∨ t = 9 ∨ t = 10) (neg : Bool) {q : Int} (hq : minExp t - fracBits t ≤ q) :
    packGrid t neg (2 ^ (fracBits t + 1)) q = packGrid t neg (2 ^ fracBits t) (q + 1) := by
  have h0 (k : Nat) : 2 ^ k ≠ 0 := by positivity
  simp only [packGrid, gridOf_ieee ht, if_neg (h0 _), exponentOf_eq (h0 _), bitLen_eq (h0 _), Nat.log2_two_pow]
  have he : ((fracBits t + 1 : Nat) : Int) + q = fracBits t + (q + 1) := by push_cast; ring
  rw [he, if_neg (show ¬ (fracBits t : Int) + (q + 1) < minExp t by omega),
    if_neg (show ¬ (fracBits t : Int) + (q + 1) < minExp t by omega),
    if_pos (show (fracBits t : Int) ≤ ((fracBits t + 1 + 1 : Nat) : Int) - 1 by omega),
    if_pos (show (fracBits t : Int) ≤ ((fracBits t + 1 : Nat) : Int) - 1 by omega), Nat.add_sub_cancel, Nat.add_sub_cancel,
    Nat.add_sub_cancel_left, Nat.sub_self, pow_succ, pow_one, pow_zero, Nat.mul_div_cancel _ two_pos, Nat.div_one]

/-- A finite code is one whose value is not above the largest. -/
theorem above_max_fields (ht : t = 8 ∨ t = 9 ∨ t = 10) {ex fr : Nat} (hfr : fr < 2 ^ fracBits t)
    (hlow : ex ≠ 0 ∨ ieeeMan t ex fr ≠ 0) :
    above (ieeeMan t ex fr) (ieeeExp t ex) (maxOf t).1 (maxOf t).2 = false ↔ ex < 2 ^ expBits t - 1 := by
  have hp : 0 < 2 ^ fracBits t := by positivity
  have hmin : (minExp t) ≤ -126 := by obtain rfl | rfl | rfl := ht <;> decide
  have hmax := two_pow_expBits t
  have hmaxval : ((2 ^ (fracBits t + 1) - 1 : Nat) : Rat) * 2 ^ (1 - minExp t - fracBits t) < 2 ^ (2 - minExp t) := by
    have hlt : ((2 ^ (fracBits t + 1) - 1 : Nat) : Rat) < 2 ^ ((fracBits t + 1 : Nat) : Int) := by
      rw [zpow_natCast]
      exact_mod_cast Nat.sub_lt (by positivity) one_pos
    calc _ < (2 : Rat) ^ ((fracBits t + 1 : Nat) : Int) * 2 ^ (1 - minExp t - fracBits t) := by gcongr
      _ = 2 ^ (2 - minExp t) := by
        rw [← zpow_add₀ two_ne_zero]
        congr 1
        push_cast
        ring
  rw [← Bool.not_eq_true, above_iff, maxOf_ieee ht, not_lt]
  refine ⟨fun h => ?_, fun h => ?_⟩
  · by_contra hbig
    have hex : ex ≠ 0 := by omega
    have hpow : (2 : Rat) ^ (2 - minExp t) ≤ ieeeMan t ex fr * 2 ^ ieeeExp t ex := by
      calc (2 : Rat) ^ (2 - minExp t) ≤ 2 ^ ((fracBits t : Int) + ieeeExp t ex) :=
            zpow_le_zpow_right₀ one_le_two (by simp only [ieeeExp]; omega)
        _ = 2 ^ fracBits t * 2 ^ ieeeExp t ex := by rw [zpow_add₀ two_ne_zero, zpow_natCast]
        _ ≤ ieeeMan t ex fr * 2 ^ ieeeExp t ex := by
          gcongr
          rw [ieeeMan, if_neg hex]
          push_cast
          linarith [show (0 : Rat) ≤ fr from Nat.cast_nonneg fr]
    linarith
  · have hman : ieeeMan t ex fr ≤ 2 ^ (fracBits t + 1) - 1 := Nat.le_sub_one_of_lt (ieeeMan_lt ex hfr)
    calc (ieeeMan t ex fr : Rat) * 2 ^ ieeeExp t ex
        ≤ ((2 ^ (fracBits t + 1) - 1 : Nat) : Rat) * 2 ^ ieeeExp t ex := by gcongr
      _ ≤ ((2 ^ (fracBits t + 1) - 1 : Nat) : Rat) * 2 ^ (1 - minExp t - fracBits t) := by
        gcongr
        · exact one_le_two
        · simp only [ieeeExp]; omega

/-- A count on the grid that is not above the largest finite value packs as a code of that value. -/
theorem packGrid_value (ht : t = 8 ∨ t = 9 ∨ t = 10) (neg : Bool) {n : Nat} {q : Int} (hq : minExp t - fracBits t ≤ q)
    (hn : n ≤ 2 ^ (fracBits t + 1)) (hlow : 2 ^ fracBits t ≤ n ∨ q = minExp t - fracBits t)
    (hmax : above n q (maxOf t).1 (maxOf t).2 = false) : ∃ (m : Nat) (e : Int),
      decodeVal t (packGrid t neg n q) = .num neg m e ∧ (m : Rat) * 2 ^ e = n * 2 ^ q := by
  rcases hn.lt_or_eq with hlt | rfl
  · obtain ⟨ex, fr, hfr, rfl, rfl⟩ := exists_fields hq hlt hlow
    by_cases h0 : ieeeMan t ex fr = 0
    · refine ⟨0, minExp t - fracBits t, ?_, by rw [h0]; simp⟩
      rw [packGrid, if_pos h0, decode_zeroBits ht]
    · exact ⟨_, _, by rw [decodeVal_ieee ht, packGrid_fields ht neg hfr h0,
        decodeIeee_bits neg ((above_max_fields ht hfr (.inr h0)).mp hmax) hfr], rfl⟩
  · have hcarry : ((2 ^ (fracBits t + 1) : Nat) : Rat) * 2 ^ q = ((2 ^ fracBits t : Nat) : Rat) * 2 ^ (q + 1) := by
      rw [zpow_add₀ two_ne_zero]
      push_cast
      ring
    obtain ⟨ex, fr, hfr, hm, he⟩ := exists_fields (show minExp t - fracBits t ≤ q + 1 by omega)
      (show 2 ^ fracBits t < 2 ^ (fracBits t + 1) from Nat.pow_lt_pow_succ one_lt_two) (.inl le_rfl)
    have h0 : ieeeMan t ex fr ≠ 0 := by rw [← hm]; positivity
    have habove : above (ieeeMan t ex fr) (ieeeExp t ex) (maxOf t).1 (maxOf t).2 = false := by
      rw [← hmax, Bool.eq_iff_iff, above_iff, above_iff, hcarry, ← hm, ← he]
    exact ⟨_, _, by rw [packGrid_carry ht neg hq, hm, he, decodeVal_ieee ht, packGrid_fields ht neg hfr h0,
      decodeIeee_bits neg ((above_max_fields ht hfr (.inr h0)).mp habove) hfr], by rw [hcarry, hm, he]⟩

/-! ## Rounding a number (R52) -/

/-- The exponent of the unit a number is rounded to. -/
def unitExp (t man : Nat) (exp : Int) : Int := max (exponentOf man exp - fracBits t) (minExp t - fracBits t)

theorem roundVal_grid (ht : t = 8 ∨ t = 9 ∨ t = 10) (mode : Nat) (neg : Bool) {man : Nat} (hman : man ≠ 0) (exp : Int) :
    let q := unitExp t man exp
    let c := scaleTo man exp q
    ∃ tiny, roundVal t mode (.num neg man exp) = if above (roundedUnits mode neg c) q (maxOf t).1 (maxOf t).2 then
      (overflowBits t mode neg, FFlags.overflow)
    else (packGrid t neg (roundedUnits mode neg c) q,
      { FFlags.none with nx := decide (0 < c.2.1), uf := tiny && decide (0 < c.2.1) }) := by
  have h13 : t ≠ 13 := by omega
  simp only [roundVal, roundNum, if_neg hman, if_neg h13, roundGrid, gridOf_ieee ht]
  exact ⟨_, rfl⟩

/-- The units a number makes on the grid of its rounding: a full significand, or a smaller one at the lowest place. -/
theorem units_bounds {man : Nat} (hman : man ≠ 0) (exp : Int) :
    let q := unitExp t man exp
    (man : Rat) * 2 ^ exp < 2 ^ (fracBits t + 1) * 2 ^ q ∧
      ((2 : Rat) ^ fracBits t * 2 ^ q ≤ man * 2 ^ exp ∨ q = minExp t - fracBits t) := by
  intro q
  obtain ⟨hlo, hhi⟩ := exponentOf_spec hman exp
  have hpow (k : Nat) : (2 : Rat) ^ k * 2 ^ q = 2 ^ ((k : Int) + q) := by rw [zpow_add₀ two_ne_zero, zpow_natCast]
  refine ⟨?_, ?_⟩
  · rw [hpow]
    refine hhi.trans_le (zpow_le_zpow_right₀ one_le_two ?_)
    have : exponentOf man exp - fracBits t ≤ q := le_max_left _ _
    push_cast
    omega
  · rcases le_total (exponentOf man exp) (minExp t) with h | h
    · exact .inr (max_eq_right (by omega))
    · refine .inl ?_
      have hq : q = exponentOf man exp - fracBits t := max_eq_left (by omega)
      rw [hpow, hq, add_sub_cancel]
      exact hlo

/-- A finite value of a format is a whole number of units, or lies below the significands of full length. -/
theorem finite_units (ht : t = 8 ∨ t = 9 ∨ t = 10) {y : Nat} {z : Rat} (hy : y < 2 ^ width t)
    (hz : (decodeVal t y).exact = some z) (q : Int) : (∃ k : Int, z = k * 2 ^ q) ∨
      (|z| ≤ 2 ^ fracBits t * 2 ^ q ∧ minExp t - fracBits t < q) := by
  rw [decodeVal_ieee ht] at hz
  rw [width_ieee ht] at hy
  obtain ⟨n, m, e, hdec⟩ : ∃ n m e, decodeIeee t y = .num n m e := by
    cases h : decodeIeee t y with
    | num n m e => exact ⟨n, m, e, rfl⟩
    | _ => rw [h] at hz; nomatch hz
  obtain ⟨ex, fr, -, hfr, -, rfl, rfl⟩ := finite_ieee hy hdec
  rw [hdec, Val.exact, Option.some.injEq] at hz
  rcases le_or_gt q (ieeeExp t ex) with hle | hgt
  · refine .inl ⟨(if n then -1 else 1) * ieeeMan t ex fr * 2 ^ (ieeeExp t ex - q).toNat, ?_⟩
    have hexp : (2 : Rat) ^ ieeeExp t ex = 2 ^ (ieeeExp t ex - q).toNat * 2 ^ q := by
      rw [← zpow_natCast, ← zpow_add₀ two_ne_zero]
      congr 1
      omega
    rw [← hz, hexp]
    push_cast
    ring
  · refine .inr ⟨?_, (le_ieeeExp t ex).trans_lt hgt⟩
    have habs : |z| = ieeeMan t ex fr * 2 ^ ieeeExp t ex := by
      rw [← hz, abs_mul, abs_mul, abs_of_nonneg (show (0 : Rat) ≤ (ieeeMan t ex fr : Nat) from Nat.cast_nonneg _),
        abs_of_nonneg (show (0 : Rat) ≤ 2 ^ ieeeExp t ex by positivity)]
      split <;> simp
    have hman : (ieeeMan t ex fr : Rat) ≤ 2 ^ (fracBits t + 1) := by exact_mod_cast (ieeeMan_lt ex hfr).le
    calc |z| ≤ 2 ^ (fracBits t + 1) * 2 ^ (q - 1) := by
          rw [habs]
          gcongr
          · exact one_le_two
          · omega
      _ = 2 ^ fracBits t * 2 ^ q := by
        rw [zpow_sub_one₀ two_ne_zero, pow_succ]
        ring

/-- On the positive side: the rounded count is as near as any finite value. -/
theorem nearest_units (ht : t = 8 ∨ t = 9 ∨ t = 10) (neg : Bool) {man : Nat} (hman : man ≠ 0) (exp : Int) {y : Nat} {z : Rat}
    (hy : y < 2 ^ width t) (hz : (decodeVal t y).exact = some z) (σ : Rat) (hσ : σ = 1 ∨ σ = -1) :
    |(man : Rat) * 2 ^ exp - roundedUnits 0 neg (scaleTo man exp (unitExp t man exp)) * 2 ^ unitExp t man exp| ≤
      |man * 2 ^ exp - σ * z| := by
  set q := unitExp t man exp
  have hq : (0 : Rat) < 2 ^ q := by positivity
  obtain ⟨hhi, hlo⟩ := units_bounds (t := t) hman exp
  have hnear (k : Int) : |(man : Rat) * 2 ^ exp - roundedUnits 0 neg (scaleTo man exp q) * 2 ^ q| ≤ |(man : Rat) * 2 ^ exp - k * 2 ^ q| := by
    rw [← unitsOf_scaleTo man exp q, ← sub_mul, ← sub_mul, abs_mul, abs_mul]
    exact mul_le_mul_of_nonneg_right (roundedUnits_nearest (scaleTo_rem_lt man exp q) neg k) (abs_nonneg _)
  rcases finite_units ht hy hz q with ⟨k, rfl⟩ | ⟨hsmall, hlt⟩
  · rcases hσ with rfl | rfl
    · rw [one_mul]; exact hnear k
    · have := hnear (-k)
      push_cast at this
      rwa [show (-1 : Rat) * (k * 2 ^ q) = -k * 2 ^ q by ring]
  · have hfull : (2 : Rat) ^ fracBits t * 2 ^ q ≤ man * 2 ^ exp := hlo.resolve_right (by change q ≠ _; omega)
    have hz' : σ * z ≤ 2 ^ fracBits t * 2 ^ q := by
      refine le_trans (le_abs_self _) (le_trans (le_of_eq ?_) hsmall)
      rcases hσ with rfl | rfl <;> simp
    have h := hnear (2 ^ fracBits t)
    push_cast at h
    refine h.trans ?_
    rw [abs_of_nonneg (by linarith), abs_of_nonneg (by linarith)]
    linarith

/-- The rounded count of units, packed and decoded again. -/
theorem decode_rounded (ht : t = 8 ∨ t = 9 ∨ t = 10) (mode : Nat) (neg : Bool) {man : Nat} (hman : man ≠ 0) (exp : Int) :
    let q := unitExp t man exp
    let n := roundedUnits mode neg (scaleTo man exp q)
    above n q (maxOf t).1 (maxOf t).2 = false →
      ∃ (m : Nat) (e : Int), decodeVal t (packGrid t neg n q) = .num neg m e ∧ (m : Rat) * 2 ^ e = n * 2 ^ q := by
  intro q n hmax
  have hq : (0 : Rat) < 2 ^ q := by positivity
  obtain ⟨hhi, hlo⟩ := units_bounds (t := t) hman exp
  rw [← unitsOf_scaleTo man exp q, mul_lt_mul_iff_left₀ hq] at hhi
  rw [← unitsOf_scaleTo man exp q, mul_le_mul_iff_left₀ hq] at hlo
  obtain ⟨hfloor, hceil⟩ := unitsOf_bounds (scaleTo_rem_lt man exp q)
  obtain ⟨hn1, hn2⟩ := roundedUnits_bounds mode neg (scaleTo man exp q)
  have hlt : (scaleTo man exp q).1 < 2 ^ (fracBits t + 1) := by exact_mod_cast hfloor.trans_lt hhi
  refine packGrid_value ht neg (le_max_right _ _) (by omega) (hlo.imp_left fun h => ?_) hmax
  have hge : 2 ^ fracBits t < (scaleTo man exp q).1 + 1 := by exact_mod_cast h.trans_lt hceil
  omega

theorem overflowBits_nearest (ht : t = 8 ∨ t = 9 ∨ t = 10) (neg : Bool) : overflowBits t 0 neg = infBits t neg := by
  rw [overflowBits, if_pos (by obtain rfl | rfl | rfl := ht <;> rfl), if_pos (.inl rfl)]

theorem exact_infBits (ht : t = 8 ∨ t = 9 ∨ t = 10) (neg : Bool) : (decodeVal t (infBits t neg)).exact = none := by
  obtain rfl | rfl | rfl := ht <;> cases neg <;> rfl

/-- Settles O23: in units of the last place the result is the nearest whole number, and every finite value is a whole number
of units or not above the smallest significand of full length. -/
theorem roundsToNearest : Obligations.RoundsToNearest := by
  intro t n m e x r ht hx hr y z hy hz
  by_cases hm : m = 0
  · rw [roundVal, roundNum, if_pos hm, zeroBits_ieee ht, decode_zeroBits ht] at hr
    simp only [Val.exact, hm, Nat.cast_zero, mul_zero, zero_mul, Option.some.injEq] at hx hr
    rw [← hx, ← hr, sub_zero, abs_zero]
    exact abs_nonneg _
  · obtain ⟨tiny, hround⟩ := roundVal_grid ht 0 n hm e
    have hmax : above (roundedUnits 0 n (scaleTo m e (unitExp t m e))) (unitExp t m e) (maxOf t).1 (maxOf t).2 = false := by
      by_contra h
      rw [hround, if_pos (by simpa using h), overflowBits_nearest ht, exact_infBits ht] at hr
      nomatch hr
    obtain ⟨m', e', hdec, hval⟩ := decode_rounded ht 0 n hm e hmax
    rw [hround, if_neg (by simp [hmax]), hdec] at hr
    simp only [Val.exact, Option.some.injEq] at hx hr
    have key := nearest_units ht n hm e hy hz (if n then -1 else 1) (by cases n <;> simp)
    rw [← hval] at key
    rw [← hx, ← hr]
    cases n
    · simpa using key
    · rw [← abs_neg, ← abs_neg (_ - z)]
      convert key using 2 <;> simp <;> ring

/-! ## Values that a format holds (R52, R55) -/

/-- The unit of a number that a format holds is its last place. -/
theorem unitExp_fields {ex fr : Nat} (hfr : fr < 2 ^ fracBits t) (h0 : ieeeMan t ex fr ≠ 0) :
    unitExp t (ieeeMan t ex fr) (ieeeExp t ex) = ieeeExp t ex := by
  rw [unitExp, exponentOf_eq h0]
  by_cases hex : ex = 0
  · subst hex
    have hlog : (ieeeMan t 0 fr).log2 < fracBits t := (Nat.log2_lt h0).mpr hfr
    simp only [ieeeExp]
    omega
  · rw [log2_ieeeMan hex hfr, add_sub_cancel_left]
    exact max_eq_left (le_ieeeExp t ex)

theorem scaleTo_self (man : Nat) (exp : Int) : scaleTo man exp exp = (man, 0, 1) := by simp [scaleTo]

/-- A number that an IEEE format holds rounds to its own code and raises nothing. -/
theorem roundVal_ieee (ht : t = 8 ∨ t = 9 ∨ t = 10) (mode : Nat) {x m : Nat} {n : Bool} {e : Int} (hx : x < 2 ^ width t)
    (hdec : decodeVal t x = .num n m e) (hm : m ≠ 0) : roundVal t mode (.num n m e) = (x, FFlags.none) := by
  rw [decodeVal_ieee ht] at hdec
  rw [width_ieee ht] at hx
  obtain ⟨ex, fr, hex, hfr, rfl, rfl, rfl⟩ := finite_ieee hx hdec
  obtain ⟨tiny, hround⟩ := roundVal_grid ht mode n hm (ieeeExp t ex)
  have hunits : roundedUnits mode n (ieeeMan t ex fr, 0, 1) = ieeeMan t ex fr := roundedUnits_exact Nat.one_pos rfl
  rw [hround, unitExp_fields hfr hm, scaleTo_self, hunits, (above_max_fields ht hfr (.inr hm)).mpr hex,
    packGrid_fields ht n hfr hm]
  simp only [Bool.false_eq_true, if_false, lt_irrefl, decide_false, Bool.and_false]
  rfl

/-- A code that stands for a number other than zero rounds to itself and raises nothing. -/
def keepsCode (t mode x : Nat) : Bool :=
  match decodeVal t x with
  | .num n m e => decide (m = 0) || decide (roundVal t mode (.num n m e) = (x, FFlags.none))
  | _ => true

theorem keepsCode_e4m3 : ∀ mode < 4, ∀ hi < 16, ∀ lo < 16, keepsCode 11 mode (16 * hi + lo) = true := by decide

theorem keepsCode_e2m1 : ∀ mode < 4, ∀ x < 16, keepsCode 12 mode x = true := by decide

theorem keepsCode_mk8 : ∀ mode < 4, ∀ hi < 16, ∀ lo < 16, keepsCode 13 mode (16 * hi + lo) = true := by decide

/-- The codes of the narrow formats, taken one by one. -/
theorem keepsCode_narrow {mode x : Nat} (ht : t = 11 ∨ t = 12 ∨ t = 13) (hmode : mode < 4) (hx : x < 2 ^ width t) :
    keepsCode t mode x = true := by
  obtain rfl | rfl | rfl := ht
  · have hx : x < 256 := hx
    have h := keepsCode_e4m3 mode hmode (x / 16) (by omega) (x % 16) (by omega)
    rwa [Nat.div_add_mod] at h
  · exact keepsCode_e2m1 mode hmode x hx
  · have hx : x < 256 := hx
    have h := keepsCode_mk8 mode hmode (x / 16) (by omega) (x % 16) (by omega)
    rwa [Nat.div_add_mod] at h

/-- Settles O22: an IEEE code is packed again from its fields, the narrow codes are taken one by one, and each special case
of .f32 is one sum, product, quotient or root under each mode. -/
theorem roundingCases : Obligations.RoundingCases := by
  refine ⟨fun t mode x n m e hlo hhi hmode hx hdec hm => ?_, fun mode hmode => ?_⟩
  · rcases (by omega : (t = 8 ∨ t = 9 ∨ t = 10) ∨ t = 11 ∨ t = 12 ∨ t = 13) with ht | ht
    · exact roundVal_ieee ht mode hx hdec hm
    · simpa [keepsCode, hdec, hm] using keepsCode_narrow ht hmode hx
  · interval_cases mode <;> decide

end Sys2Proof.Machine
end

section
/-! SUPPORT. Tables of tables as one list, and the elements of a register (R23, R43). -/

namespace Sys2Proof.Machine

/-! ## Lists of equal rows -/

/-- Rows of n entries each, one after the other. -/
theorem flatten_map_range {α : Type} (f : Nat → Nat → α) (m n : Nat) :
    ((List.range m).map fun i => (List.range n).map (f i)).flatten = (List.range (m * n)).map fun k => f (k / n) (k % n) := by
  rcases Nat.eq_zero_or_pos n with rfl | hn
  · simp
  induction m with
  | zero => simp
  | succ m ih =>
    rw [List.range_succ, List.map_append, List.flatten_append, ih, Nat.succ_mul, List.range_add, List.map_append, List.map_singleton,
      List.flatten_singleton, List.map_map]
    refine congrArg _ (List.map_congr_left fun j hj => ?_)
    have hj := List.mem_range.mp hj
    rw [Function.comp_apply, Nat.mul_comm m n, Nat.mul_add_div hn, Nat.div_eq_of_lt hj, Nat.add_zero, Nat.mul_add_mod,
      Nat.mod_eq_of_lt hj]

/-- Entry j of row i. -/
theorem getD_flatten {α : Type} (f : Nat → Nat → α) (d : α) {m n i j : Nat} (hi : i < m) (hj : j < n) :
    (((List.range m).map fun i => (List.range n).map (f i)).flatten).getD (n * i + j) d = f i j := by
  have hn : 0 < n := by omega
  have hlt : n * i + j < m * n := by nlinarith
  rw [flatten_map_range, getD_map_range _ _ hlt, Nat.mul_add_div hn, Nat.div_eq_of_lt hj, Nat.add_zero, Nat.mul_add_mod,
    Nat.mod_eq_of_lt hj]

theorem lanes16_eq_range : lanes16 = List.range 16 := rfl

/-! ## Elements of a register -/

/-- An element of up to 32 bits. -/
theorem getD_elems {w i k : Nat} (hw : w ≠ 64) (x : List Word) (hi : i < 16) (hk : k < 32 / w) :
    (elems w x).getD (32 / w * i + k) 0 = elemOf w k (nth0 x i) := by
  rw [elems, if_neg hw, lanes16_eq_range]
  exact getD_flatten (fun l k => field (nth0 x l).toNat (w * k) w) 0 hi hk

/-- An element of a list of numbers put together. -/
theorem ofWords_div_mod (w : Nat) (l : List Nat) (k : Nat) : ofWords w l / 2 ^ (w * k) % 2 ^ w = l.getD k 0 % 2 ^ w := by
  have hp : 0 < 2 ^ w := by positivity
  induction l generalizing k with
  | nil => simp [ofWords]
  | cons x l ih =>
    cases k with
    | zero => simp [ofWords]
    | succ k =>
      rw [ofWords, Nat.mul_succ, Nat.pow_add, Nat.mul_comm (2 ^ (w * k)), ← Nat.div_div_eq_div_mul, Nat.add_mul_div_left _ _ hp,
        Nat.div_eq_of_lt (Nat.mod_lt x hp), Nat.zero_add, ih, List.getD_cons_succ]

/-- A number put together of n elements lies below 2^(w·n). -/
theorem ofWords_lt (w : Nat) (l : List Nat) : ofWords w l < 2 ^ (w * l.length) := by
  induction l with
  | nil => simp [ofWords]
  | cons x l ih =>
    have hx := Nat.mod_lt x (show 0 < 2 ^ w by positivity)
    rw [ofWords, List.length_cons, Nat.mul_succ, Nat.pow_add, Nat.mul_comm (2 ^ (w * l.length))]
    calc x % 2 ^ w + 2 ^ w * ofWords w l < 2 ^ w + 2 ^ w * ofWords w l := by omega
      _ = 2 ^ w * (ofWords w l + 1) := by ring
      _ ≤ 2 ^ w * 2 ^ (w * l.length) := Nat.mul_le_mul_left _ ih

/-- An element of lanes put together of elements. -/
theorem elemOf_unelems {w i k : Nat} (hw : w ≠ 64) (l : List Nat) (hi : i < 16) (hk : k < 32 / w) :
    elemOf w k (nth0 (unelems w l) i) = l.getD (32 / w * i + k) 0 % 2 ^ w := by
  have h32 : w * (32 / w) ≤ 32 := Nat.mul_div_le 32 w
  have hlt : ofWords w ((List.range (32 / w)).map fun k => l.getD (32 / w * i + k) 0) < 2 ^ 32 := by
    refine (ofWords_lt w _).trans_le (Nat.pow_le_pow_right two_pos ?_)
    rwa [List.length_map, List.length_range]
  rw [unelems, if_neg hw, nth0, getD_lanes16_map _ _ hi, elemOf, BitVec.toNat_ofNat, Nat.mod_eq_of_lt hlt, ofWords_div_mod,
    getD_map_range _ _ hk]

/-- A lane of 32 bits put together of its element. -/
theorem toNat_unelems_word (l : List Nat) {i : Nat} (hi : i < 16) : (nth0 (unelems 32 l) i).toNat = l.getD i 0 % 2 ^ 32 := by
  have h := elemOf_unelems (w := 32) (by decide) l hi (k := 0) (by decide)
  rw [elemOf, Nat.mul_zero, pow_zero, Nat.div_one, Nat.mod_eq_of_lt (BitVec.isLt _)] at h
  simpa using h

/-- A 32-bit element is its lane. -/
theorem getD_elems_word (x : List Word) {i : Nat} (hi : i < 16) : (elems 32 x).getD i 0 = (nth0 x i).toNat := by
  have h := getD_elems (w := 32) (by decide) x hi (k := 0) (by decide)
  rw [elemOf, Nat.mul_zero, pow_zero, Nat.div_one, Nat.mod_eq_of_lt (BitVec.isLt _)] at h
  simpa using h

end Sys2Proof.Machine
end

section
/-! SUPPORT. The reduction tree and its latches (R60, R61, R170). -/

namespace Sys2Proof.Machine

/-! ## The tree (R60, R61) -/

theorem treeAdd_fst (t a b : Nat) : (treeAdd t a b).1 = if t = 4 then (a + b) % 2 ^ 32 else (fAdd t 0 a b).1 := by
  rw [treeAdd]
  split <;> rfl

/-- The value of a node is the sum of its children's. -/
theorem treeNode_value (t : Nat) (a b : Option (Nat × FFlags)) :
    (treeNode t a b).map (fun x => x.1) = sumOf t (a.map fun x => x.1) (b.map fun x => x.1) := by
  cases a <;> cases b <;> simp [treeNode, sumOf, treeAdd_fst]

theorem treeLevel_range (t : Nat) (f : Nat → Option (Nat × FFlags)) (m : Nat) :
    treeLevel t ((List.range (2 * m)).map f) = (List.range m).map fun k => treeNode t (f (2 * k)) (f (2 * k + 1)) := by
  induction m generalizing f with
  | zero => rfl
  | succ m ih =>
    have hpair : (List.range (2 * (m + 1))).map f = f 0 :: f 1 :: (List.range (2 * m)).map fun k => f (k + 2) := by
      rw [show 2 * (m + 1) = 2 * m + 1 + 1 by omega, List.range_succ_eq_map, List.range_succ_eq_map]
      simp [Function.comp_def]
    rw [hpair, treeLevel, ih, List.range_succ_eq_map]
    simp [Function.comp_def, Nat.mul_add]

/-- The root of a full tree holds the sum of its values. -/
theorem treeRoot_value (t n : Nat) (f : Nat → Option (Nat × FFlags)) :
    (treeRoot t n ((List.range (2 ^ n)).map f)).map (fun x => x.1) = sumTree t n fun k => (f k).map fun x => x.1 := by
  induction n generalizing f with
  | zero => simp [treeRoot, sumTree]
  | succ n ih =>
    rw [pow_succ, Nat.mul_comm, treeRoot, treeLevel_range, ih, sumTree]
    simp only [treeNode_value]

/-- A level above the root of a tree changes nothing. -/
theorem treeRoot_above (t n : Nat) (f : Nat → Option (Nat × FFlags)) :
    treeRoot t (n + 1) ((List.range (2 ^ n)).map f) = treeRoot t n ((List.range (2 ^ n)).map f) := by
  induction n generalizing f with
  | zero => rfl
  | succ n ih =>
    have hlevel (m : Nat) : treeRoot t (m + 1) ((List.range (2 ^ (n + 1))).map f) =
        treeRoot t m ((List.range (2 ^ n)).map fun k => treeNode t (f (2 * k)) (f (2 * k + 1))) := by
      rw [pow_succ, Nat.mul_comm, treeRoot, treeLevel_range]
    rw [hlevel, hlevel, ih]

/-! ## The lanes of a latch (R60) -/

/-- The numbers of a table rise. -/
def risingKeys {α : Type} (l : Store α) : Prop := Store.wf 0#32 (l.map fun e => (e.1, 1#32)) = true

theorem lookup_below {α : Type} {l : Store α} {b j : Nat} (h : Store.okAbove 0#32 b (l.map fun e => (e.1, 1#32)) = true)
    (hj : j < b) : lookup l j = none := by
  induction l generalizing b with
  | nil => rfl
  | cons e l ih =>
    obtain ⟨k, v⟩ := e
    simp only [List.map_cons, Store.okAbove, Bool.and_eq_true, decide_eq_true_eq] at h
    rw [lookup, ih h.2 (by omega)]
    exact if_neg (by omega)

/-- What a key of a table with rising keys reads after one is listed. -/
theorem lookup_insert {α : Type} {l : Store α} (h : risingKeys l) (k j : Nat) (x : α) :
    lookup (Store.insert l k x) j = if j = k then some x else lookup l j := by
  obtain ⟨b, hb⟩ : ∃ b, Store.okAbove 0#32 b (l.map fun e => (e.1, 1#32)) = true := ⟨0, h⟩
  clear h
  induction l generalizing b with
  | nil => simp [Store.insert, lookup]
  | cons e l ih =>
    obtain ⟨k', v⟩ := e
    simp only [List.map_cons, Store.okAbove, Bool.and_eq_true, decide_eq_true_eq] at hb
    have hbelow {j : Nat} (hj : j < k' + 1) : lookup l j = none := lookup_below hb.2 hj
    rw [Store.insert]
    by_cases hkk : k = k'
    · rw [if_pos hkk, lookup, lookup, hkk]
      by_cases hj : j = k'
      · simp [hj, hbelow]
      · simp [hj]
    · by_cases hlt : k < k'
      · rw [if_neg hkk, if_pos hlt, lookup, lookup]
        by_cases hj : j = k
        · simp [hj, hkk, hbelow (show k < k' + 1 by omega)]
        · simp only [if_neg hj]
          split <;> simp_all
      · rw [if_neg hkk, if_neg hlt, lookup, lookup, ih _ hb.2]
        by_cases hj : j = k
        · simp [hj]
        · simp [hj]

theorem Store.map_insert {α β : Type} (f : α → β) (l : Store α) (k : Nat) (x : α) :
    (Store.insert l k x).map (fun e => (e.1, f e.2)) = Store.insert (l.map fun e => (e.1, f e.2)) k (f x) := by
  induction l with
  | nil => rfl
  | cons e l ih =>
    obtain ⟨k', v⟩ := e
    simp only [Store.insert, List.map_cons]
    split
    · rfl
    · split
      · rfl
      · rw [List.map_cons, ih]

theorem risingKeys_insert {α : Type} {l : Store α} (h : risingKeys l) (k : Nat) (x : α) : risingKeys (Store.insert l k x) := by
  rw [risingKeys, Store.map_insert fun _ => 1#32]
  exact Store.okAbove_insert h (Nat.zero_le _) (by decide)

/-- The width of a latch's values. -/
def latchWidth (pair : Bool) : Nat := if pair then 64 else 32

theorem Latch.value_lt (k : Latch) (pair : Bool) {e x : Nat} (h : k.value pair e = some x) : x < 2 ^ latchWidth pair := by
  cases pair with
  | false =>
    simp only [Latch.value, Bool.false_eq_true, if_false, Option.map_eq_some_iff] at h
    obtain ⟨w, -, rfl⟩ := h
    exact w.isLt
  | true =>
    simp only [Latch.value, if_true] at h
    split at h
    · next a b _ _ =>
      rw [← Option.some.inj h, latchWidth, if_pos rfl]
      have := a.isLt
      have := b.isLt
      omega
    · cases h

/-- A lane of a latch after one is set. -/
theorem Latch.value_put {k : Latch} (h : risingKeys k.lanes) (pair : Bool) (e j x : Nat) :
    (k.put pair e x).value pair j = if j = e then some (x % 2 ^ latchWidth pair) else k.value pair j := by
  cases pair with
  | false =>
    simp only [Latch.value, Latch.put, Bool.false_eq_true, if_false, lookup_insert h, latchWidth]
    split <;> simp
  | true =>
    simp only [Latch.value, Latch.put, if_true, lookup_insert (risingKeys_insert h _ _), lookup_insert h, latchWidth]
    by_cases hj : j = e
    · subst hj
      simp only [if_true, if_neg (show ¬ 2 * j = 2 * j + 1 by omega), BitVec.toNat_ofNat]
      congr 1
      omega
    · simp only [if_neg hj, if_neg (show ¬ 2 * j = 2 * e by omega), if_neg (show ¬ 2 * j + 1 = 2 * e by omega),
        if_neg (show ¬ 2 * j = 2 * e + 1 by omega), if_neg (show ¬ 2 * j + 1 = 2 * e + 1 by omega)]

theorem Latch.risingKeys_put {k : Latch} (h : risingKeys k.lanes) (pair : Bool) (e x : Nat) :
    risingKeys (k.put pair e x).lanes := by
  rw [Latch.put]
  cases pair
  · exact risingKeys_insert h _ _
  · exact risingKeys_insert (risingKeys_insert h _ _) _ _

/-- A lane of a latch after a tree result has been added into one (R60). -/
theorem Latch.addTree_spec {k : Latch} (h : risingKeys k.lanes) (t : Nat) (pair : Bool) (e : Nat) (r : Option (Nat × FFlags)) :
    risingKeys (k.addTree t pair e r).1.lanes ∧ (k.addTree t pair e r).1.type = k.type ∧
      ∀ j, (k.addTree t pair e r).1.value pair j = if j = e then
        (sumOf t (k.value pair e) (r.map fun x => x.1)).map fun x => x % 2 ^ latchWidth pair else k.value pair j := by
  cases r with
  | none =>
    refine ⟨h, rfl, fun j => ?_⟩
    split
    · next hj =>
      subst hj
      cases hv : k.value pair j with
      | none => simpa [Latch.addTree, sumOf] using hv
      | some x => simpa [Latch.addTree, sumOf, Nat.mod_eq_of_lt (k.value_lt pair hv)] using hv
    · rfl
  | some x =>
    cases hv : k.value pair e with
    | none => exact ⟨by simpa [Latch.addTree, hv] using Latch.risingKeys_put h pair e x.1, by simp [Latch.addTree, hv, Latch.put],
        fun j => by simp [Latch.addTree, hv, Latch.value_put h, sumOf]⟩
    | some old => exact ⟨by simpa [Latch.addTree, hv] using Latch.risingKeys_put h pair e _, by simp [Latch.addTree, hv, Latch.put],
        fun j => by simp [Latch.addTree, hv, Latch.value_put h, sumOf, treeAdd_fst]⟩

/-- The lanes of a latch after a result for each of the first n has been added into it. -/
theorem Latch.foldl_addTree {k : Latch} (h : risingKeys k.lanes) (t : Nat) (pair : Bool) (r : Nat → Option (Nat × FFlags))
    (f : FFlags) (n : Nat) :
    let z := (List.range n).foldl (fun (m : Latch × FFlags) e =>
      ((m.1.addTree t pair e (r e)).1, m.2.or (m.1.addTree t pair e (r e)).2)) (k, f)
    risingKeys z.1.lanes ∧ z.1.type = k.type ∧ ∀ j, z.1.value pair j = if j < n then
      (sumOf t (k.value pair j) ((r j).map fun x => x.1)).map fun x => x % 2 ^ latchWidth pair else k.value pair j := by
  induction n with
  | zero => exact ⟨h, rfl, fun j => rfl⟩
  | succ n ih =>
    obtain ⟨hkeys, htype, hval⟩ := ih
    rw [List.range_succ, List.foldl_append]
    obtain ⟨hkeys', htype', hval'⟩ := Latch.addTree_spec hkeys t pair n (r n)
    refine ⟨hkeys', htype'.trans htype, fun j => (hval' j).trans ?_⟩
    rw [hval, hval, if_neg (lt_irrefl n)]
    rcases Nat.lt_trichotomy j n with hj | rfl | hj
    · rw [if_neg (by omega), if_pos hj, if_pos (by omega)]
    · rw [if_pos rfl, if_pos (by omega)]
    · rw [if_neg (by omega), if_neg (by omega), if_neg (by omega)]

/-! ## VRED and RDRAIN (R60, R61, R170) -/

/-- A vector slot whose operands may be named and whose guard is not false as a whole does its operation. -/
theorem vectorSlot_runs {o : VOp} {names : List (Nat × Nat)} {body : State → State} {s : State} (hn : s.named names)
    (hr : o.runs) : vectorSlot o names body s = .next (body s) := by
  simp only [vectorSlot, State.checkNames_of_named hn, State.unlessTrapped, if_true, neverGuard_of_runs hr, Bool.false_eq_true,
    if_false]

/-- The types that the reduction tree accepts (R60). -/
theorem type_of_reduction {o : VOp} (h : wf (.vred o) = true ∨ wf (.rdrain o) = true) :
    o.type = 4#4 ∨ o.type = 9#4 ∨ o.type = 10#4 := by
  have ht : o.type.toNat ∈ [4, 9, 10] := by
    rcases h with h | h <;>
    · simp only [wf, wfLow, vRule, vLowOk, Bool.and_eq_true, List.contains_iff_mem] at h
      obtain ⟨⟨⟨⟨h, -⟩, -⟩, -⟩, -⟩ := h
      exact h
  simp only [List.mem_cons, List.not_mem_nil, or_false] at ht
  exact ht.imp BitVec.eq_of_toNat_eq (Or.imp BitVec.eq_of_toNat_eq BitVec.eq_of_toNat_eq)

/-- The width of the values of a reduction is that of a lane or a lane pair. -/
theorem width_of_reduction {o : VOp} (h : o.type = 4#4 ∨ o.type = 9#4 ∨ o.type = 10#4) :
    width o.type.toNat = latchWidth (decide (o.type = 10#4)) := by
  obtain h | h | h := h <;> rw [h] <;> rfl

theorem decide_type_f64 (o : VOp) : decide (o.type.toNat = 10) = decide (o.type = 10#4) := by
  rw [Bool.eq_iff_iff, decide_eq_true_iff, decide_eq_true_iff, ← BitVec.toNat_inj]
  rfl

theorem Latch.typeBad_eq_false {k : Latch} {t : Nat} (h : k.type = 0 ∨ k.type = t) : k.typeBad t = false := by
  rcases h with h | h <;> simp [Latch.typeBad, h]

/-- The guard of an element: its cluster is in the mask, and the guard bit of its lane, or of its even lane, is true. -/
theorem State.guard_elem (s : State) (o : VOp) (pair : Bool) {cl e : Nat} (he : e < if pair then 8 else 16) :
    (bitOf o.mask.toNat cl && (s.guardOf o pair cl).getD (elemLane (if pair then 64 else 32) e) false) =
      o.active s.act.regs cl (if pair then 2 * e else e) := by
  have hm : bitOf o.mask.toNat cl = o.mask.getLsbD cl := rfl
  cases pair with
  | true =>
    have h2 : 2 * e / 2 = e := by omega
    have he : e < 8 := he
    have hg : (s.guardOf o true cl).getD (2 * e) false = s.act.regs.laneGuard o.gp.toNat o.gs cl (2 * e) := by
      rw [State.guardOf, if_pos rfl, pairGuard, getD_lanes16_map _ _ (by omega), h2]
      exact getD_lanes16_map _ _ (by omega)
    simp only [if_true, elemLane, hm, hg]
    rfl
  | false =>
    have hg : (s.guardOf o false cl).getD e false = s.act.regs.laneGuard o.gp.toNat o.gs cl e := getD_lanes16_map _ _ he
    simp only [Bool.false_eq_true, if_false, elemLane, hm, if_neg (show (32 : Nat) ≠ 64 by decide),
      show e / (32 / 32) = e from Nat.div_one e, hg]
    rfl

/-- An element of the lanes of a cluster: a lane, or a lane pair. -/
theorem getD_elems_unit {t : BitVec 4} (x : List Word) {e : Nat} (he : e < if decide (t = 10#4) then 8 else 16) :
    (elems (if decide (t = 10#4) then 64 else 32) x).getD e 0 = laneOrPair t x e := by
  by_cases ht : t = 10#4
  · subst ht
    exact getD_elems_pair x he
  · simp only [ht, decide_false, Bool.false_eq_true, if_false] at he ⊢
    rw [getD_elems_word x he, laneOrPair, if_neg ht]

/-- What comes to element e of a latch: the tree over the clusters that take part (R60). -/
theorem State.clusterTree_value (s : State) (o : VOp) (src : List (Nat × List Word)) {e : Nat}
    (he : e < if decide (o.type = 10#4) then 8 else 16) :
    (s.clusterTree o (decide (o.type = 10#4)) src e).map (fun x => x.1) = sumTree o.type.toNat 3 fun cl =>
      if o.active s.act.regs cl (if decide (o.type = 10#4) then 2 * e else e) then some (laneOrPair o.type (clLanes src cl) e)
      else none := by
  rw [State.clusterTree, show clusters8 = List.range (2 ^ 3) from rfl, treeRoot_value]
  refine congrArg _ (funext fun cl => ?_)
  rw [s.guard_elem o _ he, getD_elems_unit _ he, apply_ite (Option.map fun x : Nat × FFlags => x.1)]
  rfl

/-- Flags on their way leave the registers. -/
theorem State.regs_land (s : State) (slot : Slot) (due : Nat) (e : Eff) : (s.land slot due e).act.regs = s.act.regs := by
  rw [State.land, State.putLanding]
  split
  · rw [State.act_onAct]
    rfl
  · split
    · rw [State.raise, State.act_onIss]
    · rw [State.act_onAct]
      rfl

theorem State.regs_landFlags (s : State) (slot : Slot) (due : Nat) (l : List (Nat × FFlags)) :
    (s.landFlags slot due l).act.regs = s.act.regs := by
  induction l generalizing s with
  | nil => exact s.regs_land slot due .fpu
  | cons e l ih =>
    rw [State.landFlags, ih]
    split
    · exact s.regs_land slot due _
    · rfl

theorem State.regs_landTree (s : State) (o : VOp) (due : Nat) (pair : Bool) (f : FFlags) :
    (s.landTree o due pair f).act.regs = s.act.regs := by
  rw [State.landTree]
  split
  · rfl
  · exact s.regs_landFlags _ _ _

theorem State.regs_landBypass (s : State) (slot : Slot) (due src : Nat) (on : Nat → List Bool) (l : List (Nat × List Word)) :
    (s.landBypass slot due src on l).act.regs = s.act.regs := by
  induction l generalizing s with
  | nil => rfl
  | cons e l ih => rw [State.landBypass, ih, State.regs_land]

/-! ## What a push to a stream leaves (R154) -/

theorem State.preds_pushOne (s : State) (slot : Slot) (cl bit q due : Nat) (lanes : List Word) :
    (s.pushOne slot cl bit q due lanes).act.regs.p = s.act.regs.p := by
  have hpipe (b : Binding) (num : Nat) (nb : Bool) (nbp : Nat) :
      (s.pushPipe slot q due b num nb nbp lanes).act.regs.p = s.act.regs.p := by
    simp only [State.pushPipe, State.brokenPipe, State.landSp, State.pushGate, State.hold, State.raise]
    split
    · rw [State.act_onIss]
    · split
      · split
        · split
          · rfl
          · rw [State.regs_land]
        · rw [State.act_onIss]
      · split
        · simp [Regs.setQ]
        · rw [State.act_onIss]
  rw [State.pushOne]
  split
  · exact congrArg (fun x => x.regs.p) (s.act_onIss _)
  · split
    · exact congrArg (fun x => x.regs.p) (s.act_onIss _)
    · split
      · rw [State.pushAffine]
        dsimp only
        split
        · exact congrArg (fun x => x.regs.p) (s.act_onIss _)
        · simp [State.pushGate, Regs.setQ]
      · rw [State.pushCbuf]
        dsimp only
        split
        · exact congrArg (fun x => x.regs.p) (s.act_onIss _)
        · simp [State.pushGate, Regs.setQ]
      · exact hpipe _ _ _ _
      · exact congrArg (fun x => x.regs.p) (s.act_onIss _)

theorem State.preds_pushAll (s : State) (slot : Slot) (bit q due : Nat) (l : List (Nat × List Word)) :
    (s.pushAll slot bit q due l).act.regs.p = s.act.regs.p := by
  induction l generalizing s with
  | nil => rfl
  | cons e l ih => rw [State.pushAll, ih, State.preds_pushOne]

/-- A vector result leaves the vector predicates. -/
theorem State.preds_writeVector (s : State) (slot : Slot) (bit n due src : Nat) (on : Nat → List Bool)
    (vals : List (Nat × List Word)) : (s.writeVector slot bit n due src on vals).act.regs.p = s.act.regs.p := by
  rw [State.writeVector, State.regs_landBypass]
  split
  · rw [State.regs_land]
  · exact s.preds_pushAll _ _ _ _ _

/-- The guards of a slot are bits of the vector predicates. -/
theorem State.anyLane_congr {s t : State} (h : t.act.regs.p = s.act.regs.p) (o : VOp) (pair : Bool) :
    t.anyLane o pair = s.anyLane o pair := by
  simp only [State.anyLane, State.guardOf, Regs.guardLanes, Regs.laneGuard, Regs.readP, h]

/-- What RDRAIN makes of a latch: the root of the tree over its lanes, or +0 of none, with the flags (R61). -/
def Latch.drained (k : Latch) (t : Nat) (pair : Bool) : FRes :=
  (treeRoot t 4 ((List.range (if pair then 8 else 16)).map fun e => (k.value pair e).map fun x => (x, FFlags.none))).getD
    (0, FFlags.none)

/-- The root of the tree over 16 lanes, or over 8 lane pairs. -/
theorem Latch.drained_fst (k : Latch) (t : Nat) (pair : Bool) :
    (k.drained t pair).1 = (sumTree t (if pair then 3 else 4) fun n => k.value pair n).getD 0 := by
  have hval : (fun n => ((k.value pair n).map fun x => (x, FFlags.none)).map fun x => x.1) = fun n => k.value pair n := by
    funext n
    cases k.value pair n <;> rfl
  have hroot (n : Nat) (h : 2 ^ n = if pair then 8 else 16) (h4 : treeRoot t 4 ((List.range (2 ^ n)).map fun e =>
      (k.value pair e).map fun x => (x, FFlags.none)) = treeRoot t n ((List.range (2 ^ n)).map fun e =>
      (k.value pair e).map fun x => (x, FFlags.none))) :
      (k.drained t pair).1 = (sumTree t n fun n => k.value pair n).getD 0 := by
    rw [← hval, ← treeRoot_value, Latch.drained, ← h, h4]
    cases treeRoot t n _ <;> rfl
  cases pair with
  | true => exact hroot 3 rfl (treeRoot_above t 3 _)
  | false => exact hroot 4 rfl rfl

/-- An element of lanes that all hold one value. -/
theorem laneOrPair_constant {t : BitVec 4} (x : Nat) {e : Nat} (he : e < if decide (t = 10#4) then 8 else 16) :
    laneOrPair t (unelems (latchWidth (decide (t = 10#4))) ((List.range (if decide (t = 10#4) then 8 else 16)).map fun _ => x)) e =
      x % 2 ^ latchWidth (decide (t = 10#4)) := by
  by_cases ht : t = 10#4
  · subst ht
    refine (laneOrPair_unelems _ he).trans ?_
    rw [getD_map_range _ _ he]
    rfl
  · simp only [ht, decide_false, Bool.false_eq_true, if_false, latchWidth, laneOrPair] at he ⊢
    rw [toNat_unelems_word _ he, getD_map_range _ _ he]

/-- Settles O20: a latch lane after the fold over the lanes is that of its own step, and the tree of the model is the tree of
sums. -/
theorem reductionResults : Obligations.ReductionResults := by
  unfold Obligations.ReductionResults
  refine ⟨fun o s k hwf hn hr hk htype hkeys => ?_, fun o s k hwf hn hr hk htype => ?_⟩
  · intro r pair
    have hw := width_of_reduction (type_of_reduction (.inl hwf))
    have h10 : decide (o.type.toNat = 10) = pair := decide_type_f64 o
    obtain ⟨-, hty, hval⟩ := Latch.foldl_addTree (k := { k with type := o.type.toNat }) hkeys o.type.toNat pair
      (s.clusterTree o pair (s.readField o.slotOf 22 o.src1.toNat (clustersOf o)).1) FFlags.none (if pair then 8 else 16)
    refine ⟨_, _, vectorSlot_runs hn hr, ?_, hty, fun e he => ?_⟩
    · dsimp only
      rw [← hk, Latch.typeBad_eq_false htype, if_neg Bool.false_ne_true, h10, State.regs_landTree, State.act_onAct]
      rfl
    · rw [hval, if_pos he, hw, s.clusterTree_value o _ he]
      rfl
  · intro pair
    have ht := type_of_reduction (.inr hwf)
    have hw := width_of_reduction ht
    have h10 : decide (o.type.toNat = 10) = pair := decide_type_f64 o
    refine ⟨fun hoff => (vectorSlot_runs hn hr).trans ?_, fun hon =>
      ⟨unelems (latchWidth pair) ((List.range (if pair then 8 else 16)).map fun _ => (k.drained o.type.toNat pair).1),
        (k.drained o.type.toNat pair).2, (vectorSlot_runs hn hr).trans ?_, fun e he => ?_⟩⟩
    · dsimp only
      rw [← hk, Latch.typeBad_eq_false htype, h10, hoff]
      rfl
    · have h4 : decide (o.type.toNat = 4) = decide (o.type = 4#4) := by
        rw [Bool.eq_iff_iff, decide_eq_true_iff, decide_eq_true_iff, ← BitVec.toNat_inj]
        rfl
      dsimp only
      rw [← hk, Latch.typeBad_eq_false htype, h10, hon, State.landTree, State.anyLane_congr (s := s), hon]
      · simp only [Bool.not_true, Bool.or_false, decide_eq_true_eq, Bool.false_eq_true, if_false]
        rfl
      · rw [State.preds_writeVector, State.act_onAct]
    · rw [laneOrPair_constant _ he, Latch.drained_fst, hw]

end Sys2Proof.Machine
end

section
/-! SUPPORT. The group operations DSPLIT, QPACK and QUNPACK: what they put in flight (R164 to R166). -/

namespace Sys2Proof.Machine

/-! ## The clusters of a slot (R88) -/

theorem mem_clustersOf (o : VOp) (cl : Nat) : cl ∈ clustersOf o ↔ o.has cl := by
  have h8 : cl ∈ clusters8 ↔ cl < 8 := by rw [show clusters8 = List.range 8 from rfl, List.mem_range]
  rw [clustersOf, maskClusters, List.mem_filter, h8]
  rfl

theorem nodup_clustersOf (o : VOp) : (clustersOf o).Nodup := List.Nodup.filter _ (show clusters8.Nodup by decide)

/-! ## Several results in flight -/

/-- Results have joined those in flight, and nothing else of the core's context and issue, and nothing outside, has changed. -/
def State.joins (s t : State) (l : List Landing) : Prop :=
  t.act = { s.act with pend := s.act.pend ++ l } ∧ t.here.iss = s.here.iss ∧ s.sameOutside t

theorem State.joins_nil {s t : State} (ha : t.act = s.act) (hi : t.here.iss = s.here.iss) (ho : s.sameOutside t) :
    s.joins t [] := ⟨by rw [ha, List.append_nil], hi, ho⟩

theorem State.joins.trans {s t u : State} {l m : List Landing} (h : s.joins t l) (k : t.joins u m) : s.joins u (l ++ m) := by
  obtain ⟨ha, hi, ho⟩ := h
  obtain ⟨ka, ki, ko⟩ := k
  exact ⟨by rw [ka, ha, List.append_assoc], ki.trans hi, ho.trans ko⟩

theorem State.joins_inFlight (s : State) (l : List Landing) : s.joins (s.inFlight l) l :=
  ⟨State.act_onAct _ _, State.iss_onAct _ _, State.sameOutside_onAct _ _⟩

theorem State.joins.flight {s t : State} {l : List Landing} (h : s.joins t l) (slot : Slot) (due : Nat) (e : Eff) :
    t.flight slot due e = s.flight slot due e := by
  rw [State.flight, State.flight, h.1, h.2.1]

/-- Other slots have written no vector register when only this slot has put results in flight since. -/
theorem State.joins.clearVectors {s t : State} {slot : Slot} {l : List Landing} (h : s.joins t l) (hc : s.clearVectors slot)
    (hl : ∀ o ∈ l, o.slot = slot) : t.clearVectors slot := by
  intro o ho hseq heng hslot
  rw [h.1] at ho hseq
  exact (List.mem_append.mp ho).elim (fun ho => hc o ho hseq heng hslot) fun ho => absurd (hl o ho) hslot

theorem State.joins.pend {s t : State} {l : List Landing} (h : s.joins t l) : t.act.pend = s.act.pend ++ l := by rw [h.1]

theorem State.joins.regs {s t : State} {l : List Landing} (h : s.joins t l) : t.act.regs = s.act.regs := by rw [h.1]

/-- The vector results of one slot join those in flight, one after the other. -/
theorem State.joins_foldl_destCells {s : State} {slot : Slot} (h : s.clearVectors slot) (due : Nat) (on : Nat → List Bool)
    (l : List (Nat × List (Nat × List Word))) :
    s.joins (l.foldl (fun s r => s.land slot due (.v (destCells s.act.regs r.1 on r.2))) s)
      (l.map fun r => s.flight slot due (.v (destCells s.act.regs r.1 on r.2))) := by
  induction l generalizing s with
  | nil => exact State.joins_nil rfl rfl s.sameOutside_refl
  | cons r l ih =>
    have hland := s.joins_inFlight [s.flight slot due (.v (destCells s.act.regs r.1 on r.2))]
    have hrest := ih (hland.clearVectors h fun o ho => by rw [List.mem_singleton.mp ho]; rfl)
    rw [List.foldl_cons, State.land_clear s slot due _ (h.clear_v _)]
    simp only [hland.flight, hland.regs] at hrest
    exact hland.trans hrest

/-- Flags clash with nothing. -/
theorem State.joins_land_flags (s : State) (slot : Slot) (due : Nat) {e : Eff} (he : e.flagPending = true) :
    s.joins (s.land slot due e) [s.flight slot due e] := by
  rw [State.land_clear s slot due e fun o _ _ _ _ => ?_]
  · exact s.joins_inFlight _
  · cases e <;> cases he <;> cases o.eff with
      | shut _ commit _ _ => cases commit <;> rfl
      | _ => rfl

theorem State.joins_landFlags (s : State) (slot : Slot) (due : Nat) (l : List (Nat × FFlags)) :
    ∃ m, s.joins (s.landFlags slot due l) m ∧ ∀ o ∈ m, ∃ e, e.flagPending = true ∧ o = s.flight slot due e := by
  induction l generalizing s with
  | nil => exact ⟨_, s.joins_land_flags slot due rfl, fun o ho => ⟨.fpu, rfl, List.mem_singleton.mp ho⟩⟩
  | cons x l ih =>
    rw [State.landFlags]
    split
    · have hland := s.joins_land_flags slot due (e := .flags x.1 x.2) rfl
      obtain ⟨m, hm, hall⟩ := ih (s.land slot due (.flags x.1 x.2))
      refine ⟨_, hland.trans hm, fun o ho => (List.mem_append.mp ho).elim (fun ho => ?_) fun ho => ?_⟩
      · exact ⟨_, rfl, List.mem_singleton.mp ho⟩
      · obtain ⟨e, he, rfl⟩ := hall o ho
        exact ⟨e, he, hland.flight _ _ _⟩
    · exact ih s

theorem State.joins_landBypass (s : State) (slot : Slot) (due src : Nat) (on : Nat → List Bool) (l : List (Nat × List Word)) :
    s.joins (s.landBypass slot due src on l) (l.map fun e => s.flight slot due (.bx src e.1 (guardedLanes (on e.1) e.2))) := by
  induction l generalizing s with
  | nil => exact State.joins_nil rfl rfl s.sameOutside_refl
  | cons e l ih =>
    have hland := s.joins_inFlight [s.flight slot due (.bx src e.1 (guardedLanes (on e.1) e.2))]
    have hrest := ih (s.inFlight [s.flight slot due (.bx src e.1 (guardedLanes (on e.1) e.2))])
    simp only [hland.flight] at hrest
    rw [State.landBypass, State.land_bx]
    exact hland.trans hrest

/-- A draw of a free value changes nothing but their counter. -/
theorem State.joins_draw (s : State) : s.joins s.draw.2 [] := State.joins_nil rfl rfl s.sameOutside_refl

/-! ## The registers of a group (R164 to R166) -/

/-- A group operation puts its registers in flight, and beside them a bypass value and flags. -/
theorem State.joins_writeGroup {s : State} {o : VOp} (hc : s.clearVectors o.slotOf) (vals : List (Nat × List (Nat × List Word)))
    (flags : List (Nat × FFlags)) : ∃ m, s.joins (s.writeGroup o vals flags)
      ((vals.map fun r => s.flight o.slotOf (s.cycle + 6)
        (.v (destCells s.act.regs r.1 (fun _ => lanes16.map fun _ => true) r.2))) ++ m) ∧
      ∀ f ∈ m, ∃ e, f = s.flight o.slotOf (s.cycle + 6) e ∧ ∀ c, e ≠ .v c := by
  have hregs := State.joins_foldl_destCells hc (s.cycle + 6) (fun _ => lanes16.map fun _ => true) vals
  rw [State.writeGroup]
  generalize vals.foldl _ s = s1 at hregs ⊢
  generalize (vals.getD (s1.draw.1 % vals.length) (0, [])).2 = pick
  have hdraw := hregs.trans s1.joins_draw
  have hbx := s1.draw.2.joins_landBypass o.slotOf (s.cycle + 6) (slotBypass o.slotOf) (fun _ => lanes16.map fun _ => true) pick
  obtain ⟨m, hm, hflags⟩ := (s1.draw.2.landBypass o.slotOf (s.cycle + 6) (slotBypass o.slotOf)
    (fun _ => lanes16.map fun _ => true) pick).joins_landFlags o.slotOf (s.cycle + 6) flags
  rw [List.append_nil] at hdraw
  refine ⟨_, (hdraw.trans (hbx.trans hm)), fun f hf => (List.mem_append.mp hf).elim (fun hf => ?_) fun hf => ?_⟩
  · obtain ⟨e, -, rfl⟩ := List.mem_map.mp hf
    exact ⟨_, hdraw.flight _ _ _, fun c h => nomatch h⟩
  · obtain ⟨e, he, rfl⟩ := hflags f hf
    exact ⟨e, (hdraw.trans hbx).flight _ _ _, fun c h => by rw [h] at he; nomatch he⟩

/-- The registers of a group operation are in flight, every lane of every cluster, and no other register. -/
theorem State.groupWritten_writeGroup {s : State} {o : VOp} (hc : s.clearVectors o.slotOf)
    (regs : List (Nat × (Nat → List Word))) (flags : List (Nat × FFlags)) :
    s.groupWritten (s.writeGroup o (regs.map fun r => (r.1, perCluster o r.2)) flags) o regs := by
  obtain ⟨m, hjoins, hm⟩ := State.joins_writeGroup hc (regs.map fun r => (r.1, perCluster o r.2)) flags
  have hpend := hjoins.pend
  rw [List.map_map] at hpend
  have hall {l : Nat} (hl : l < 16) : (lanes16.map fun _ => true).getD l false = true := getD_lanes16_map _ _ hl
  have hkeys (v : Nat → List Word) : ((perCluster o v).map fun e => e.1).Nodup := by
    simpa [perCluster, Function.comp_def] using nodup_clustersOf o
  refine ⟨hjoins.regs, hjoins.2.2, fun e he =>
    ⟨destCells s.act.regs e.1 (fun _ => lanes16.map fun _ => true) (perCluster o e.2), ?_, fun cl l hcl hl => ?_⟩, fun f hf => ?_⟩
  · rw [hpend]
    exact List.mem_append_right _ (List.mem_append_left _ (List.mem_map.mpr ⟨e, he, rfl⟩))
  · have hmem : (cl, e.2 cl) ∈ perCluster o e.2 := List.mem_map_of_mem ((mem_clustersOf o cl).mpr hcl)
    rw [cellOf, destCells_eq, find?_guardedCells (vKey_inj _) (hkeys _) hmem hl, if_pos (hall hl)]
    rfl
  · rw [hpend] at hf
    refine (List.mem_append.mp hf).imp id fun hf => (List.mem_append.mp hf).elim (fun hf => ?_) fun hf => ?_
    · obtain ⟨e, he, rfl⟩ := List.mem_map.mp hf
      refine ⟨rfl, rfl, rfl, fun cells hcells c hmem => ⟨e, he, ?_⟩⟩
      rw [← Eff.v.inj hcells, destCells_eq, mem_guardedCells] at hmem
      obtain ⟨x, hx, l, hl, -, rfl⟩ := hmem
      obtain ⟨cl, hcl, rfl⟩ := List.mem_map.mp hx
      exact ⟨cl, l, (mem_clustersOf o cl).mp hcl, hl, rfl⟩
    · obtain ⟨e, rfl, he⟩ := hm f hf
      exact ⟨rfl, rfl, rfl, fun cells h => absurd h (he cells)⟩

end Sys2Proof.Machine
end

section
/-! SUPPORT. The slices of a number: its digits in base 128 under a common exponent (R62, R164). -/

namespace Sys2Proof.Machine

/-! ## Digits -/

theorem scaled_eq_floor (man : Nat) (k : Int) : scaled man k = ⌊(man : Rat) * 2 ^ k⌋₊ := by
  rw [scaled]
  split
  · next h =>
    have hk : (2 : Rat) ^ k = ((2 ^ k.toNat : Nat) : Rat) := by
      rw [Nat.cast_pow, ← zpow_natCast, Int.toNat_of_nonneg h]
      rfl
    rw [hk, ← Nat.cast_mul, Nat.floor_natCast]
  · next h =>
    have hk : (2 : Rat) ^ k = ((2 ^ (-k).toNat : Nat) : Rat)⁻¹ := by
      rw [Nat.cast_pow, ← zpow_natCast, Int.toNat_of_nonneg (by omega), ← zpow_neg, neg_neg]
      rfl
    rw [hk, ← div_eq_mul_inv, Nat.floor_div_eq_div]

/-- A place further on is 128 times as fine. -/
theorem scaled_div (man : Nat) (k : Int) : scaled man (k + 7) / 128 = scaled man k := by
  rw [scaled_eq_floor, scaled_eq_floor, zpow_add₀ two_ne_zero, ← mul_assoc]
  have h := Nat.floor_div_natCast ((man : Rat) * 2 ^ k * 2 ^ (7 : Int)) 128
  rw [← h]
  norm_num

/-- The first n digits of a number below one are the number, cut off. -/
theorem sum_digits {man : Nat} {k : Int} (h : (man : Rat) * 2 ^ k < 1) (n : Nat) :
    ((List.range n).map fun p : Nat => ((scaled man (k + 7 * (p + 1)) % 128 : Nat) : Rat) * 2 ^ (-(7 * (p + 1) : Int))).sum =
      scaled man (k + 7 * n) * 2 ^ (-(7 * n : Int)) := by
  induction n with
  | zero =>
    have h0 : scaled man k = 0 := by rw [scaled_eq_floor]; exact Nat.floor_eq_zero.mpr h
    simp [h0]
  | succ n ih =>
    have hstep : scaled man (k + 7 * (n + 1)) = 128 * scaled man (k + 7 * n) + scaled man (k + 7 * (n + 1)) % 128 := by
      rw [← scaled_div man (k + 7 * n), show k + 7 * (n : Int) + 7 = k + 7 * (n + 1) by ring, Nat.div_add_mod]
    have hplace : (2 : Rat) ^ (-(7 * n : Int)) = 128 * 2 ^ (-(7 * (n + 1) : Int)) := by
      rw [show (-(7 * n : Int)) = 7 + -(7 * (n + 1) : Int) by ring, zpow_add₀ two_ne_zero]
      norm_num
    have hcast : (scaled man (k + 7 * (n + 1)) : Rat) =
        128 * scaled man (k + 7 * n) + (scaled man (k + 7 * (n + 1)) % 128 : Nat) := by exact_mod_cast hstep
    rw [List.range_succ, List.map_append, List.sum_append, ih, List.map_singleton, List.sum_singleton, hplace]
    push_cast at hcast ⊢
    rw [hcast]
    ring

/-- The digits leave less than one unit of the last place. -/
theorem digits_error {man : Nat} {k : Int} (h : (man : Rat) * 2 ^ k < 1) (n : Nat) :
    |(man : Rat) * 2 ^ k - ((List.range n).map fun p : Nat =>
      ((scaled man (k + 7 * (p + 1)) % 128 : Nat) : Rat) * 2 ^ (-(7 * (p + 1) : Int))).sum| < 2 ^ (-(7 * n : Int)) := by
  have hval : (man : Rat) * 2 ^ k = man * 2 ^ (k + 7 * n) * 2 ^ (-(7 * n : Int)) := by
    rw [mul_assoc, ← zpow_add₀ two_ne_zero]
    congr 2
    ring
  have hp : (0 : Rat) < 2 ^ (-(7 * n : Int)) := by positivity
  have hlo := Nat.floor_le (show (0 : Rat) ≤ man * 2 ^ (k + 7 * n) by positivity)
  have hhi := Nat.lt_floor_add_one ((man : Rat) * 2 ^ (k + 7 * n))
  rw [← scaled_eq_floor] at hlo hhi
  rw [sum_digits h, hval, ← sub_mul, abs_mul, abs_of_pos hp]
  refine mul_lt_of_lt_one_left hp ?_
  rw [abs_lt]
  constructor <;> linarith

/-! ## Slices (R62) -/

theorem Val.special_iff (v : Val) : v.special = true ↔ v.exact = none := by
  cases v <;> simp [Val.special, Val.isNan, Val.isInf, Val.exact]

/-- One step of the search for the exponent of a group. -/
def sliceStep (m : Option Int) (v : Val) : Option Int :=
  match v with
  | .num _ man e => if man = 0 then m else match m with
    | some k => some (max k (1 + exponentOf man e))
    | none => none
  | _ => m

theorem foldl_sliceStep (l : List Val) (k : Int) : ∃ e, l.foldl sliceStep (some k) = some e ∧ k ≤ e ∧
    ∀ n man x, .num n man x ∈ l → man ≠ 0 → 1 + exponentOf man x ≤ e := by
  induction l generalizing k with
  | nil => exact ⟨k, rfl, le_rfl, fun _ _ _ h => nomatch h⟩
  | cons v l ih =>
    obtain ⟨k', hk', hle, hv⟩ : ∃ k', sliceStep (some k) v = some k' ∧ k ≤ k' ∧
        ∀ n man x, v = .num n man x → man ≠ 0 → 1 + exponentOf man x ≤ k' := by
      cases v with
      | num n man x =>
        by_cases h0 : man = 0
        · exact ⟨k, by simp [sliceStep, h0], le_rfl, fun _ _ _ h hm => absurd ((Val.num.inj h).2.1 ▸ h0) hm⟩
        · refine ⟨_, by simp only [sliceStep, if_neg h0]; rfl, le_max_left _ _, fun n' man' x' h _ => ?_⟩
          obtain ⟨-, rfl, rfl⟩ := Val.num.inj h
          exact le_max_right _ _
      | _ => exact ⟨k, rfl, le_rfl, fun _ _ _ h => nomatch h⟩
    obtain ⟨e, he, hke, hall⟩ := ih k'
    refine ⟨e, by rw [List.foldl_cons, hk', he], hle.trans hke, fun n man x hmem hm => ?_⟩
    rcases List.mem_cons.mp hmem with h | h
    · exact (hv n man x h.symm hm).trans hke
    · exact hall n man x h hm

theorem sliceExp_eq_none {l : List Val} {v : Val} (hv : v ∈ l) (h : v.exact = none) : sliceExp l = none := by
  rw [sliceExp, if_pos (List.any_eq_true.mpr ⟨v, hv, v.special_iff.mpr h⟩)]

/-- Without a NaN or an infinity there is a common exponent, and every element lies below its power of two. -/
theorem sliceExp_eq_some {l : List Val} (h : ∀ v ∈ l, v.exact.isSome = true) : ∃ e, sliceExp l = some e ∧
    ∀ (n : Bool) (man : Nat) (x : Int), .num n man x ∈ l → (man : Rat) * 2 ^ (x - e) < 1 := by
  have hno : ¬ l.any Val.special = true := by
    rw [List.any_eq_true]
    rintro ⟨v, hv, hs⟩
    have := h v hv
    rw [v.special_iff.mp hs] at this
    nomatch this
  obtain ⟨k, hk⟩ : ∃ k : Int, (if l.all Val.isZero then some 0 else some (-2000)) = some k := by
    split
    · exact ⟨_, rfl⟩
    · exact ⟨_, rfl⟩
  obtain ⟨e, he, -, hall⟩ := foldl_sliceStep l k
  refine ⟨e, ?_, fun n man x hmem => ?_⟩
  · rw [sliceExp, if_neg hno, hk]
    exact he
  · by_cases h0 : man = 0
    · rw [h0]; simp
    · have hlt := (exponentOf_spec h0 x).2.trans_le (zpow_le_zpow_right₀ one_le_two
        (show exponentOf man x + 1 ≤ e by have := hall n man x hmem h0; omega))
      rw [zpow_sub₀ two_ne_zero, ← mul_div_assoc]
      exact (div_lt_one (by positivity)).mpr hlt

/-- A slice of a number as a signed byte: a digit with the number's sign. -/
theorem toInt_sliceOf (e : Int) (p : Nat) (n : Bool) (man : Nat) (x : Int) :
    (sliceOf e p (.num n man x)).toInt = (if n then -1 else 1) * ((scaled man (x - e + 7 * (p + 1)) % 128 : Nat) : Int) := by
  have hlt : scaled man (x - e + 7 * (p + 1)) % 128 < 128 := Nat.mod_lt _ (by decide)
  rw [sliceOf]
  generalize scaled man (x - e + 7 * (p + 1)) % 128 = m at hlt
  cases n
  · simp only [Bool.false_eq_true, if_false, one_mul]
    rw [BitVec.toInt_eq_toNat_bmod, BitVec.toNat_ofNat, Int.bmod_def]
    omega
  · simp only [if_true, BitVec.toInt_ofInt, Int.bmod_def]
    omega

/-- The sliced value of a number. -/
theorem slices_error {e : Int} {n : Bool} {man : Nat} {x : Int} {y : Rat} (h : (man : Rat) * 2 ^ (x - e) < 1)
    (hy : (Val.num n man x).exact = some y) (c : Nat) :
    |y - (2 : Rat) ^ e * ((List.range c).map fun p : Nat =>
      ((sliceOf e p (.num n man x)).toInt : Rat) * 2 ^ (-(7 * (p + 1) : Int))).sum| < 2 ^ (e - 7 * c) := by
  have hsum : ((List.range c).map fun p : Nat => ((sliceOf e p (.num n man x)).toInt : Rat) * 2 ^ (-(7 * (p + 1) : Int))).sum =
      (if n then -1 else 1) * ((List.range c).map fun p : Nat =>
        ((scaled man (x - e + 7 * (p + 1)) % 128 : Nat) : Rat) * 2 ^ (-(7 * (p + 1) : Int))).sum := by
    rw [← List.sum_map_mul_left]
    refine congrArg List.sum (List.map_congr_left fun p _ => ?_)
    rw [toInt_sliceOf, Int.cast_mul, Int.cast_natCast]
    cases n <;> simp
  have hval : y = 2 ^ e * ((if n then -1 else 1) * (man * 2 ^ (x - e))) := by
    rw [← Option.some.inj hy, zpow_sub₀ two_ne_zero]
    field_simp
  have hsign : |(if n then -1 else 1 : Rat)| = 1 := by cases n <;> simp
  have hp : (0 : Rat) < 2 ^ e := by positivity
  rw [hsum, hval, ← mul_sub, ← mul_sub, abs_mul, abs_mul, hsign, one_mul, abs_of_pos hp, sub_eq_add_neg e, zpow_add₀ two_ne_zero]
  exact mul_lt_mul_of_pos_left (digits_error h c) hp

end Sys2Proof.Machine
end

section
/-! PROOF. The results of DSPLIT, QPACK and QUNPACK (R62, R164 to R166). -/

namespace Sys2Proof.Machine

/-! ## The slot -/

/-- A form other than .f64 leaves its floating-point unit free, and executes (R156). -/
theorem fpuSlot_single {o : VOp} {names : List (Nat × Nat)} {body : State → State} {s : State} (hn : s.named names)
    (hr : o.runs) (hf : s.fpuFree o.slotOf) : fpuSlot o false names body s = .next (body s) := by
  have hhold : ¬ (s.act.fpuHold.any fun h => decide (h.1 = o.slotOf) && decide (h.2 = s.cycle)) = true := by
    rw [List.any_eq_true]
    rintro ⟨h, hh, hd⟩
    rw [Bool.and_eq_true, decide_eq_true_eq, decide_eq_true_eq] at hd
    exact hf ⟨h, hh, hd⟩
  have huse : s.useFpu o.slotOf false = s := by
    rw [State.useFpu, if_neg hhold]
    rfl
  simp only [fpuSlot, huse, State.checkNames_of_named hn, State.unlessTrapped, if_true, neverGuard_of_runs hr,
    Bool.false_eq_true, if_false]

theorem withControl_ok {s : State} {o : VOp} {ok : Nat → Bool} (h : ok (s.control o) = true) (body : Nat → State → State) :
    withControl s o ok body = body (s.control o) s := by
  rw [withControl, if_pos h]

/-- What is put in flight does not depend on the units held. -/
theorem State.groupWritten_of_holdFpu {s t : State} {slot : Slot} {o : VOp} {regs : List (Nat × (Nat → List Word))}
    (h : (s.holdFpu slot true).groupWritten t o regs) : s.groupWritten t o regs := by
  have hregs : (s.holdFpu slot true).act.regs = s.act.regs := by rw [State.holdFpu, if_pos rfl, State.act_onAct]
  have hpend : (s.holdFpu slot true).act.pend = s.act.pend := by rw [State.holdFpu, if_pos rfl, State.act_onAct]
  have hseq : (s.holdFpu slot true).act.seq = s.act.seq := by rw [State.holdFpu, if_pos rfl, State.act_onAct]
  have hflight (due : Nat) (e : Eff) : (s.holdFpu slot true).flight o.slotOf due e = s.flight o.slotOf due e := by
    rw [State.flight, State.flight, hseq, State.holdFpu, if_pos rfl, State.iss_onAct]
  rw [State.groupWritten, hregs, hpend, hseq] at h
  simp only [hflight] at h
  obtain ⟨ht, hout, hin⟩ := h
  have hs : s.sameOutside (s.holdFpu slot true) := by
    rw [State.holdFpu, if_pos rfl]
    exact s.sameOutside_onAct _
  exact ⟨ht, hs.trans hout, hin⟩

theorem State.clearVectors_holdFpu {s : State} {slot : Slot} (h : s.clearVectors slot) (slot' : Slot) :
    (s.holdFpu slot' true).clearVectors slot := by
  rw [State.clearVectors, State.holdFpu, if_pos rfl, State.act_onAct]
  exact h

theorem State.control_holdFpu (s : State) (slot : Slot) (o : VOp) : (s.holdFpu slot true).control o = s.control o := by
  rw [State.control, State.holdFpu, if_pos rfl, State.act_onAct]
  rfl

/-! ## DSPLIT (R164) -/

/-- A slice of a value under the exponent of its group, or 0 of a group that has none. -/
def sliceCode (e : Option Int) (p : Nat) (v : Val) : Nat :=
  match e with
  | some k => (sliceOf k p v).toNat
  | none => 0

/-- The lanes with the slices of the eight values of a cluster: byte 8p + j is slice p of value j. -/
def sliceLanes (e : Option Int) (n : Nat) (v : Nat → Val) : List Word :=
  unelems 8 (((List.range n).map fun p => (List.range 8).map fun j => sliceCode e p (v j)).flatten)

/-- The lanes of the companion register. -/
def exponentLanes (e : Option Int) : List Word :=
  lanes16.map fun l => if l = 0 then (match e with
    | some k => BitVec.ofNat 32 (wrapN k 16)
    | none => 0x7FFF#32) else 0#32

theorem byteOf_unelems (l : List Nat) {b : Nat} (h : b < 64) : byteOf (unelems 8 l) b = l.getD b 0 % 256 := by
  rw [byteOf, elemOf_unelems (by decide) l (by omega) (Nat.mod_lt b (by decide)), show 32 / 8 * (b / 4) + b % 4 = b by omega]
  rfl

theorem byteOf_sliceLanes {e : Option Int} {n p j : Nat} (v : Nat → Val) (hn : n ≤ 8) (hp : p < n) (hj : j < 8) :
    byteOf (sliceLanes e n v) (8 * p + j) = sliceCode e p (v j) % 256 := by
  rw [sliceLanes, byteOf_unelems _ (by omega), getD_flatten _ _ hp hj]

theorem byteOf_sliceLanes_none (n : Nat) (v : Nat → Val) {b : Nat} (h : b < 64) : byteOf (sliceLanes none n v) b = 0 := by
  rw [sliceLanes, byteOf_unelems _ h, flatten_map_range]
  rw [List.getD_eq_getElem?_getD, List.getElem?_map]
  cases (List.range (n * 8))[b]? <;> rfl

theorem ofNat_byteOf_sliceLanes {k : Int} {n p j : Nat} (v : Nat → Val) (hn : n ≤ 8) (hp : p < n) (hj : j < 8) :
    BitVec.ofNat 8 (byteOf (sliceLanes (some k) n v) (8 * p + j)) = sliceOf k p (v j) := by
  rw [byteOf_sliceLanes v hn hp hj, sliceCode]
  exact BitVec.eq_of_toNat_eq (by rw [BitVec.toNat_ofNat]; have := (sliceOf k p (v j)).isLt; omega)

/-- The value of a lane pair of the source, and the exponent of the group. -/
def State.groupValue (s : State) (o : VOp) (cl j : Nat) : Val := decodeVal 10 (s.act.regs.pairLane cl o.src1.toNat j)

def State.groupExp (s : State) (o : VOp) : Option Int :=
  sliceExp ((clustersOf o).map fun cl => (List.range 8).map (s.groupValue o cl)).flatten

theorem elems_readV_pair (r : Regs) (cl n : Nat) : elems 64 (r.readV cl n) = (List.range 8).map (r.pairLane cl n) := by
  rw [elems, if_pos rfl]
  refine List.map_congr_left fun j hj => ?_
  rw [← Regs.laneOrPair_readV r cl n (List.mem_range.mp hj), laneOrPair, if_pos rfl]

/-- What DSPLIT puts in flight. -/
theorem exec_dsplit {o : VOp} {s : State} (hr : o.runs) (hf : s.fpuFree o.slotOf)
    (hn : s.named [(o.src1.toNat, 22), (o.dst.toNat, 32), (o.dst.toNat + 1, 32)])
    (hc : controlOk (.dsplit o) (s.control o) = true) : ∃ flags, exec (.dsplit o) s =
      .next ((s.holdFpu o.slotOf true).writeGroup o
        ([(o.dst.toNat, fun cl => sliceLanes (s.groupExp o) (6 + s.control o) (s.groupValue o cl)),
          (o.dst.toNat + 1, fun _ => exponentLanes (s.groupExp o))].map fun r => (r.1, perCluster o r.2)) flags) := by
  have hregs : (s.holdFpu o.slotOf true).act.regs = s.act.regs := by rw [State.holdFpu, if_pos rfl, State.act_onAct]
  have hvals : ((clustersOf o).map fun cl => (cl, (elems 64 (s.act.regs.readV cl o.src1.toNat)).map fun x => decodeVal 10 x)) =
      (clustersOf o).map fun cl => (cl, (List.range 8).map (s.groupValue o cl)) := by
    refine List.map_congr_left fun cl _ => ?_
    rw [elems_readV_pair, List.map_map]
    rfl
  have hexp : sliceExp (((clustersOf o).map fun cl => (cl, (List.range 8).map (s.groupValue o cl))).map fun v => v.2).flatten =
      s.groupExp o := by
    rw [List.map_map]
    rfl
  refine ⟨(clustersOf o).map fun cl => (cl, snanFlags ((List.range 8).map (s.groupValue o cl))),
    (fpuSlot_pair hn hr hf).trans ?_⟩
  change Host.Outcome.next (withControl (s.holdFpu o.slotOf true) o _ _) = _
  rw [withControl_ok (by rw [State.control_holdFpu]; exact hc), State.control_holdFpu, hregs, hvals]
  dsimp only
  rw [hexp]
  cases s.groupExp o with
  | none => simp only [List.map_map]; rfl
  | some e => simp only [List.map_map]; rfl

/-- The elements of a group are the values of the clusters in the mask. -/
theorem State.mem_group {s : State} {o : VOp} {v : Val} :
    v ∈ ((clustersOf o).map fun cl => (List.range 8).map (s.groupValue o cl)).flatten ↔
      ∃ cl j, o.has cl ∧ j < 8 ∧ s.groupValue o cl j = v := by
  simp [List.mem_flatten, mem_clustersOf]

theorem dsplitResults {o : VOp} {s : State} (hr : o.runs) (hf : s.fpuFree o.slotOf)
    (hn : s.named [(o.src1.toNat, 22), (o.dst.toNat, 32), (o.dst.toNat + 1, 32)]) (hclear : s.clearVectors o.slotOf)
    (hc : controlOk (.dsplit o) (s.control o) = true) :
    let n := 6 + s.control o
    ∃ (t : State) (slices exps : Nat → List Word),
      exec (.dsplit o) s = .next t ∧ s.groupWritten t o [(o.dst.toNat, slices), (o.dst.toNat + 1, exps)] ∧
      ((∃ cl j, o.has cl ∧ j < 8 ∧ (decodeVal 10 (s.act.regs.pairLane cl o.src1.toNat j)).exact = none) →
        ∀ cl, o.has cl → nth0 (exps cl) 0 = 0x7FFF#32 ∧ ∀ b, b < 64 → byteOf (slices cl) b = 0) ∧
      ((∀ cl j, o.has cl → j < 8 → ((decodeVal 10 (s.act.regs.pairLane cl o.src1.toNat j)).exact).isSome = true) →
        ∃ e : Int, ∀ cl j, o.has cl → j < 8 →
          nth0 (exps cl) 0 = BitVec.ofNat 32 (e % 2 ^ 16).toNat ∧
          (∀ p, p < n → -127 ≤ (BitVec.ofNat 8 (byteOf (slices cl) (8 * p + j))).toInt ∧
            (BitVec.ofNat 8 (byteOf (slices cl) (8 * p + j))).toInt ≤ 127) ∧
          ∀ x, (decodeVal 10 (s.act.regs.pairLane cl o.src1.toNat j)).exact = some x →
            |x - (2 : Rat) ^ e * ((List.range n).map fun p =>
              ((BitVec.ofNat 8 (byteOf (slices cl) (8 * p + j))).toInt : Rat) * (2 : Rat) ^ (-(7 * (p + 1) : Int))).sum|
              < (2 : Rat) ^ (e - 7 * n)) := by
  intro n
  have hn8 : n ≤ 8 := by
    have : s.control o < 3 := of_decide_eq_true hc
    omega
  obtain ⟨flags, hexec⟩ := exec_dsplit hr hf hn hc
  refine ⟨_, _, _, hexec, State.groupWritten_of_holdFpu
    (State.groupWritten_writeGroup (State.clearVectors_holdFpu hclear _) _ flags), ?_, fun hall => ?_⟩
  · rintro ⟨cl, j, hcl, hj, hnone⟩ cl' -
    have he : s.groupExp o = none := sliceExp_eq_none (State.mem_group.mpr ⟨cl, j, hcl, hj, rfl⟩) hnone
    rw [he]
    exact ⟨rfl, fun b hb => byteOf_sliceLanes_none n _ hb⟩
  · obtain ⟨e, he, hlt⟩ := sliceExp_eq_some (l := ((clustersOf o).map fun cl => (List.range 8).map (s.groupValue o cl)).flatten)
      fun v hv => by
        obtain ⟨cl, j, hcl, hj, rfl⟩ := State.mem_group.mp hv
        exact hall cl j hcl hj
    have he : s.groupExp o = some e := he
    refine ⟨e, fun cl j hcl hj => ?_⟩
    have hv : ∃ ng man x, decodeVal 10 (s.act.regs.pairLane cl o.src1.toNat j) = .num ng man x := by
      have := hall cl j hcl hj
      generalize decodeVal 10 (s.act.regs.pairLane cl o.src1.toNat j) = v at this
      cases v with
      | num ng man x => exact ⟨ng, man, x, rfl⟩
      | _ => nomatch this
    obtain ⟨ng, man, x, hv⟩ := hv
    have hvalue : s.groupValue o cl j = .num ng man x := hv
    have hslice {p : Nat} (hp : p < n) :
        BitVec.ofNat 8 (byteOf (sliceLanes (some e) n (s.groupValue o cl)) (8 * p + j)) = sliceOf e p (.num ng man x) := by
      rw [ofNat_byteOf_sliceLanes _ hn8 hp hj, hvalue]
    rw [he]
    refine ⟨rfl, fun p hp => ?_, fun y hy => ?_⟩
    · have hm : scaled man (x - e + 7 * (p + 1)) % 128 < 128 := Nat.mod_lt _ (by decide)
      rw [hslice hp, toInt_sliceOf]
      cases ng <;> simp <;> omega
    · have hsum : ((List.range n).map fun p : Nat =>
          ((BitVec.ofNat 8 (byteOf (sliceLanes (some e) n (s.groupValue o cl)) (8 * p + j))).toInt : Rat) *
            (2 : Rat) ^ (-(7 * (p + 1) : Int))) = (List.range n).map fun p : Nat =>
          ((sliceOf e p (.num ng man x)).toInt : Rat) * (2 : Rat) ^ (-(7 * (p + 1) : Int)) :=
        List.map_congr_left fun p hp => by rw [hslice (List.mem_range.mp hp)]
      rw [hsum]
      exact slices_error (hlt ng man x (State.mem_group.mpr ⟨cl, j, hcl, hj, hvalue⟩)) (hv ▸ hy) n

/-! ## QPACK (R165) -/

/-- The formats a control value names hold 4 or 8 bits (R153, R165). -/
theorem width_of_narrow {c : Nat} (h : (decide (c / 32 = 0) && (decide (c % 16 = 11) || decide (c % 16 = 12) || decide (c % 16 = 13))) = true) :
    width (c % 16) = 8 ∨ width (c % 16) = 4 := by
  simp only [Bool.and_eq_true, Bool.or_eq_true, decide_eq_true_eq] at h
  rcases h.2 with (h | h) | h <;> rw [h] <;> decide

theorem group64_eq_range (r : Regs) (cl a : Nat) :
    group64 r cl a = (List.range 64).map fun t => (r.lane cl (a + t / 16) (t % 16)).toNat := by
  have hrow (n : Nat) : (r.readV cl (a + n)).map (fun x => x.toNat) = (List.range 16).map fun l => (r.lane cl (a + n) l).toNat := by
    rw [Regs.readV, List.map_map, lanes16_eq_range]
    rfl
  simp only [group64, hrow]
  exact flatten_map_range (fun n l => (r.lane cl (a + n) l).toNat) 4 16

/-- The scale of a group, or 2^0 where none is to be stored (R165). -/
def packScale (f : Nat) (ns : Bool) (l : List Val) : Nat := if ns then 127 else scaleOf f l

/-- The code of a value under a scale. -/
def packCode (f mode k : Nat) (v : Val) : Nat := if k = 255 then 0 else (roundVal f mode (v.scale (127 - (k : Int)))).1

theorem packGroup_scale (f mode : Nat) (ns : Bool) (l : List Val) : (packGroup f mode ns l).2.1 = packScale f ns l := by
  rw [packGroup, ← packScale]
  dsimp only
  split <;> rfl

theorem packGroup_codes (f mode : Nat) (ns : Bool) (l : List Val) :
    (packGroup f mode ns l).1 = l.map (packCode f mode (packScale f ns l)) := by
  rw [packGroup, ← packScale]
  dsimp only
  split
  · next h => exact List.map_congr_left fun v _ => by rw [packCode, if_pos h]
  · next h =>
    rw [List.map_map]
    exact List.map_congr_left fun v _ => by rw [packCode, if_neg h]; rfl

/-- An element of QPACK's group. -/
def State.packValue (s : State) (o : VOp) (cl t : Nat) : Val :=
  decodeVal 9 (s.act.regs.lane cl (o.src1.toNat + t / 16) (t % 16)).toNat

/-- The lanes of the codes of a cluster, and of its scale. -/
def State.packCodes (s : State) (o : VOp) (f : Nat) (ns : Bool) (cl : Nat) : List Word :=
  unelems (width f) (packGroup f o.rnd.toNat ns ((List.range 64).map (s.packValue o cl))).1

def State.packScales (s : State) (o : VOp) (f : Nat) (ns : Bool) (cl : Nat) : List Word :=
  lanes16.map fun l => if l = 0 then BitVec.ofNat 32 (packGroup f o.rnd.toNat ns ((List.range 64).map (s.packValue o cl))).2.1
    else 0#32

/-- What QPACK puts in flight. -/
theorem exec_qpack {o : VOp} {s : State} (hr : o.runs) (hf : s.fpuFree o.slotOf)
    (hn : s.named [(o.src1.toNat, 22), (o.src1.toNat + 1, 22), (o.src1.toNat + 2, 22), (o.src1.toNat + 3, 22),
      (o.dst.toNat, 32), (o.dst.toNat + 1, 32)]) (hc : controlOk (.qpack o) (s.control o) = true) :
    let f := s.control o % 16
    let ns := (s.control o).testBit 4
    ∃ flags, exec (.qpack o) s = .next (s.writeGroup o
      (((o.dst.toNat, s.packCodes o f ns) :: (if ns then [] else [(o.dst.toNat + 1, s.packScales o f ns)])).map
        fun r => (r.1, perCluster o r.2)) flags) := by
  intro f ns
  have hvals (cl : Nat) : (group64 s.act.regs cl o.src1.toNat).map (fun x => decodeVal 9 x) =
      (List.range 64).map (s.packValue o cl) := by
    rw [group64_eq_range, List.map_map]
    rfl
  refine ⟨(clustersOf o).map fun cl => (cl, (packGroup f o.rnd.toNat ns ((List.range 64).map (s.packValue o cl))).2.2),
    (fpuSlot_single hn hr hf).trans ?_⟩
  rw [withControl_ok hc]
  simp only [hvals, List.map_map]
  rw [show bitOf (s.control o) 4 = ns from rfl]
  cases ns <;> rfl

/-- A place in lanes put together of 64 narrow elements. -/
theorem elemOf_unelems_narrow {w : Nat} (hw : w = 8 ∨ w = 4) (l : List Nat) {t : Nat} (ht : t < 64) :
    elemOf w (t % (32 / w)) (nth0 (unelems w l) (t / (32 / w))) = l.getD t 0 % 2 ^ w := by
  rcases hw with rfl | rfl
  · rw [elemOf_unelems (by decide) l (by omega) (by omega), show 32 / 8 * (t / (32 / 8)) + t % (32 / 8) = t by omega]
  · rw [elemOf_unelems (by decide) l (by omega) (by omega), show 32 / 4 * (t / (32 / 4)) + t % (32 / 4) = t by omega]

theorem qpackResults {o : VOp} {s : State} (hr : o.runs) (hf : s.fpuFree o.slotOf)
    (hn : s.named [(o.src1.toNat, 22), (o.src1.toNat + 1, 22), (o.src1.toNat + 2, 22), (o.src1.toNat + 3, 22),
      (o.dst.toNat, 32), (o.dst.toNat + 1, 32)]) (hclear : s.clearVectors o.slotOf)
    (hc : controlOk (.qpack o) (s.control o) = true) :
    let f := s.control o % 16
    let ns := (s.control o).testBit 4
    let x (cl t : Nat) : Val := decodeVal 9 (s.act.regs.lane cl (o.src1.toNat + t / 16) (t % 16)).toNat
    ∃ (t : State) (codes scales : Nat → List Word),
      exec (.qpack o) s = .next t ∧
      s.groupWritten t o ((o.dst.toNat, codes) :: (if ns then [] else [(o.dst.toNat + 1, scales)])) ∧
      ∀ cl, o.has cl →
        let k := if ns then 127 else scaleOf f ((List.range 64).map fun t => x cl t)
        (ns = false → nth0 (scales cl) 0 = BitVec.ofNat 32 k) ∧
        ∀ t, t < 64 → elemOf (width f) (t % (32 / width f)) (nth0 (codes cl) (t / (32 / width f))) =
          if k = 255 then 0 else (roundVal f o.rnd.toNat ((x cl t).scale (127 - (k : Int)))).1 % 2 ^ width f := by
  intro f ns x
  obtain ⟨flags, hexec⟩ := exec_qpack hr hf hn hc
  refine ⟨_, s.packCodes o f ns, s.packScales o f ns, hexec, State.groupWritten_writeGroup hclear _ flags, fun cl _ => ?_⟩
  have hk : packScale f ns ((List.range 64).map (s.packValue o cl)) =
      if ns then 127 else scaleOf f ((List.range 64).map fun t => x cl t) := rfl
  refine ⟨fun _ => ?_, fun t ht => ?_⟩
  · rw [State.packScales, packGroup_scale, hk]
    rfl
  · rw [State.packCodes, elemOf_unelems_narrow (width_of_narrow hc) _ ht, packGroup_codes, List.map_map, getD_map_range _ _ ht,
      Function.comp_apply, ← hk, packCode]
    generalize packScale f ns ((List.range 64).map (s.packValue o cl)) = k
    split
    · exact Nat.zero_mod _
    · rfl

/-! ## QUNPACK (R166) -/

/-- The first 64 elements of a register of narrow elements. -/
theorem elems_take_narrow {w : Nat} (hw : w = 8 ∨ w = 4) (x : List Word) : (elems w x).take 64 =
    (List.range 64).map fun t => elemOf w (t % (32 / w)) (nth0 x (t / (32 / w))) := by
  have h64 : w ≠ 64 := by omega
  have hmin : min 64 (16 * (32 / w)) = 64 := by rcases hw with rfl | rfl <;> decide
  have hrows := flatten_map_range (fun l k => field (nth0 x l).toNat (w * k) w) 16 (32 / w)
  rw [elems, if_neg h64, lanes16_eq_range, hrows, ← List.map_take, List.take_range, hmin]
  rfl

/-- The value of an element of QUNPACK. -/
theorem unpackOne_fst (f mode k x : Nat) : (unpackOne f mode k x).1 =
    if k = 255 ∨ (decodeVal f x).isNan = true then 0x7FC00000 else (roundVal 9 mode ((decodeVal f x).scale ((k : Int) - 127))).1 := by
  simp only [unpackOne, Bool.or_eq_true, decide_eq_true_eq]
  split <;> rfl

/-- The scale of a cluster's group. -/
def State.unpackScale (s : State) (o : VOp) (cl : Nat) : Nat :=
  if (s.control o).testBit 4 then 127 else (s.act.regs.lane cl (o.src1.toNat + 1) 0).toNat % 256

/-- The elements of a cluster's group, with their flags. -/
def State.unpacked (s : State) (o : VOp) (cl : Nat) : List FRes :=
  let f := s.control o % 16
  (List.range 64).map fun t => unpackOne f o.rnd.toNat (s.unpackScale o cl)
    (elemOf (width f) (t % (32 / width f)) (s.act.regs.lane cl o.src1.toNat (t / (32 / width f))))

/-- Register n of a group. -/
def unpackLanes (n : Nat) (l : List FRes) : List Word :=
  lanes16.map fun i => BitVec.ofNat 32 (l.getD (16 * n + i) (0, FFlags.none)).1

/-- What QUNPACK puts in flight. -/
theorem exec_qunpack {o : VOp} {s : State} (hr : o.runs) (hf : s.fpuFree o.slotOf)
    (hn : s.named [(o.src1.toNat, 22), (o.src1.toNat + 1, 22), (o.dst.toNat, 32), (o.dst.toNat + 1, 32),
      (o.dst.toNat + 2, 32), (o.dst.toNat + 3, 32)]) (hc : controlOk (.qunpack o) (s.control o) = true) :
    ∃ flags, exec (.qunpack o) s = .next (s.writeGroup o
      (((List.range 4).map fun n => (o.dst.toNat + n, fun cl => unpackLanes n (s.unpacked o cl))).map
        fun r => (r.1, perCluster o r.2)) flags) := by
  have hvals (cl : Nat) : ((elems (width (s.control o % 16)) (s.act.regs.readV cl o.src1.toNat)).take 64).map
      (fun x => unpackOne (s.control o % 16) o.rnd.toNat (s.unpackScale o cl) x) = s.unpacked o cl := by
    rw [elems_take_narrow (width_of_narrow hc), List.map_map, State.unpacked]
    refine List.map_congr_left fun t ht => ?_
    have hlane : t / (32 / width (s.control o % 16)) < 16 := by
      have ht := List.mem_range.mp ht
      rcases width_of_narrow hc with h | h <;> rw [h] <;> omega
    rw [Function.comp_apply, Regs.nth0_readV _ _ _ hlane]
  have hk (cl : Nat) : (if bitOf (s.control o) 4 then 127 else (nth0 (s.act.regs.readV cl (o.src1.toNat + 1)) 0).toNat % 256) =
      s.unpackScale o cl := rfl
  refine ⟨(clustersOf o).map fun cl =>
      (cl, (s.unpacked o cl).foldl (fun (m : FFlags) (x : Nat × FFlags) => m.or x.2) FFlags.none),
    (fpuSlot_single hn hr hf).trans ?_⟩
  rw [withControl_ok hc]
  simp only [hk, hvals, List.map_map]
  rfl

theorem qunpackResults {o : VOp} {s : State} (hr : o.runs) (hf : s.fpuFree o.slotOf)
    (hn : s.named [(o.src1.toNat, 22), (o.src1.toNat + 1, 22), (o.dst.toNat, 32), (o.dst.toNat + 1, 32),
      (o.dst.toNat + 2, 32), (o.dst.toNat + 3, 32)]) (hclear : s.clearVectors o.slotOf)
    (hc : controlOk (.qunpack o) (s.control o) = true) :
    let f := s.control o % 16
    ∃ (t : State) (v : Nat → Nat → List Word),
      exec (.qunpack o) s = .next t ∧ s.groupWritten t o ((List.range 4).map fun n => (o.dst.toNat + n, v n)) ∧
      ∀ cl n l, o.has cl → n < 4 → l < 16 →
        let k := if (s.control o).testBit 4 then 127 else (s.act.regs.lane cl (o.src1.toNat + 1) 0).toNat % 256
        let t := 16 * n + l
        let y := decodeVal f (elemOf (width f) (t % (32 / width f)) (s.act.regs.lane cl o.src1.toNat (t / (32 / width f))))
        nth0 (v n cl) l = if k = 255 ∨ y.isNan = true then 0x7FC00000#32
          else BitVec.ofNat 32 (roundVal 9 o.rnd.toNat (y.scale ((k : Int) - 127))).1 := by
  intro f
  obtain ⟨flags, hexec⟩ := exec_qunpack hr hf hn hc
  refine ⟨_, fun n cl => unpackLanes n (s.unpacked o cl), hexec, State.groupWritten_writeGroup hclear _ flags,
    fun cl n l _ hn4 hl => ?_⟩
  intro k t y
  have ht : t < 64 := by omega
  have hlane : nth0 (unpackLanes n (s.unpacked o cl)) l = BitVec.ofNat 32 ((s.unpacked o cl).getD t (0, FFlags.none)).1 :=
    getD_lanes16_map _ _ hl
  rw [hlane, State.unpacked, getD_map_range _ _ ht, unpackOne_fst, apply_ite (BitVec.ofNat 32)]
  rfl

/-- Settles O18: DSPLIT keeps the digits of each number in base 128, and a group's registers join those in flight. -/
theorem groupResults : Obligations.GroupResults := by
  unfold Obligations.GroupResults
  exact ⟨fun _ _ _ hr hf hn hclear hc => dsplitResults hr hf hn hclear hc,
    fun _ _ _ hr hf hn hclear hc => qpackResults hr hf hn hclear hc,
    fun _ _ _ hr hf hn hclear hc => qunpackResults hr hf hn hclear hc⟩

end Sys2Proof.Machine
end

section
/-! PROOF. O45 fails: under the checking scoreboard a row of an MDRAIN that the bundle's V0 slot writes too is not put in
flight, since the dual write traps (R102, R209, R225). -/

namespace Sys2Proof.Machine

/-- A task that runs under the checking scoreboard (R225). -/
def checkedTask : Task := ⟨0, 0, 0, 0, 0, [], true, none, 0, none, none, 0, [], 0, 0, 0⟩

/-- What a VMWR of the bundle has put in flight: element (0, 0) of m2. -/
def vmwrLanding : Landing := ⟨2, 0, .v0, 0, false, false, .m [(mKey 2 0 0, 1#32)]⟩

/-- A machine at the E slot of a bundle whose V0 slot has written to m2, with eight matrix registers and the format entry
INT8 × INT8. -/
def dualDrainState : State := State.reset.setCore 0 { Core.reset with act := { Ctx.reset false with
  partition := 0x82000000#32, phase := .running, task := some checkedTask, pend := [vmwrLanding] } }

/-- A guard that is true. -/
def openHead : EHead := ⟨⟨0#3, false⟩, false, 0#8⟩

/-- An MDRAIN of row 0 of m0 to m2 puts no element of a matrix register in flight. -/
theorem exec_mdrain_dualDrainState (t : State) (h : exec (.mdrain openHead 0#6 2#5 4#4 0#6) dualDrainState = .next t) :
    ∀ o ∈ t.act.pend, o.eng = true → ∀ cells, o.eff ≠ .m cells := by
  have hcheck : (match exec (.mdrain openHead 0#6 2#5 4#4 0#6) dualDrainState with
    | .next t => t.act.pend.all fun o => !o.eng || match o.eff with
      | .m _ => false
      | _ => true
    | _ => true) = true := by decide
  rw [h] at hcheck
  intro o ho heng cells heff
  have hthis := List.all_eq_true.mp hcheck o ho
  rw [heng, heff] at hthis
  nomatch hthis

/-- Refutes O45, by its clause on MDRAIN. The premises bound what engine commands have still to write, not what the other
slots of the bundle have put in flight: an element of the destination that V0 writes too is a dual write, and under the
checking scoreboard the trap stands in the place of the row. The clause lacks the premise that no other slot of the bundle
has written what the rows write, as its clause on FMTT has it. -/
theorem not_matrixCommands : ¬ Obligations.MatrixCommands := by
  unfold Obligations.MatrixCommands
  rintro ⟨-, hdrain, -⟩
  obtain ⟨t, hexec, -, -, -, -, -, -, hrows⟩ := hdrain openHead 0#6 2#5 4#4 0#6 dualDrainState 0 0 0 false (by decide) ⟨by decide, by decide⟩
    (fun l hl heng => by rw [List.mem_singleton.mp hl] at heng; nomatch heng) (by decide) (by decide) (by decide) (by decide)
    (fun _ => .inl (by decide)) (fun h => nomatch h)
  obtain ⟨⟨o, ho, -, heng, cells, heff, -⟩, -⟩ := hrows 0 (by decide)
  exact exec_mdrain_dualDrainState t hexec o ho heng cells heff

end Sys2Proof.Machine
end

section
/-! SUPPORT. Cells put into a table, and what the engine writes to matrix registers (R25, R199). -/

namespace Sys2Proof.Machine

/-! ## Cells put into a table -/

theorem wf_setWords (l : List (Nat × Word)) {t : Store Word} (h : Store.wf 0#32 t = true) : Store.wf 0#32 (setWords t l) = true := by
  induction l generalizing t with
  | nil => exact h
  | cons e l ih => exact ih (Store.wf_set h _ _)

theorem get_setWords_of_notMem {l : List (Nat × Word)} {t : Store Word} (h : Store.wf 0#32 t = true) {k : Nat}
    (hk : k ∉ l.map fun e => e.1) : Store.get 0#32 (setWords t l) k = Store.get 0#32 t k := by
  induction l generalizing t with
  | nil => rfl
  | cons e l ih =>
    rw [List.map_cons, List.mem_cons, not_or] at hk
    rw [setWords, ih (Store.wf_set h _ _) hk.2, Store.get_set_ne h _ hk.1]

theorem get_setWords_of_mem {l : List (Nat × Word)} {t : Store Word} (h : Store.wf 0#32 t = true)
    (hn : (l.map fun e => e.1).Nodup) {k : Nat} {x : Word} (hk : (k, x) ∈ l) : Store.get 0#32 (setWords t l) k = x := by
  induction l generalizing t with
  | nil => nomatch hk
  | cons e l ih =>
    rw [List.map_cons, List.nodup_cons] at hn
    rw [setWords]
    rcases List.mem_cons.mp hk with rfl | hk
    · rw [get_setWords_of_notMem (Store.wf_set h _ _) hn.1, Store.get_set_same h]
    · exact ih (Store.wf_set h _ _) hn.2 hk

/-- A run of keys set. -/
theorem get_setWords_range {t : Store Word} (h : Store.wf 0#32 t = true) (b n : Nat) (f : Nat → Word) (j : Nat) :
    Store.get 0#32 (setWords t ((List.range n).map fun k => (b + k, f k))) j =
      if b ≤ j ∧ j < b + n then f (j - b) else Store.get 0#32 t j := by
  have hkeys : ((List.range n).map fun k => (b + k, f k)).map (fun e => e.1) = (List.range n).map fun k => b + k := by
    rw [List.map_map]
    rfl
  split
  · next hj =>
    refine get_setWords_of_mem h ?_ (List.mem_map.mpr ⟨j - b, List.mem_range.mpr (by omega), by rw [show b + (j - b) = j by omega]⟩)
    rw [hkeys]
    exact List.nodup_range.map fun x y hxy => Nat.add_left_cancel hxy
  · next hj =>
    refine get_setWords_of_notMem h ?_
    rw [hkeys, List.mem_map]
    rintro ⟨k, hk, rfl⟩
    have := List.mem_range.mp hk
    omega

/-- A table of keys from 0 on, set. -/
theorem get_setWords_table {t : Store Word} (h : Store.wf 0#32 t = true) (n : Nat) (f : Nat → Word) {j : Nat} (hj : j < n) :
    Store.get 0#32 (setWords t ((List.range n).map fun k => (k, f k))) j = f j := by
  have hget := get_setWords_range h 0 n f j
  simp only [Nat.zero_add, Nat.sub_zero] at hget
  rw [hget, if_pos ⟨Nat.zero_le j, hj⟩]

/-! ## The keys of matrix elements (R25) -/

theorem mKey_inj {m i j m' i' j' : Nat} (hi : i < 64) (hj : j < 64) (hi' : i' < 64) (hj' : j' < 64)
    (h : mKey m i j = mKey m' i' j') : m = m' ∧ i = i' ∧ j = j' := by
  simp only [mKey] at h
  omega

theorem mKey_eq_add (m i j : Nat) : mKey m i j = 4096 * m + (64 * i + j) := by
  simp only [mKey]
  ring

/-- Entry i of a read is the element the model reads for it. -/
theorem nth0_readMDir (r : Regs) (o : EmOp) (k0 t : Nat) {i : Nat} (hi : i < 64) :
    nth0 (r.readMDir o.areg.toNat o.dir.toNat ((k0 + t) % 64)) i = r.aRead o k0 t i := getD_map_range _ _ hi

theorem nth0_bLine (c : Core) (l0 t : Nat) {j : Nat} (hj : j < 64) : nth0 (c.bLine ((l0 + t) % 65536)) j = c.bRead l0 t j :=
  getD_map_range _ _ hj

/-! ## The registers as an engine command finds them (R199) -/

theorem Ctx.engineRegs_eq {x : Ctx} (h : x.noEngineRows) : x.engineRegs = x.regs := by
  have hfold (l : List Landing) (hl : ∀ o ∈ l, o.eng = true → ∀ c, o.eff ≠ .m c) (r : Regs) :
      l.foldl (fun r l => match l.eff with
        | .m cells => if l.eng then { r with m := setWords r.m cells } else r
        | _ => r) r = r := by
    induction l with
    | nil => rfl
    | cons o l ih =>
      have ho := hl o List.mem_cons_self
      rw [List.foldl_cons]
      have hstep : (match o.eff with
          | .m cells => if o.eng then { r with m := setWords r.m cells } else r
          | _ => r) = r := by
        cases he : o.eff with
        | m cells => exact if_neg fun heng => ho heng cells he
        | _ => rfl
      rw [hstep]
      exact ih fun o ho => hl o (List.mem_cons_of_mem _ ho)
  exact hfold x.pend h x.regs

/-- What the engine leaves of a context at an issue: its counters and its registers but for the matrix elements, and what is in
flight but for matrix elements. -/
def Ctx.engineKeeps (x y : Ctx) : Prop :=
  y.seq = x.seq ∧ y.cid = x.cid ∧ y.tl = x.tl ∧ { y.regs with m := x.regs.m } = x.regs ∧
    ∀ o ∈ y.pend, ∃ p ∈ x.pend, o.seq = p.seq ∧ o.eng = p.eng ∧ o.slot = p.slot ∧ (o.eff = p.eff ∨ ∃ c, o.eff = .m c)

theorem Ctx.engineKeeps_engineWrite (x : Ctx) (cells : List (Nat × Word)) : x.engineKeeps (x.engineWrite cells) := by
  refine ⟨rfl, rfl, rfl, rfl, fun o ho => ?_⟩
  obtain ⟨p, hp, rfl⟩ := List.mem_map.mp ho
  refine ⟨p, hp, ?_⟩
  split
  · exact ⟨rfl, rfl, rfl, .inr ⟨_, rfl⟩⟩
  · exact ⟨rfl, rfl, rfl, .inl rfl⟩

theorem Ctx.engineKeeps_setShutter (x : Ctx) (h : Nat) (v : Option Shutter) : x.engineKeeps (x.setShutter h v) := by
  rw [Ctx.setShutter]
  split <;> exact ⟨rfl, rfl, rfl, rfl, fun o ho => ⟨o, ho, rfl, rfl, rfl, .inl rfl⟩⟩

theorem Ctx.regs_setShutter (x : Ctx) (h : Nat) (v : Option Shutter) : (x.setShutter h v).regs = x.regs := by
  rw [Ctx.setShutter]
  split <;> rfl

theorem Ctx.shutter_setShutter (x : Ctx) (h : Nat) (v : Option Shutter) : (x.setShutter h v).shutter h = v := by
  rw [Ctx.setShutter, Ctx.shutter]
  by_cases h0 : h = 0
  · simp [h0]
  · simp [h0]

theorem Ctx.regs_engineWrite (x : Ctx) (cells : List (Nat × Word)) :
    (x.engineWrite cells).regs = { x.regs with m := setWords x.regs.m cells } := rfl

end Sys2Proof.Machine
end

section
/-! SUPPORT. One output of an issue is the sum of R59 over the reads and lines (R201 to R204). -/

namespace Sys2Proof.Machine

/-! ## Formats (R66) -/

theorem codeWidth_eq (c : Nat) : codeWidth c = formatWidth c := by
  simp [codeWidth, formatWidth]

theorem sparseN_eq {mode : Nat} (h : mode ≤ 2) : sparseN mode = perGroup mode := by
  interval_cases mode <;> rfl

theorem readElems_eq (mode a : Nat) : readElems mode a = perWord mode a := by
  rw [readElems, perWord, codeWidth_eq]

theorem b2n_codeScaled (c k : Nat) : b2n (codeScaled c) * k = if 8 ≤ c then k else 0 := by
  by_cases h : 8 ≤ c <;> simp [b2n, codeScaled, h]

/-- A code is the integer that its bits stand for. -/
theorem codeInt_eq {c x : Nat} (hc : c ≤ 3) (hx : x < 2 ^ formatWidth c) : codeInt c x = formatInt c x := by
  interval_cases c <;> simp [formatWidth, codeInt, formatInt, toSigned] at hx ⊢ <;> omega

/-! ## The places of the operands (R202 to R204) -/

/-- Stored elements that are multiplied at a time: two in a beat of two 4-bit operands (R202). -/
def denseStep (a b : Nat) : Nat := if formatWidth a = 4 ∧ formatWidth b = 4 then 2 else 1

/-- What the premises on an issue say of its counts: the words and the groups of A and of B come out whole. -/
structure MatrixShape (mode a b beats : Nat) : Prop where
  modes : mode ≤ 2
  wordsA : 0 < perWord mode a ∧ perWord mode a ∣ perGroup mode ∧ storedElements a b beats % perWord mode a = 0
  wordsB : 0 < 32 / formatWidth b ∧ 32 / formatWidth b ∣ 64 ∧ positionsOf mode a b beats % (32 / formatWidth b) = 0
  groupsA : 8 ≤ a → storedElements a b beats % perGroup mode = 0
  groupsB : 8 ≤ b → positionsOf mode a b beats % 64 = 0
  groups : positionsOf mode a b beats / 64 = storedElements a b beats / perGroup mode
  rounding : denseStep a b * (64 / perGroup mode) ∣ storedElements a b beats
  positions : ∀ n x, n < storedElements a b beats → (elementOf mode a n x).1 < positionsOf mode a b beats
  positive : 0 < denseStep a b * (64 / perGroup mode)

theorem formatWidth_cases (c : Nat) : (c = 7 ∧ formatWidth c = 16) ∨ (c ≠ 7 ∧ (formatWidth c = 4 ∨ formatWidth c = 8)) := by
  simp only [formatWidth]
  by_cases h : c = 7
  · simp [h]
  · simp only [h, if_false, not_false_eq_true, true_and, false_and, false_or, ne_eq]
    split <;> simp

/-- The K positions of an issue fill words of both operands, and groups of 64 where a group counts. -/
theorem positionsOf_whole {mode a b beats : Nat} (hw : formatWidth a = 4 ∨ formatWidth a = 8)
    (hv : formatWidth b = 4 ∨ formatWidth b = 8) (h : positionsOf mode a b beats %
      (if mode = 0 ∧ a < 8 ∧ b < 8 then 32 / min (formatWidth a) (formatWidth b) else 64) = 0) :
    (8 ≤ a ∨ 8 ≤ b ∨ mode ≠ 0 → positionsOf mode a b beats % 64 = 0) ∧ positionsOf mode a b beats % (32 / formatWidth a) = 0 ∧
      positionsOf mode a b beats % (32 / formatWidth b) = 0 := by
  generalize positionsOf mode a b beats = k at h ⊢
  split at h
  · next hplain =>
    refine ⟨fun hg => absurd hplain (by omega), ?_⟩
    rcases hw with hw | hw <;> rcases hv with hv | hv <;> rw [hw, hv] at h ⊢ <;> norm_num at h ⊢ <;> omega
  · refine ⟨fun _ => h, ?_, ?_⟩
    · rcases hw with hw | hw <;> rw [hw] <;> omega
    · rcases hv with hv | hv <;> rw [hv] <;> omega

/-- The shape of an issue of 4-bit and 8-bit operands. -/
theorem matrixShape_narrow {mode a b beats : Nat} (hm : mode ≤ 2) (ha : a ≠ 7) (hw : formatWidth a = 4 ∨ formatWidth a = 8)
    (hv : formatWidth b = 4 ∨ formatWidth b = 8) (h : positionsOf mode a b beats %
      (if mode = 0 ∧ a < 8 ∧ b < 8 then 32 / min (formatWidth a) (formatWidth b) else 64) = 0) : MatrixShape mode a b beats := by
  obtain ⟨h64, hA, hB⟩ := positionsOf_whole hw hv h
  have hstored : storedElements a b beats = if formatWidth a = 4 ∧ formatWidth b = 4 then 2 * beats else beats := by
    rw [storedElements, if_neg ha]
  have hdense : (denseStep a b = 1 ∨ denseStep a b = 2) ∧ denseStep a b ∣ storedElements a b beats := by
    rw [hstored, denseStep]
    split <;> omega
  obtain ⟨hstep, hdense⟩ := hdense
  have hpositions : positionsOf mode a b beats = storedElements a b beats * (if mode = 0 then 1 else if mode = 1 then 2 else 4) := rfl
  have helement (n : Nat) (x : Word) : (elementOf mode a n x).1 = n ∧ mode = 0 ∨
      mode ≠ 0 ∧ (elementOf mode a n x).1 < 4 * (if mode = 1 then n / 2 else n) + 4 := by
    rw [elementOf]
    dsimp only
    split
    · exact .inl ⟨rfl, ‹_›⟩
    · exact .inr ⟨‹_›, by dsimp only; omega⟩
  constructor
  case modes => exact hm
  case wordsA =>
    interval_cases mode <;> rcases hw with hw | hw <;> simp [perWord, perGroup, hw] at hA hpositions ⊢ <;> omega
  case wordsB => refine ⟨?_, ?_, hB⟩ <;> rcases hv with hv | hv <;> rw [hv] <;> decide
  case groupsA => interval_cases mode <;> simp [perGroup] at hpositions h64 ⊢ <;> omega
  case groupsB => exact fun hb => h64 (.inr (.inl hb))
  case groups => interval_cases mode <;> simp [perGroup] at hpositions ⊢ <;> omega
  case rounding =>
    interval_cases mode <;> simp [perGroup] at hpositions h64 ⊢ <;> rcases hstep with hstep | hstep <;> rw [hstep] at hdense ⊢ <;>
      omega
  case positions =>
    intro n x hn
    have := helement n x
    interval_cases mode <;> simp at hpositions h64 this <;> omega
  case positive => interval_cases mode <;> rcases hstep with hstep | hstep <;> rw [hstep] <;> decide

theorem matrixShape {mode a b beats : Nat} (hm : mode ≤ 2) (h : matrixFits mode a b beats) : MatrixShape mode a b beats := by
  obtain ⟨hcodes, hunit⟩ := h
  have h7 : (a = 7 ∧ b = 7 ∧ mode = 0 ∧ beats % 2 = 0) ∨ (a ≠ 7 ∧ b ≠ 7) := by
    rcases hcodes with h | h | h <;> omega
  have hwa := formatWidth_cases a
  have hwb := formatWidth_cases b
  rcases h7 with ⟨rfl, rfl, rfl, hbeats⟩ | ⟨ha, hb⟩
  · simp [positionsOf, storedElements, formatWidth] at hunit
    constructor <;> simp [perWord, perGroup, positionsOf, storedElements, formatWidth, elementOf, denseStep] <;> omega
  · simp only [ha, hb, false_and, not_false_eq_true, ne_eq, true_and, false_or] at hwa hwb
    exact matrixShape_narrow hm ha hwa hwb hunit

/-! ## The plan of an issue (R202 to R204) -/

/-- The counts of an issue that fits. -/
def fittingPlan (mode a b beats : Nat) : MmaPlan :=
  ⟨readsOf mode a b beats, linesOf mode a b beats, positionsOf mode a b beats, storedElements a b beats,
    denseStep a b * (64 / perGroup mode)⟩

theorem positionsOf_eq {mode : Nat} (hm : mode ≤ 2) (a b beats : Nat) :
    storedElements a b beats * (64 / sparseN mode) = positionsOf mode a b beats := by
  rw [positionsOf]
  interval_cases mode <;> rfl

theorem mmaPlan_fitting {o : EmOp} {a b sb : Nat} (hm : o.mode.toNat ≤ 2)
    (h : matrixFits o.mode.toNat a b (o.head.beats.toNat + 1)) :
    mmaPlan o (a, b, sb) = some (fittingPlan o.mode.toNat a b (o.head.beats.toNat + 1)) := by
  obtain ⟨hcodes, hunit⟩ := h
  have hstored : (if a = 7 then (o.head.beats.toNat + 1) / 2
      else if (decide (formatWidth a = 4) && decide (formatWidth b = 4)) = true then 2 * (o.head.beats.toNat + 1)
      else o.head.beats.toNat + 1) = storedElements a b (o.head.beats.toNat + 1) := by
    simp only [Bool.and_eq_true, decide_eq_true_eq, storedElements]
  have hstep : (if (decide (formatWidth a = 4) && decide (formatWidth b = 4)) = true then 2 else 1) = denseStep a b := by
    simp only [Bool.and_eq_true, decide_eq_true_eq, denseStep]
  have hgo : ¬ ((a = 7 ∧ (o.head.beats.toNat + 1) % 2 = 1) ∨ (a = 7 ∧ o.mode.toNat ≠ 0) ∨
      positionsOf o.mode.toNat a b (o.head.beats.toNat + 1) %
        (if (decide (o.mode.toNat = 0) && !codeScaled a && !codeScaled b) = true then 32 / min (formatWidth a) (formatWidth b) else 64) ≠ 0) := by
    have hsame : (decide (o.mode.toNat = 0) && !codeScaled a && !codeScaled b) = true ↔ o.mode.toNat = 0 ∧ a < 8 ∧ b < 8 := by
      simp [codeScaled, and_assoc]
    simp only [hsame]
    rintro (h | h | h)
    · rcases hcodes with h' | h' | h' <;> omega
    · rcases hcodes with h' | h' | h' <;> omega
    · exact h hunit
  simp only [mmaPlan, codeWidth_eq, readElems_eq, b2n_codeScaled, hstored, hstep, positionsOf_eq hm]
  rw [if_neg hgo, sparseN_eq hm]
  rfl

/-- An entry whose codes fit is one that a matrix command takes; its accumulator is FP32 but for integer codes (R66). -/
theorem entryKind_fitting {mode a b beats sb : Nat} (h : matrixFits mode a b beats) :
    (entryKind (a, b, sb)).getD true = decide (¬ a ≤ 3) ∧ ((a ≤ 3 ∨ sb ≠ 255) → (entryKind (a, b, sb)).isNone = false) := by
  obtain ⟨hcodes, -⟩ := h
  have hfloat (hab : (([4, 5, 6, 8, 9, 10].contains a && [4, 5, 6, 8, 9, 10].contains b) ||
      (decide (a = 7) && decide (b = 7))) = true) (ha : ¬ a ≤ 3) :
      (entryKind (a, b, sb)).getD true = decide (¬ a ≤ 3) ∧ ((a ≤ 3 ∨ sb ≠ 255) → (entryKind (a, b, sb)).isNone = false) := by
    simp only [entryKind]
    rw [if_neg (by omega), if_pos hab]
    by_cases hsb : sb = 255
    · rw [if_pos hsb]
      exact ⟨by simp [ha], fun h => absurd h (by omega)⟩
    · rw [if_neg hsb]
      exact ⟨by simp [ha], fun _ => rfl⟩
  rcases hcodes with ⟨ha, hb⟩ | ⟨ha, hb⟩ | ⟨-, rfl, rfl, -⟩
  · simp only [entryKind]
    rw [if_pos ⟨ha, hb⟩]
    exact ⟨by simp [ha], fun _ => rfl⟩
  · have small (c : Nat) (h : (4 ≤ c ∧ c ≤ 6) ∨ (8 ≤ c ∧ c ≤ 10)) : [4, 5, 6, 8, 9, 10].contains c = true := by
      simp
      omega
    exact hfloat (by rw [small a ha, small b hb]; rfl) (by omega)
  · exact hfloat rfl (by omega)

/-! ## The words of the operands (R202 to R204) -/

/-- A word of data lies within what is read: whole groups, each with its scale where the code is scaled. -/
theorem dataAt_lt {c grp per total n : Nat} (hper : 0 < per) (hgrp : per ∣ grp) (hword : total % per = 0)
    (hscaled : 8 ≤ c → total % grp = 0) (hn : n < total) :
    dataAt c grp per n < total / per + if 8 ≤ c then total / grp else 0 := by
  obtain ⟨d, rfl⟩ := hgrp
  obtain ⟨m, rfl⟩ := Nat.dvd_of_mod_eq_zero hword
  have hd : per * d / per = d := Nat.mul_div_cancel_left d hper
  have hm : per * m / per = m := Nat.mul_div_cancel_left m hper
  have hsplit : n / (per * d) * d + n % (per * d) / per = n / per := by
    rw [← Nat.div_div_eq_div_mul, Nat.mod_mul_right_div_self, Nat.mul_comm, Nat.div_add_mod]
  have hlt : n / per < m := Nat.div_lt_of_lt_mul hn
  rw [dataAt, hd, hm]
  split
  · next hc =>
    obtain ⟨q, hq⟩ := Nat.dvd_of_mod_eq_zero (hscaled hc)
    have hpos : 0 < per * d := by
      rcases Nat.eq_zero_or_pos (per * d) with h | h
      · rw [h, Nat.zero_mul] at hq
        omega
      · exact h
    have hgroup : n / (per * d) < q := Nat.div_lt_of_lt_mul (hq ▸ hn)
    rw [hq, Nat.mul_div_cancel_left q hpos, Nat.mul_add]
    omega
  · rw [Nat.add_zero, Nat.add_zero, hsplit]
    exact hlt

/-- So does the word of a group's scale. -/
theorem scaleWord_lt {grp per total n : Nat} (hper : 0 < per) (hgrp : per ∣ grp) (hscaled : total % grp = 0) (hn : n < total) :
    n / grp * (grp / per + 1) + grp / per < total / per + total / grp := by
  obtain ⟨d, rfl⟩ := hgrp
  obtain ⟨q, rfl⟩ := Nat.dvd_of_mod_eq_zero hscaled
  have hd : per * d / per = d := Nat.mul_div_cancel_left d hper
  have hpos : 0 < per * d := by
    rcases Nat.eq_zero_or_pos (per * d) with h | h
    · rw [h, Nat.zero_mul] at hn
      omega
    · exact h
  have hgroup : n / (per * d) + 1 ≤ q := Nat.div_lt_of_lt_mul hn
  have hmul := Nat.mul_le_mul_right (d + 1) hgroup
  rw [hd, Nat.mul_div_cancel_left q hpos, Nat.mul_assoc, Nat.mul_div_cancel_left _ hper, Nat.mul_comm d q]
  nlinarith

/-! ## The elements of the operands (R202 to R204) -/

theorem b2n_codeScaled_one (c : Nat) : b2n (codeScaled c) = if 8 ≤ c then 1 else 0 := by
  by_cases h : 8 ≤ c <;> simp [b2n, codeScaled, h]

theorem codeScaled_iff (c : Nat) : codeScaled c = true ↔ 8 ≤ c := decide_eq_true_iff

/-- The scale behind the group of an element, as the model reads it. -/
theorem scale_of_rows {c grp per total n i : Nat} {rows : List (List Word)} {word : Nat → Word} (hper : 0 < per) (hgrp : per ∣ grp)
    (hscaled : 8 ≤ c → total % grp = 0) (hn : n < total)
    (h : ∀ t, t < total / per + (if 8 ≤ c then total / grp else 0) → nth0 (rows.getD t []) i = word t) :
    (if codeScaled c = true then
      field (nth0 (rows.getD (n / grp * (grp / per + if 8 ≤ c then 1 else 0) + grp / per) []) i).toNat 0 8 else 127) =
      scaleAt c grp per word n := by
  rw [scaleAt]
  by_cases h8 : 8 ≤ c
  · have hlt := scaleWord_lt hper hgrp (hscaled h8) hn
    rw [if_pos ((codeScaled_iff c).mpr h8), if_pos h8, if_pos h8, h _ (by rw [if_pos h8]; exact hlt), field, pow_zero, Nat.div_one]
    rfl
  · rw [if_neg (mt (codeScaled_iff c).mp h8), if_neg h8]

/-- A stored element of A: its K position, its bits and its scale. -/
theorem aElem_eq {mode a b beats i n : Nat} {reads : List (List Word)} {rd : Nat → Word} (hs : MatrixShape mode a b beats)
    (hrd : ∀ t, t < readsOf mode a b beats → nth0 (reads.getD t []) i = rd t) (hn : n < storedElements a b beats) :
    aElem mode a reads i n =
      let e := elementOf mode a n (rd (dataAt a (perGroup mode) (perWord mode a) n))
      (e.1, e.2, scaleAt a (perGroup mode) (perWord mode a) rd n) := by
  obtain ⟨hper, hgrp, hword⟩ := hs.wordsA
  rw [readsOf, hs.groups] at hrd
  have hplace : n / perGroup mode * (perGroup mode / perWord mode a + if 8 ≤ a then 1 else 0) + n % perGroup mode / perWord mode a =
      dataAt a (perGroup mode) (perWord mode a) n := rfl
  simp only [aElem, codeWidth_eq, readElems_eq, sparseN_eq hs.modes, b2n_codeScaled_one, hplace,
    hrd _ (dataAt_lt hper hgrp hword hs.groupsA hn), scale_of_rows hper hgrp hs.groupsA hn hrd]
  rw [elementOf]
  split
  · next h => rw [show perWord mode a = 32 / formatWidth a from if_pos h]; rfl
  · next h =>
    rw [show perWord mode a = 16 / formatWidth a from if_neg h]
    simp [field, elemOf]

/-- The element of B at a K position, and its scale. -/
theorem bElem_eq {mode a b beats j k : Nat} {lines : List (List Word)} {ln : Nat → Word} (hs : MatrixShape mode a b beats)
    (hln : ∀ t, t < linesOf mode a b beats → nth0 (lines.getD t []) j = ln t) (hk : k < positionsOf mode a b beats) :
    bElem b lines j k = (elemOf (formatWidth b) (k % (32 / formatWidth b)) (ln (dataAt b 64 (32 / formatWidth b) k)),
      scaleAt b 64 (32 / formatWidth b) ln k) := by
  obtain ⟨hper, hgrp, hword⟩ := hs.wordsB
  rw [linesOf] at hln
  have hplace : k / 64 * (64 / (32 / formatWidth b) + if 8 ≤ b then 1 else 0) + k % 64 / (32 / formatWidth b) =
      dataAt b 64 (32 / formatWidth b) k := rfl
  simp only [bElem, codeWidth_eq, b2n_codeScaled_one, hplace, hln _ (dataAt_lt hper hgrp hword hs.groupsB hk),
    scale_of_rows hper hgrp hs.groupsB hk hln]
  rfl

/-! ## Accumulation (R59) -/

/-- A list of q groups of g entries, cut into them. -/
theorem groupsOf_map_range {α : Type} (f : Nat → α) {g : Nat} (hg : 0 < g) (q fuel : Nat) (hq : q ≤ fuel) :
    groupsOf g fuel ((List.range (g * q)).map f) = (List.range q).map fun i => (List.range g).map fun k => f (g * i + k) := by
  induction q generalizing fuel f with
  | zero => cases fuel <;> rfl
  | succ q ih =>
    obtain ⟨fuel, rfl⟩ : ∃ m, fuel = m + 1 := ⟨fuel - 1, by omega⟩
    have hsplit : (List.range (g * (q + 1))).map f = (List.range g).map f ++ (List.range (g * q)).map fun k => f (g + k) := by
      rw [Nat.mul_succ, Nat.add_comm, List.range_add, List.map_append, List.map_map]
      rfl
    have hlen : ((List.range g).map f).length = g := by simp
    have hne : ((List.range (g * (q + 1))).map f).isEmpty = false := by
      simp
      omega
    rw [groupsOf, hne, hsplit, List.take_left' hlen, List.drop_left' hlen, ih (fun k => f (g + k)) fuel (by omega),
      List.range_succ_eq_map, List.map_cons, List.map_map]
    simp [Function.comp_def, Nat.mul_succ, Nat.add_assoc, Nat.add_comm g]

/-- One rounding for each group of products. -/
theorem accFloat_eq {g n : Nat} (hg : 0 < g) (hn : g ∣ n) (acc : Word) (f : Nat → Val) :
    accFloat g acc ((List.range n).map f) =
      (List.range (n / g)).foldl (fun acc q => accStep acc ((List.range g).foldl (fun v k => addExact v (f (g * q + k)))
        (.num true 0 0))) acc := by
  obtain ⟨q, rfl⟩ := hn
  rw [accFloat, List.length_map, List.length_range, groupsOf_map_range f hg q _ (Nat.le_mul_of_pos_left q hg), List.foldl_map,
    Nat.mul_div_cancel_left q hg]
  simp only [List.foldl_map]

theorem elemOf_lt (w k : Nat) (x : Word) : elemOf w k x < 2 ^ w := Nat.mod_lt _ (by positivity)

theorem elementOf_lt (mode a n : Nat) (x : Word) : (elementOf mode a n x).2 < 2 ^ formatWidth a := by
  rw [elementOf]
  dsimp only
  split
  · exact elemOf_lt _ _ _
  · exact Nat.mod_lt _ (by positivity)

/-- The product of stored element n of A and the element of B at its K position, under their scales (R59). -/
def storedProduct (mode a b : Nat) (rd ln : Nat → Word) (n : Nat) : Val :=
  let e := elementOf mode a n (rd (dataAt a (perGroup mode) (perWord mode a) n))
  elemProduct (scaleVal (codeVal a e.2) (scaleAt a (perGroup mode) (perWord mode a) rd n))
    (scaleVal (codeVal b (elemOf (formatWidth b) (e.1 % (32 / formatWidth b)) (ln (dataAt b 64 (32 / formatWidth b) e.1))))
      (scaleAt b 64 (32 / formatWidth b) ln e.1))

/-- One output of an issue is the sum of R59 over what it reads. -/
theorem mmaElement_eq {mode a b beats i j : Nat} {reads lines : List (List Word)} {rd ln : Nat → Word}
    (hs : MatrixShape mode a b beats) (hcodes : a ≤ 3 → b ≤ 3)
    (hrd : ∀ t, t < readsOf mode a b beats → nth0 (reads.getD t []) i = rd t)
    (hln : ∀ t, t < linesOf mode a b beats → nth0 (lines.getD t []) j = ln t) (acc : Word) :
    mmaElement (fittingPlan mode a b beats) a b (decide (¬ a ≤ 3)) acc
      ((List.range (storedElements a b beats)).map fun n => aElem mode a reads i n)
      ((List.range (positionsOf mode a b beats)).map fun k => bElem b lines j k) = matrixSum mode a b beats rd ln acc := by
  have hother (n : Nat) (hn : n < storedElements a b beats) (x : Word) :
      ((List.range (positionsOf mode a b beats)).map fun k => bElem b lines j k).getD (elementOf mode a n x).1 (0, 127) =
        (elemOf (formatWidth b) ((elementOf mode a n x).1 % (32 / formatWidth b))
          (ln (dataAt b 64 (32 / formatWidth b) (elementOf mode a n x).1)), scaleAt b 64 (32 / formatWidth b) ln (elementOf mode a n x).1) := by
    rw [getD_map_range _ _ (hs.positions n x hn), bElem_eq hs hln (hs.positions n x hn)]
  rw [mmaElement, matrixSum]
  by_cases ha : a ≤ 3
  · have hb := hcodes ha
    rw [if_neg (by simp [ha]), if_pos ha, List.map_map]
    refine congrArg (fun l : List Int => acc + BitVec.ofInt 32 l.sum) (List.map_congr_left fun n hn => ?_)
    have hn := List.mem_range.mp hn
    rw [Function.comp_apply, aElem_eq hs hrd hn]
    dsimp only
    rw [hother n hn, codeInt_eq ha (elementOf_lt _ _ _ _), codeInt_eq hb (elemOf_lt _ _ _)]
  · rw [if_pos (by simp [ha]), if_neg ha, List.map_map]
    have hproduct : ∀ n ∈ List.range (storedElements a b beats), ((fun e : Nat × Nat × Nat =>
        let y := ((List.range (positionsOf mode a b beats)).map fun k => bElem b lines j k).getD e.1 (0, 127)
        elemProduct (scaleVal (codeVal a e.2.1) e.2.2) (scaleVal (codeVal b y.1) y.2)) ∘ fun n => aElem mode a reads i n) n =
        storedProduct mode a b rd ln n := fun n hn => by
      have hn := List.mem_range.mp hn
      rw [Function.comp_apply, aElem_eq hs hrd hn]
      dsimp only
      rw [hother n hn]
      rfl
    rw [List.map_congr_left hproduct]
    exact accFloat_eq hs.positive hs.rounding acc (storedProduct mode a b rd ln)

end Sys2Proof.Machine
end

section
/-! SUPPORT. What an issue of an MMA or MMAS makes of a context: its accumulator, or its shutter (R201 to R206). -/

namespace Sys2Proof.Machine

/-! ## The elements of an issue, row by row -/

theorem mmaRows_eq {mode a b beats : Nat} {reads lines : List (List Word)} {rd ln : Nat → Nat → Word}
    (hs : MatrixShape mode a b beats) (hcodes : a ≤ 3 → b ≤ 3)
    (hrd : ∀ i, i < 64 → ∀ t, t < readsOf mode a b beats → nth0 (reads.getD t []) i = rd i t)
    (hln : ∀ j, j < 64 → ∀ t, t < linesOf mode a b beats → nth0 (lines.getD t []) j = ln j t) (old : Nat → Nat → Word) :
    mmaRows mode a b (decide (¬ a ≤ 3)) (fittingPlan mode a b beats) old reads lines =
      (List.range 4096).map fun k => (k, matrixSum mode a b beats (rd (k / 64)) (ln (k % 64)) (old (k / 64) (k % 64))) := by
  have hrow (i : Nat) (hi : i ∈ List.range 64) : ((List.range 64).map fun j => (64 * i + j, mmaElement (fittingPlan mode a b beats) a b
      (decide (¬ a ≤ 3)) (old i j) ((List.range (storedElements a b beats)).map fun n => aElem mode a reads i n)
      (((List.range 64).map fun j => (List.range (positionsOf mode a b beats)).map fun k => bElem b lines j k).getD j []))) =
      (List.range 64).map fun j => (64 * i + j, matrixSum mode a b beats (rd i) (ln j) (old i j)) := by
    refine List.map_congr_left fun j hj => ?_
    have hj := List.mem_range.mp hj
    rw [getD_map_range _ _ hj, mmaElement_eq hs hcodes (hrd i (List.mem_range.mp hi)) (hln j hj)]
  rw [mmaRows]
  refine (congrArg List.flatten (List.map_congr_left hrow)).trans
    ((flatten_map_range (fun i j => (64 * i + j, matrixSum mode a b beats (rd i) (ln j) (old i j))) 64 64).trans ?_)
  refine List.map_congr_left fun k _ => ?_
  rw [Nat.div_add_mod]

/-! ## One issue (R201 to R206) -/

/-- What an issue reads from: the repeat's place in the streams, the register of A and the B-store. -/
def Repeat.sum (r : Repeat) (x : Ctx) (core : Core) (a b m j : Nat) : Word → Word :=
  let mode := r.op.mode.toNat
  let beats := r.op.head.beats.toNat + 1
  matrixSum mode a b beats (fun t => x.regs.aRead r.op (r.x0 + r.count * readsOf mode a b beats) t m)
    (fun t => core.bRead (r.y0 + r.count * linesOf mode a b beats) t j)

/-- Does an issue start from zero (R201)? -/
def Repeat.fresh (r : Repeat) : Bool := r.op.ovr && decide (r.count = 0)

/-- The plan of a repeat whose codes fit. -/
def Repeat.plan (r : Repeat) (a b : Nat) : MmaPlan := fittingPlan r.op.mode.toNat a b (r.op.head.beats.toNat + 1)

/-- The shutter that an issue finds, or opens on a copy of its target (R206). -/
def Repeat.shutterOf (r : Repeat) (x : Ctx) (p : MmaPlan) : Shutter :=
  (x.shutter (r.op.acc.toNat - 32)).getD ⟨field (r.x0 + r.count * p.c) 8 5, setWords [] ((List.range 4096).map fun t =>
    (t, Store.get 0#32 x.regs.m (4096 * field (r.x0 + r.count * p.c) 8 5 + t)))⟩

/-- The rows of an issue, over what it adds to. -/
theorem mmaIssue_rows {x : Ctx} {core : Core} {r : Repeat} {a b : Nat} (hm : r.op.mode.toNat ≤ 2)
    (hfit : matrixFits r.op.mode.toNat a b (r.op.head.beats.toNat + 1)) (old : Nat → Nat → Word) :
    mmaRows r.op.mode.toNat a b (decide (¬ a ≤ 3)) (r.plan a b) old
      ((List.range (r.plan a b).c).map fun t => x.regs.readMDir r.op.areg.toNat r.op.dir.toNat ((r.x0 + r.count * (r.plan a b).c + t) % 64))
      ((List.range (r.plan a b).d).map fun t => core.bLine ((r.y0 + r.count * (r.plan a b).d + t) % 65536)) =
    (List.range 4096).map fun k => (k, r.sum x core a b (k / 64) (k % 64) (old (k / 64) (k % 64))) := by
  have hcodes : a ≤ 3 → b ≤ 3 := by
    intro ha
    rcases hfit.1 with h | h | h <;> omega
  have hc : (r.plan a b).c = readsOf r.op.mode.toNat a b (r.op.head.beats.toNat + 1) := rfl
  have hd : (r.plan a b).d = linesOf r.op.mode.toNat a b (r.op.head.beats.toNat + 1) := rfl
  rw [hc, hd]
  exact mmaRows_eq (rd := fun i t => x.regs.aRead r.op (r.x0 + r.count * readsOf r.op.mode.toNat a b (r.op.head.beats.toNat + 1)) t i)
    (ln := fun j t => core.bRead (r.y0 + r.count * linesOf r.op.mode.toNat a b (r.op.head.beats.toNat + 1)) t j)
    (matrixShape hm hfit) hcodes
    (fun i hi t ht => by rw [getD_map_range _ _ ht]; exact nth0_readMDir x.regs r.op _ t hi)
    (fun j hj t ht => by rw [getD_map_range _ _ ht]; exact nth0_bLine core _ t hj) old

/-- An issue into a matrix register. -/
theorem Ctx.mmaIssue_register {x : Ctx} {core : Core} {r : Repeat} {a b sb : Nat} (hrows : x.noEngineRows)
    (he : r.entry = some (a, b, sb)) (hm : r.op.mode.toNat ≤ 2)
    (hfit : matrixFits r.op.mode.toNat a b (r.op.head.beats.toNat + 1)) (hacc : r.op.acc.toNat < 32) :
    x.mmaIssue core r (r.plan a b) = x.engineWrite ((List.range 4096).map fun k => (4096 * r.op.acc.toNat + k,
      r.sum x core a b (k / 64) (k % 64) (if r.fresh then 0#32 else x.regs.readM r.op.acc.toNat (k / 64) (k % 64)))) := by
  simp only [Ctx.mmaIssue, he, if_pos hacc, Ctx.engineRegs_eq hrows, (entryKind_fitting hfit).1]
  rw [mmaIssue_rows hm hfit, List.map_map]
  rfl

/-- An issue into a shutter. -/
theorem Ctx.mmaIssue_shutter {x : Ctx} {core : Core} {r : Repeat} {a b sb : Nat} (hrows : x.noEngineRows)
    (he : r.entry = some (a, b, sb)) (hm : r.op.mode.toNat ≤ 2)
    (hfit : matrixFits r.op.mode.toNat a b (r.op.head.beats.toNat + 1)) (hacc : 32 ≤ r.op.acc.toNat) :
    let k := r.shutterOf x (r.plan a b)
    x.mmaIssue core r (r.plan a b) = x.setShutter (r.op.acc.toNat - 32) (some ⟨k.target, setWords k.cells
      ((List.range 4096).map fun q => (q, r.sum x core a b (q / 64) (q % 64)
        (if r.fresh then 0#32 else Store.get 0#32 k.cells (64 * (q / 64) + q % 64))))⟩) := by
  simp only [Ctx.mmaIssue, he, if_neg (show ¬ r.op.acc.toNat < 32 by omega), Ctx.engineRegs_eq hrows, (entryKind_fitting hfit).1]
  rw [mmaIssue_rows hm hfit]
  rfl

/-- An issue keeps of a context what an engine command keeps. -/
theorem Ctx.engineKeeps_mmaIssue (x : Ctx) (core : Core) (r : Repeat) (p : MmaPlan) : x.engineKeeps (x.mmaIssue core r p) := by
  rw [Ctx.mmaIssue]
  dsimp only
  split
  · exact x.engineKeeps_engineWrite _
  · split
    · exact x.engineKeeps_engineWrite _
    · exact x.engineKeeps_setShutter _ _

theorem Ctx.regs_mmaIssue (x : Ctx) (core : Core) (r : Repeat) (p : MmaPlan) :
    { (x.mmaIssue core r p).regs with m := x.regs.m } = x.regs := by
  obtain ⟨-, -, -, hregs, -⟩ := x.engineKeeps_mmaIssue core r p
  exact hregs

/-- The accumulator elements after an issue, and those of the other matrix registers. -/
theorem Ctx.readM_mmaIssue {x : Ctx} {core : Core} {r : Repeat} {a b sb : Nat} (hrows : x.noEngineRows)
    (he : r.entry = some (a, b, sb)) (hm : r.op.mode.toNat ≤ 2)
    (hfit : matrixFits r.op.mode.toNat a b (r.op.head.beats.toNat + 1)) (hacc : r.op.acc.toNat < 32)
    (hwf : Store.wf 0#32 x.regs.m = true) (n : Nat) {m j : Nat} (hm64 : m < 64) (hj64 : j < 64) :
    (x.mmaIssue core r (r.plan a b)).regs.readM n m j = if n = r.op.acc.toNat then
      r.sum x core a b m j (if r.fresh then 0#32 else x.regs.readM r.op.acc.toNat m j) else x.regs.readM n m j := by
  rw [Ctx.mmaIssue_register hrows he hm hfit hacc, Ctx.regs_engineWrite, Regs.readM, get_setWords_range hwf, mKey_eq_add]
  by_cases hn : n = r.op.acc.toNat
  · rw [if_pos (by omega), if_pos hn, hn, Nat.add_sub_cancel_left, Nat.mul_add_div (by decide), Nat.div_eq_of_lt hj64, Nat.add_zero,
      Nat.mul_add_mod, Nat.mod_eq_of_lt hj64]
  · rw [if_neg (by omega), if_neg hn, Regs.readM, mKey_eq_add]

/-- The shutter after an issue, over that which it finds or opens. -/
theorem Ctx.shutter_mmaIssue {x : Ctx} {core : Core} {r : Repeat} {a b sb : Nat} (hrows : x.noEngineRows)
    (he : r.entry = some (a, b, sb)) (hm : r.op.mode.toNat ≤ 2)
    (hfit : matrixFits r.op.mode.toNat a b (r.op.head.beats.toNat + 1)) (hacc : 32 ≤ r.op.acc.toNat) :
    let h := r.shutterOf x (r.plan a b)
    (x.mmaIssue core r (r.plan a b)).regs = x.regs ∧
    ∃ k, (x.mmaIssue core r (r.plan a b)).shutter (r.op.acc.toNat - 32) = some k ∧ k.target = h.target ∧
      (Store.wf 0#32 h.cells = true → ∀ m j, m < 64 → j < 64 → Store.get 0#32 k.cells (64 * m + j) =
        r.sum x core a b m j (if r.fresh then 0#32 else Store.get 0#32 h.cells (64 * m + j))) := by
  intro h
  rw [Ctx.mmaIssue_shutter hrows he hm hfit hacc, Ctx.regs_setShutter, Ctx.shutter_setShutter]
  refine ⟨rfl, _, rfl, rfl, fun hwf m j hm64 hj64 => ?_⟩
  rw [get_setWords_table hwf 4096 _ (by omega)]
  rw [show (64 * m + j) / 64 = m by omega, show (64 * m + j) % 64 = j by omega]

/-- A shutter that an issue opens holds its target. -/
theorem Repeat.shutterOf_none {r : Repeat} {x : Ctx} {p : MmaPlan} (h : x.shutter (r.op.acc.toNat - 32) = none) :
    let k := r.shutterOf x p
    k.target = (r.x0 + r.count * p.c) / 256 % 32 ∧ Store.wf 0#32 k.cells = true ∧
      ∀ m j, m < 64 → j < 64 → Store.get 0#32 k.cells (64 * m + j) = x.regs.readM k.target m j := by
  intro k
  have hk : k = ⟨field (r.x0 + r.count * p.c) 8 5, setWords [] ((List.range 4096).map fun t =>
      (t, Store.get 0#32 x.regs.m (4096 * field (r.x0 + r.count * p.c) 8 5 + t)))⟩ := by
    rw [show k = r.shutterOf x p from rfl, Repeat.shutterOf, h]
    rfl
  have hempty : Store.wf 0#32 ([] : Store Word) = true := rfl
  rw [hk]
  dsimp only
  refine ⟨rfl, wf_setWords _ hempty, fun m j hm hj => ?_⟩
  rw [get_setWords_table hempty 4096 _ (by omega)]
  rw [Regs.readM, mKey_eq_add]

theorem Repeat.shutterOf_some {r : Repeat} {x : Ctx} {p : MmaPlan} {k : Shutter}
    (h : x.shutter (r.op.acc.toNat - 32) = some k) : r.shutterOf x p = k := by
  rw [Repeat.shutterOf, h]
  rfl

end Sys2Proof.Machine
end

section
/-! SUPPORT. A matrix command on an engine that is free, and the first issue of an MMA or MMAS (R199, R201, R207). -/

namespace Sys2Proof.Machine

/-! ## The engine of the core whose slots execute -/

theorem State.act_onMx (s : State) (f : Matrix → Matrix) : (s.onMx f).act = s.act := by
  rw [State.act, State.onMx, State.here_onHere]
  rfl

theorem State.here_onMx (s : State) (f : Matrix → Matrix) : (s.onMx f).here = { s.here with mx := f s.here.mx } :=
  s.here_onHere _

theorem State.sameOutside_onMx (s : State) (f : Matrix → Matrix) : s.sameOutside (s.onMx f) := s.sameOutside_onHere _

theorem State.sameOutside.core_ne {s t : State} (h : s.sameOutside t) {n : Nat} (hn : n ≠ s.cur) : t.core n = s.core n := by
  obtain ⟨-, -, hcores, -⟩ := h
  exact hcores n hn

/-- A free engine raises no schedule fault (R103). -/
theorem State.engineCheck_of_free {s : State} (h : s.engineFree) (matrix : Bool) : s.engineCheck matrix = s := by
  have hbusy : ¬ s.cycle < s.here.mx.busyTo := Nat.not_lt.mpr h.1
  rw [State.engineCheck]
  simp [Matrix.repeating, hbusy]

theorem State.matrixNames_of_bound {s : State} {l : List (Nat × Nat)} (h : ∀ e ∈ l, e.1 < s.act.mBound) :
    s.matrixNames l = s := by
  induction l with
  | nil => rfl
  | cons e l ih =>
    have he : ¬ s.act.mBound ≤ e.1 := Nat.not_le.mpr (h e List.mem_cons_self)
    rw [State.matrixNames, State.checkMatrix, if_neg he]
    exact ih fun e he => h e (List.mem_cons_of_mem _ he)

/-- A matrix command with a true guard, whose checks find nothing, holds the engine for its beats and has its effect. -/
theorem matrixCommand_runs {h : EHead} {beats : Nat} {rep : Option Repeat} {checks body : State → State} {s : State}
    (hg : h.guard.holds s.act.regs = true) (hf : s.engineFree) (hc : checks s = s) : matrixCommand h beats rep checks body s =
      .next (body (s.onMx fun m => { m with busyTo := s.cycle + beats, rep := rep })) := by
  simp only [matrixCommand, State.engineCheck_of_free hf, hc, State.unlessTrapped, if_true, hg]

/-! ## The record of a trace (R359) -/

theorem State.core_noteLocal (s : State) (x : Ctx) (n : Nat) : (s.noteLocal x).core n = s.core n := by
  rw [State.noteLocal]
  split
  · rfl
  · split
    · rfl
    · split
      · rfl
      · rw [State.onRecord]
        split <;> rfl

theorem State.cur_noteLocal (s : State) (x : Ctx) : (s.noteLocal x).cur = s.cur := by
  rw [State.noteLocal]
  split
  · rfl
  · split
    · rfl
    · split
      · rfl
      · rw [State.onRecord]
        split <;> rfl

theorem State.here_noteLocal (s : State) (x : Ctx) : (s.noteLocal x).here = s.here := by
  rw [State.here, State.cur_noteLocal, State.core_noteLocal]
  rfl

/-! ## Address registers in flight (R102, R201) -/

/-- A clash with a write of an address register turns on the register alone. -/
theorem State.clear_a {s : State} {slot : Slot} {n : Nat} {x : Word} (h : s.clear slot (.a n x)) (y : Word) :
    s.clear slot (.a n y) := by
  have hclash (e : Eff) : e.clash (.a n y) = e.clash (.a n x) := by
    cases e with
    | shut _ commit _ _ => cases commit <;> rfl
    | _ => rfl
  intro o ho hseq heng hslot
  rw [hclash]
  exact h o ho hseq heng hslot

/-- Results have joined those in flight, and nothing else of the core has changed, and nothing outside. -/
def State.flies (s t : State) (l : List Landing) : Prop :=
  t.here = { s.here with act := { s.act with pend := s.act.pend ++ l } } ∧ s.sameOutside t

theorem State.flies_nil (s : State) : s.flies s [] := ⟨by rw [List.append_nil]; rfl, s.sameOutside_refl⟩

theorem State.flies_inFlight (s : State) (l : List Landing) : s.flies (s.inFlight l) l :=
  ⟨s.here_onHere _, s.sameOutside_onAct _⟩

theorem State.flies.joins {s t : State} {l : List Landing} (h : s.flies t l) : s.joins t l :=
  ⟨by rw [State.act, h.1], by rw [h.1], h.2⟩

theorem State.flies.trans {s t u : State} {l m : List Landing} (h : s.flies t l) (k : t.flies u m) : s.flies u (l ++ m) :=
  ⟨by rw [k.1, State.act, h.1, ← List.append_assoc], h.2.trans k.2⟩

/-- Writes of address registers that no other slot writes join those in flight, for the next cycle. -/
theorem State.flies_foldl_a {s : State} {slot : Slot} (l : List (Nat × Word)) (h : ∀ e ∈ l, s.clear slot (.a e.1 e.2)) :
    s.flies (l.foldl (fun s e => s.land slot (s.cycle + 1) (.a e.1 e.2)) s)
      (l.map fun e => s.flight slot (s.cycle + 1) (.a e.1 e.2)) := by
  induction l generalizing s with
  | nil => exact s.flies_nil
  | cons e l ih =>
    have hfirst := s.flies_inFlight [s.flight slot (s.cycle + 1) (.a e.1 e.2)]
    have hcycle : (s.inFlight [s.flight slot (s.cycle + 1) (.a e.1 e.2)]).cycle = s.cycle := rfl
    have hrest := ih (s := s.inFlight [s.flight slot (s.cycle + 1) (.a e.1 e.2)]) fun e' he' o ho hseq heng hslot => by
      rw [hfirst.joins.pend] at ho
      rcases List.mem_append.mp ho with ho | ho
      · exact h e' (List.mem_cons_of_mem _ he') o ho (by rw [hseq, hfirst.joins.1]) heng hslot
      · exact absurd (by rw [List.mem_singleton.mp ho]; rfl) hslot
    simp only [hcycle, hfirst.joins.flight] at hrest
    rw [List.foldl_cons, State.land_clear s slot _ _ (h e List.mem_cons_self)]
    exact hfirst.trans hrest

/-! ## The first issue (R201, R207) -/

/-- The fill is 4 cycles behind a selection of the line, else 12 (R207, R210). -/
theorem Matrix.fill_eq (m : Matrix) (cycle line : Nat) : (m.fill cycle line = 4 ∨ m.fill cycle line = 12) ∧
    (m.fill cycle line = 4 ↔ ∃ c, m.sel = some (line, c) ∧ c < cycle ∧ cycle ≤ c + 64) := by
  rw [Matrix.fill]
  split
  · next l c hsel =>
    split
    · next h => exact ⟨.inl rfl, iff_of_true rfl ⟨c, by rw [hsel, h.1], h.2⟩⟩
    · next h =>
      refine ⟨.inr rfl, iff_of_false (by decide) ?_⟩
      rintro ⟨c', hc', h'⟩
      obtain ⟨rfl, rfl⟩ := Prod.mk.inj (Option.some.inj (hsel.symm.trans hc'))
      exact h ⟨rfl, h'⟩
  · next hsel => exact ⟨.inr rfl, iff_of_false (by decide) fun ⟨c, hc, _⟩ => nomatch hsel.symm.trans hc⟩

/-- The command of a first issue, before any of its issues. -/
def State.firstRepeat (s : State) (o : EmOp) (entry : Option (Nat × Nat × Nat)) : Repeat :=
  ⟨o, entry, s.here.iss.rpt, s.cycle + (o.head.beats.toNat + 1), 0, (s.act.regs.readA o.ax.toNat).toNat,
    (s.act.regs.readA o.ay.toNat).toNat, (List.range 3).filter fun k => s.here.iss.ports[k]? = some Slot.e.code, s.act.seq,
    s.here.iss.pc, s.act.cid⟩

/-- The core behind a first issue: the context after it, its result in the engine. -/
structure State.FirstIssue (s t : State) (o : EmOp) (entry : Option (Nat × Nat × Nat)) (p : MmaPlan) : Prop where
  act : t.act = { (s.act.number 0).mmaIssue s.here (s.firstRepeat o entry) p with
    pend := ((s.act.number 0).mmaIssue s.here (s.firstRepeat o entry) p).pend ++
      ((s.firstRepeat o entry).advance p).map fun e => s.flight .e (s.cycle + 1) (.a e.1 e.2) }
  busyTo : t.here.mx.busyTo = s.cycle + (s.here.iss.rpt + 1) * (o.head.beats.toNat + 1)
  pending : t.here.mx.pending = s.here.mx.pending ++ [⟨(s.act.timeline 0).i + 1, s.act.cid,
    s.cycle + (s.here.iss.rpt + 1) * (o.head.beats.toNat + 1) +
      s.here.mx.fill s.cycle ((s.act.regs.readA o.ay.toNat).toNat % 65536) - 1, false⟩]
  pool : t.here.pool = s.here.pool
  bstore : t.here.bstore = s.here.bstore
  outside : ∀ n, n ≠ s.cur → t.core n = s.core n

/-- What other slots have not written before an issue they have not written after it. -/
theorem Ctx.engineKeeps.clear_a {s t : State} {n : Nat} {x : Word} (h : (s.act.number 0).engineKeeps t.act)
    (hc : s.clear .e (.a n x)) : t.clear .e (.a n x) := by
  obtain ⟨hseq, -, -, -, hpend⟩ := h
  intro o ho hs heng hslot
  obtain ⟨p, hp, hps, hpe, hpl, heff⟩ := hpend o ho
  rcases heff with heff | ⟨c, heff⟩
  · rw [heff]
    exact hc p hp (by rw [← hps, hs, hseq]; rfl) (by rw [← hpe, ← hpl]; exact heng) (by rw [← hpl]; exact hslot)
  · rw [heff]
    rfl

/-- The registers that an issue advances are those of its streams. -/
theorem Repeat.mem_advance {r : Repeat} {p : MmaPlan} {e : Nat × Word} (h : e ∈ r.advance p) :
    e.1 = r.op.ax.toNat ∨ e.1 = r.op.ay.toNat := by
  rw [Repeat.advance] at h
  split at h
  · rw [List.mem_singleton.mp h]
    exact .inl rfl
  · rcases List.mem_cons.mp h with rfl | h
    · exact .inl rfl
    · rw [List.mem_singleton.mp h]
      exact .inr rfl

/-- The engine after a first issue. -/
def Matrix.firstIssue (m : Matrix) (s : State) (o : EmOp) (entry : Option (Nat × Nat × Nat)) : Matrix :=
  let total := (s.here.iss.rpt + 1) * (o.head.beats.toNat + 1)
  let f := s.here.mx.fill s.cycle ((s.act.regs.readA o.ay.toNat).toNat % 65536)
  { m with
    busyTo := s.cycle + total, sel := none,
    rep := if s.here.iss.rpt = 0 then none else some { s.firstRepeat o entry with count := 1 },
    uses := m.uses ++ emUses o (s.cycle + total - 1) (s.cycle + total + f) s.act.cid,
    pending := m.pending ++ [⟨(s.act.timeline 0).i + 1, s.act.cid, s.cycle + total + f - 1, false⟩] }

/-- The state after a first issue, before its advances. -/
def State.issueOnce (s : State) (o : EmOp) (entry : Option (Nat × Nat × Nat)) (p : MmaPlan) : State :=
  ((s.engineNumber 0).2.onAct fun x => x.mmaIssue s.here (s.firstRepeat o entry) p).onMx fun m => m.firstIssue s o entry

theorem State.mmaFirst_eq (s : State) (o : EmOp) (entry : Option (Nat × Nat × Nat)) (p : MmaPlan) : s.mmaFirst o entry p =
    (((s.firstRepeat o entry).advance p).foldl (fun t e => t.land .e (t.cycle + 1) (.a e.1 e.2))
      (s.issueOnce o entry p)).noteLocal s.act := rfl

theorem State.here_issueOnce (s : State) (o : EmOp) (entry : Option (Nat × Nat × Nat)) (p : MmaPlan) :
    (s.issueOnce o entry p).here = { s.here with
      act := (s.act.number 0).mmaIssue s.here (s.firstRepeat o entry) p, mx := s.here.mx.firstIssue s o entry } := by
  rw [State.issueOnce, State.here_onMx, State.onAct, State.here_onHere, State.engineNumber, State.onAct, State.here_onHere]
  rfl

theorem State.sameOutside_issueOnce (s : State) (o : EmOp) (entry : Option (Nat × Nat × Nat)) (p : MmaPlan) :
    s.sameOutside (s.issueOnce o entry p) :=
  ((s.sameOutside_onAct _).trans (State.sameOutside_onAct _ _)).trans (State.sameOutside_onMx _ _)

theorem State.firstIssue_mmaFirst {s : State} {o : EmOp} (hx : s.clear .e (.a o.ax.toNat 0#32))
    (hy : s.clear .e (.a o.ay.toNat 0#32)) (entry : Option (Nat × Nat × Nat)) (p : MmaPlan) :
    s.FirstIssue (s.mmaFirst o entry p) o entry p := by
  have hhere := s.here_issueOnce o entry p
  have hact : (s.issueOnce o entry p).act = (s.act.number 0).mmaIssue s.here (s.firstRepeat o entry) p := by
    rw [State.act, hhere]
  have hkeeps := (s.act.number 0).engineKeeps_mmaIssue s.here (s.firstRepeat o entry) p
  have hclear : ∀ e ∈ (s.firstRepeat o entry).advance p, (s.issueOnce o entry p).clear .e (.a e.1 e.2) := fun e he => by
    have hc : (s.issueOnce o entry p).clear .e (.a e.1 0#32) := Ctx.engineKeeps.clear_a (by rw [hact]; exact hkeeps)
      ((Repeat.mem_advance he).elim (fun h => h ▸ hx) fun h => h ▸ hy)
    exact State.clear_a hc e.2
  have hflight (e : Eff) : (s.issueOnce o entry p).flight .e (s.cycle + 1) e = s.flight .e (s.cycle + 1) e := by
    rw [State.flight, State.flight, hact, hkeeps.1, hhere]
    rfl
  have hcycle : (s.issueOnce o entry p).cycle = s.cycle := rfl
  obtain ⟨hfinal, hout⟩ := State.flies_foldl_a _ hclear
  simp only [hcycle, hflight, hact, hhere] at hfinal
  have houtside := (s.sameOutside_issueOnce o entry p).trans hout
  rw [State.mmaFirst_eq]
  constructor
  case outside => exact fun n hn => (State.core_noteLocal _ _ _).trans (houtside.core_ne hn)
  case act => rw [State.act, State.here_noteLocal, hfinal]
  case pool => rw [State.here_noteLocal, hfinal]
  case bstore => rw [State.here_noteLocal, hfinal]
  case busyTo =>
    rw [State.here_noteLocal, hfinal]
    rfl
  case pending =>
    rw [State.here_noteLocal, hfinal]
    rfl

end Sys2Proof.Machine
end

section
/-! PROOF. MMA and MMAS at their first issue (R59, R199, R201 to R204, R206, R207). -/

namespace Sys2Proof.Machine

/-- A shutter that is open, or whose target lies in the partition, raises no fault (R206). -/
theorem State.checkTarget_of {s : State} {o : EmOp} (h : 32 ≤ o.acc.toNat → s.act.shutter (o.acc.toNat - 32) = none →
    (s.act.regs.readA o.ax.toNat).toNat / 256 % 32 < s.act.mBound) : s.checkTarget o = s := by
  rw [State.checkTarget]
  split
  · next hc =>
    have hlt : ¬ s.act.mBound ≤ field (s.act.regs.readA o.ax.toNat).toNat 8 5 :=
      Nat.not_le.mpr (h hc.1 (Option.isNone_iff_eq_none.mp hc.2))
    rw [State.checkMatrix, if_neg hlt]
  · rfl

/-- The engine that a matrix command holds (R199). -/
def State.holdEngine (s : State) (beats : Nat) (rep : Option Repeat) : State :=
  s.onMx fun m => { m with busyTo := s.cycle + beats, rep := rep }

theorem State.act_holdEngine (s : State) (beats : Nat) (rep : Option Repeat) : (s.holdEngine beats rep).act = s.act := s.act_onMx _

theorem State.here_holdEngine (s : State) (beats : Nat) (rep : Option Repeat) :
    (s.holdEngine beats rep).here = { s.here with mx := { s.here.mx with busyTo := s.cycle + beats, rep := rep } } := s.here_onMx _

/-- The matrix registers that an MMA or MMAS names (R24): a shutter is none. -/
def mmaNames (o : EmOp) : List (Nat × Nat) :=
  (if o.mode = 3#2 then [(o.acc.toNat, 38), (o.acc.toNat + 5, 38)] else if o.acc.toNat < 32 then [(o.acc.toNat, 38)] else []) ++
    [(o.areg.toNat, 31)]

/-- Is a format entry refused (R66)? -/
def entryRefused (entry : Option (Nat × Nat × Nat)) : Bool :=
  match entry with
  | some e => (entryKind e).isNone
  | none => false

/-- The checks of an MMA or MMAS on its operands (R24, R66). -/
def State.mmaChecks (s : State) (o : EmOp) (entry : Option (Nat × Nat × Nat)) : State :=
  if entryRefused entry = true then (s.matrixNames (mmaNames o)).illegal .e 0 57 else s.matrixNames (mmaNames o)

theorem mmaCommand_eq (o : EmOp) (entry : Option (Nat × Nat × Nat)) (p : MmaPlan) (s : State) : ∃ beats rep,
    mmaCommand o entry (some p) s = matrixCommand o.head beats rep (fun s => s.mmaChecks o entry)
      (fun s => s.unlessTrapped (s.checkTarget o) fun s => s.mmaFirst o entry p) s := ⟨_, _, rfl⟩

/-- An MMA or MMAS that may go on has its first issue. -/
theorem mmaCommand_runs {o : EmOp} {entry : Option (Nat × Nat × Nat)} {p : MmaPlan} {s : State}
    (hg : o.head.guard.holds s.act.regs = true) (hf : s.engineFree) (hn : ∀ e ∈ mmaNames o, e.1 < s.act.mBound)
    (he : ∀ e, entry = some e → (entryKind e).isNone = false)
    (ht : 32 ≤ o.acc.toNat → s.act.shutter (o.acc.toNat - 32) = none →
      (s.act.regs.readA o.ax.toNat).toNat / 256 % 32 < s.act.mBound) :
    ∃ beats rep, mmaCommand o entry (some p) s = .next ((s.holdEngine beats rep).mmaFirst o entry p) := by
  obtain ⟨beats, rep, hcmd⟩ := mmaCommand_eq o entry p s
  have hrefused : entryRefused entry = false := by
    cases entry with
    | none => rfl
    | some e => exact he e rfl
  have hchecks : s.mmaChecks o entry = s := by
    rw [State.mmaChecks, hrefused, if_neg Bool.false_ne_true]
    exact State.matrixNames_of_bound hn
  refine ⟨beats, rep, ?_⟩
  rw [hcmd, matrixCommand_runs hg hf hchecks, ← State.holdEngine,
    State.checkTarget_of (by rw [State.act_holdEngine]; exact ht), State.unlessTrapped, if_pos rfl]

/-- A first issue behind the hold of its engine is one of the state itself. -/
theorem State.FirstIssue.of_holdEngine {s t : State} {beats : Nat} {rep : Option Repeat} {o : EmOp}
    {entry : Option (Nat × Nat × Nat)} {p : MmaPlan} (h : (s.holdEngine beats rep).FirstIssue t o entry p) :
    s.FirstIssue t o entry p := by
  obtain ⟨hact, hbusy, hpend, hpool, hbstore, hout⟩ := h
  have ha := s.act_holdEngine beats rep
  have hh := s.here_holdEngine beats rep
  have hrep : (s.holdEngine beats rep).firstRepeat o entry = s.firstRepeat o entry := by
    rw [State.firstRepeat, State.firstRepeat, ha, hh]
    rfl
  have hflight (due : Nat) (e : Eff) : (s.holdEngine beats rep).flight .e due e = s.flight .e due e := by
    rw [State.flight, State.flight, ha, hh]
  have hissue : ((s.act.number 0).mmaIssue (s.holdEngine beats rep).here (s.firstRepeat o entry) p) =
      (s.act.number 0).mmaIssue s.here (s.firstRepeat o entry) p := by
    rw [hh]
    rfl
  constructor
  case act =>
    rw [ha, hrep, hissue] at hact
    simp only [hflight] at hact
    exact hact
  case busyTo => rw [hbusy, hh]; rfl
  case pending => rw [hpend, ha, hh]; rfl
  case pool => rw [hpool, hh]
  case bstore => rw [hbstore, hh]
  case outside => exact fun n hn => (hout n hn).trans ((s.sameOutside_onMx _).core_ne hn)

/-! ## The advances (R201) -/

theorem ofNat_readA_add (r : Regs) (n k : Nat) : BitVec.ofNat 32 ((r.readA n).toNat + 1 * k) = r.readA n + BitVec.ofNat 32 k := by
  rw [Nat.one_mul, BitVec.ofNat_add, BitVec.ofNat_toNat, BitVec.setWidth_eq]

/-- The address registers after a first issue. -/
theorem State.advance_firstRepeat (s : State) (o : EmOp) (entry : Option (Nat × Nat × Nat)) (p : MmaPlan) :
    (s.firstRepeat o entry).advance p = if o.ax = o.ay then
        [(o.ax.toNat, s.act.regs.readA o.ax.toNat + BitVec.ofNat 32 (p.c + p.d))]
      else [(o.ax.toNat, s.act.regs.readA o.ax.toNat + BitVec.ofNat 32 p.c),
        (o.ay.toNat, s.act.regs.readA o.ay.toNat + BitVec.ofNat 32 p.d)] := by
  simp only [Repeat.advance, State.firstRepeat, BitVec.toNat_inj, Nat.zero_add, ofNat_readA_add]

/-! ## What the first issue leaves (R201 to R207) -/

/-- The premises that the clauses on a first issue share. -/
structure State.MayIssue (s : State) (o : EmOp) (i : Instr) (a b sb : Nat) : Prop where
  instr : (i = .mma o ∧ o.mode.toNat = 0) ∨ (i = .mmas o ∧ (o.mode.toNat = 1 ∨ o.mode.toNat = 2))
  guard : o.head.guard.holds s.act.regs = true
  free : s.engineFree
  rows : s.act.noEngineRows
  entry : s.act.fmtEntry = (a, b, sb)
  base : a ≤ 3 ∨ sb ≠ 255
  fits : matrixFits o.mode.toNat a b (o.head.beats.toNat + 1)
  areg : o.areg.toNat < s.act.mBound
  ax : s.clear .e (.a o.ax.toNat 0#32)
  ay : s.clear .e (.a o.ay.toNat 0#32)

theorem State.MayIssue.mode {s : State} {o : EmOp} {i : Instr} {a b sb : Nat} (h : s.MayIssue o i a b sb) : o.mode.toNat ≤ 2 := by
  rcases h.instr with h | h <;> omega

/-- The issue of an MMA or MMAS, its target in the partition. -/
theorem State.MayIssue.firstIssue {s : State} {o : EmOp} {i : Instr} {a b sb : Nat} (h : s.MayIssue o i a b sb)
    (hacc : o.acc.toNat < 32 → o.acc.toNat < s.act.mBound)
    (ht : 32 ≤ o.acc.toNat → s.act.shutter (o.acc.toNat - 32) = none →
      (s.act.regs.readA o.ax.toNat).toNat / 256 % 32 < s.act.mBound) :
    ∃ t, exec i s = .next t ∧
      s.FirstIssue t o (some (a, b, sb)) ((s.firstRepeat o (some (a, b, sb))).plan a b) := by
  have hmode : o.mode ≠ 3#2 := fun h3 => by
    have := h.mode
    rw [h3] at this
    exact absurd this (by decide)
  have hnames : ∀ e ∈ mmaNames o, e.1 < s.act.mBound := by
    rw [mmaNames, if_neg hmode]
    intro e he
    rcases List.mem_append.mp he with he | he
    · split at he
      · next hlt => rw [List.mem_singleton.mp he]; exact hacc hlt
      · nomatch he
    · rw [List.mem_singleton.mp he]
      exact h.areg
  have hexec : exec i s = mmaCommand o (some s.act.fmtEntry) (mmaPlan o s.act.fmtEntry) s := by
    rcases h.instr with ⟨rfl, -⟩ | ⟨rfl, -⟩ <;> rfl
  obtain ⟨beats, rep, hrun⟩ := mmaCommand_runs (entry := some (a, b, sb))
    (p := (s.firstRepeat o (some (a, b, sb))).plan a b) h.guard h.free hnames
    (fun e he => by rw [← Option.some.inj he]; exact (entryKind_fitting h.fits).2 h.base) ht
  refine ⟨_, ?_, State.FirstIssue.of_holdEngine (beats := beats) (rep := rep) (State.firstIssue_mmaFirst ?_ ?_ _ _)⟩
  · rw [hexec, h.entry, mmaPlan_fitting h.mode h.fits]
    exact hrun
  · rw [State.clear, State.act_holdEngine]
    exact h.ax
  · rw [State.clear, State.act_holdEngine]
    exact h.ay

end Sys2Proof.Machine
end

section
/-! PROOF. Matrix accumulation: the clauses of the first issue and of a repeat (R59, R199 to R207). -/

namespace Sys2Proof.Machine

/-! ## What any first issue leaves -/

/-- The context, the engine and the advances after a first issue. -/
def State.wentOn (s t : State) (o : EmOp) (a b : Nat) : Prop :=
  let x := s.act
  let r := x.regs
  let beats := o.head.beats.toNat + 1
  let mode := o.mode.toNat
  let total := (s.here.iss.rpt + 1) * beats
  { t.act.regs with m := r.m } = r ∧ t.here.pool = s.here.pool ∧ t.here.bstore = s.here.bstore ∧
  t.act.timeline 0 = ⟨(x.timeline 0).i + 1, (x.timeline 0).out ++ [(x.timeline 0).i + 1]⟩ ∧
  t.here.mx.busyTo = s.cycle + total ∧
  (∃ p ∈ t.here.mx.pending, ∃ f, p.num = (x.timeline 0).i + 1 ∧ p.cid = x.cid ∧ p.drain = false ∧
    p.done = s.cycle + total + f - 1 ∧ (f = 4 ∨ f = 12) ∧
    (f = 4 ↔ ∃ c, s.here.mx.sel = some ((r.readA o.ay.toNat).toNat % 65536, c) ∧ c < s.cycle ∧ s.cycle ≤ c + 64)) ∧
  (o.ax ≠ o.ay →
    s.flight .e (s.cycle + 1) (.a o.ax.toNat (r.readA o.ax.toNat + BitVec.ofNat 32 (readsOf mode a b beats))) ∈ t.act.pend ∧
    s.flight .e (s.cycle + 1) (.a o.ay.toNat (r.readA o.ay.toNat + BitVec.ofNat 32 (linesOf mode a b beats))) ∈ t.act.pend) ∧
  (o.ax = o.ay → s.flight .e (s.cycle + 1) (.a o.ax.toNat (r.readA o.ax.toNat +
    BitVec.ofNat 32 (readsOf mode a b beats + linesOf mode a b beats))) ∈ t.act.pend) ∧
  ∀ n, n ≠ s.cur → t.core n = s.core n

theorem State.FirstIssue.wentOn {s t : State} {o : EmOp} {a b sb : Nat}
    (h : s.FirstIssue t o (some (a, b, sb)) ((s.firstRepeat o (some (a, b, sb))).plan a b)) : s.wentOn t o a b := by
  obtain ⟨hact, hbusy, hpending, hpool, hbstore, hout⟩ := h
  obtain ⟨-, -, htl, -⟩ := (s.act.number 0).engineKeeps_mmaIssue s.here (s.firstRepeat o (some (a, b, sb)))
    ((s.firstRepeat o (some (a, b, sb))).plan a b)
  have hadvance := s.advance_firstRepeat o (some (a, b, sb)) ((s.firstRepeat o (some (a, b, sb))).plan a b)
  have hfill := s.here.mx.fill_eq s.cycle ((s.act.regs.readA o.ay.toNat).toNat % 65536)
  refine ⟨by rw [hact]; exact (s.act.number 0).regs_mmaIssue _ _ _, hpool, hbstore, ?_, hbusy, ?_, fun hne => ?_, fun heq => ?_, hout⟩
  · rw [hact, ← Ctx.timeline_number, Ctx.timeline, Ctx.timeline, ← htl]
  · exact ⟨_, by rw [hpending]; exact List.mem_append_right _ (List.mem_singleton.mpr rfl), _, rfl, rfl, rfl, rfl, hfill.1, hfill.2⟩
  · rw [if_neg hne] at hadvance
    rw [hact, hadvance]
    exact ⟨List.mem_append_right _ List.mem_cons_self, List.mem_append_right _ (List.mem_cons_of_mem _ List.mem_cons_self)⟩
  · rw [if_pos heq] at hadvance
    rw [hact, hadvance]
    exact List.mem_append_right _ List.mem_cons_self

/-! ## The accumulator after a first issue -/

/-- The sum that a first issue puts in an accumulator element. -/
def State.matrixSum (s : State) (o : EmOp) (a b m j : Nat) : Word → Word :=
  Machine.matrixSum o.mode.toNat a b (o.head.beats.toNat + 1) (fun t => s.act.regs.aRead o (s.act.regs.readA o.ax.toNat).toNat t m)
    (fun t => s.here.bRead (s.act.regs.readA o.ay.toNat).toNat t j)

theorem State.sum_firstRepeat (s : State) (o : EmOp) (entry : Option (Nat × Nat × Nat)) (a b m j : Nat) :
    (s.firstRepeat o entry).sum (s.act.number 0) s.here a b m j = s.matrixSum o a b m j := by
  simp only [Repeat.sum, State.firstRepeat, Nat.zero_mul, Nat.add_zero]
  rfl

theorem State.fresh_firstRepeat (s : State) (o : EmOp) (entry : Option (Nat × Nat × Nat)) :
    (s.firstRepeat o entry).fresh = o.ovr := by
  rw [Repeat.fresh, State.firstRepeat]
  simp

theorem State.MayIssue.register {s : State} {o : EmOp} {i : Instr} {a b sb : Nat} (h : s.MayIssue o i a b sb)
    (hwf : Store.wf 0#32 s.act.regs.m = true) (hacc : o.acc.toNat < 32) (hbound : o.acc.toNat < s.act.mBound) :
    ∃ t, exec i s = .next t ∧ s.wentOn t o a b ∧ ∀ n m j, m < 64 → j < 64 → t.act.regs.readM n m j =
      if n = o.acc.toNat then s.matrixSum o a b m j (if o.ovr then 0#32 else s.act.regs.readM n m j) else s.act.regs.readM n m j := by
  obtain ⟨t, hexec, hissue⟩ := h.firstIssue (fun _ => hbound) fun h32 => absurd h32 (by omega)
  refine ⟨t, hexec, hissue.wentOn, fun n m j hm hj => ?_⟩
  have hread := Ctx.readM_mmaIssue (x := s.act.number 0) (core := s.here) (r := s.firstRepeat o (some (a, b, sb))) h.rows rfl
    h.mode h.fits hacc hwf n hm hj
  rw [hissue.act]
  refine hread.trans ?_
  have hop : (s.firstRepeat o (some (a, b, sb))).op = o := rfl
  rw [State.sum_firstRepeat, State.fresh_firstRepeat, hop]
  by_cases hn : n = o.acc.toNat
  · rw [if_pos hn, if_pos hn, hn]
    rfl
  · rw [if_neg hn, if_neg hn]
    rfl

theorem State.MayIssue.shutter {s : State} {o : EmOp} {i : Instr} {a b sb : Nat} (h : s.MayIssue o i a b sb)
    (hacc : 32 ≤ o.acc.toNat) (ht : s.act.shutter (o.acc.toNat - 32) = none →
      (s.act.regs.readA o.ax.toNat).toNat / 256 % 32 < s.act.mBound) {k : Shutter}
    (hk : (s.firstRepeat o (some (a, b, sb))).shutterOf (s.act.number 0) ((s.firstRepeat o (some (a, b, sb))).plan a b) = k)
    (hwf : Store.wf 0#32 k.cells = true) :
    ∃ t k', exec i s = .next t ∧ s.wentOn t o a b ∧ t.act.regs = s.act.regs ∧ t.act.shutter (o.acc.toNat - 32) = some k' ∧
      k'.target = k.target ∧ ∀ m j, m < 64 → j < 64 → Store.get 0#32 k'.cells (64 * m + j) =
        s.matrixSum o a b m j (if o.ovr then 0#32 else Store.get 0#32 k.cells (64 * m + j)) := by
  obtain ⟨t, hexec, hissue⟩ := h.firstIssue (fun hlt => absurd hlt (by omega)) fun _ => ht
  obtain ⟨hregs, k', hk', htarget, hcells⟩ := Ctx.shutter_mmaIssue (x := s.act.number 0) (core := s.here)
    (r := s.firstRepeat o (some (a, b, sb))) h.rows rfl h.mode h.fits hacc
  refine ⟨t, k', hexec, hissue.wentOn, by rw [hissue.act]; exact hregs, by rw [hissue.act]; exact hk', by rw [htarget, hk],
    fun m j hm hj => ?_⟩
  rw [hcells (by rw [hk]; exact hwf) m j hm hj, State.sum_firstRepeat, State.fresh_firstRepeat, hk]

/-! ## A repeat (R79, R201) -/

theorem Core.ctx_onCtx {c : Core} {cid : Bool} {f : Ctx → Ctx} (h : ∀ x, (f x).cid = x.cid) :
    (c.onCtx cid f).ctx cid = f (c.ctx cid) := by
  by_cases hc : c.act.cid = cid
  · rw [Core.onCtx, Core.ctx, Core.ctx, if_pos hc, if_pos hc, if_pos ((h _).trans hc)]
  · rw [Core.onCtx, Core.ctx, Core.ctx, if_neg hc, if_neg hc, if_neg hc]

theorem Core.pool_onCtx (c : Core) (cid : Bool) (f : Ctx → Ctx) : (c.onCtx cid f).pool = c.pool := by
  rw [Core.onCtx]
  split <;> rfl

/-- What the engine puts in flight changes nothing else of a context. -/
theorem Ctx.foldl_landEngine (seq pc due : Nat) (l : List (Nat × Word)) (x : Ctx) : ∃ m,
    l.foldl (fun x e => x.landEngine seq pc due (.a e.1 e.2)) x = { x with pend := x.pend ++ m } := by
  induction l generalizing x with
  | nil => exact ⟨[], by rw [List.append_nil]; rfl⟩
  | cons e l ih =>
    obtain ⟨m, hm⟩ := ih (x.landEngine seq pc due (.a e.1 e.2))
    exact ⟨⟨due, seq, .e, pc, true, true, .a e.1 e.2⟩ :: m, by rw [List.foldl_cons, hm, Ctx.landEngine, List.append_assoc]; rfl⟩

/-- A repeat's issue leaves the context of its issue, but for what is in flight. -/
theorem Ctx.repeatIssue_spec (x : Ctx) (core : Core) (cycle : Nat) (r : Repeat) (p : MmaPlan) :
    (x.repeatIssue core cycle r p).regs = (x.mmaIssue core r p).regs ∧ (x.repeatIssue core cycle r p).cid = x.cid ∧
      ∀ h, (x.repeatIssue core cycle r p).shutter h = (x.mmaIssue core r p).shutter h := by
  obtain ⟨m, hm⟩ := Ctx.foldl_landEngine r.seq r.pc (cycle + 1) (r.advance p) (x.mmaIssue core r p)
  obtain ⟨-, hcid, -⟩ := x.engineKeeps_mmaIssue core r p
  rw [Ctx.repeatIssue, hm]
  exact ⟨rfl, hcid, fun _ => rfl⟩

/-- The core after a repeat's issue. -/
def Core.repeated (c : Core) (cycle : Nat) (r : Repeat) (p : MmaPlan) : Core :=
  { c.onCtx r.cid fun x => x.repeatIssue c cycle r p with
    mx := { (c.onCtx r.cid fun x => x.repeatIssue c cycle r p).mx with rep := some { r with
      left := r.left - 1, count := r.count + 1, at_ := r.at_ + (r.op.head.beats.toNat + 1) } } }

theorem exec_mmaRepeat {s : State} {core : Nat} {r : Repeat} {a b sb : Nat} (hcore : core < 512)
    (hrep : (s.core core).mx.rep = some r) (hleft : 0 < r.left) (hat : r.at_ ≤ s.cycle) (he : r.entry = some (a, b, sb))
    (hm : r.op.mode.toNat ≤ 2) (hfit : matrixFits r.op.mode.toNat a b (r.op.head.beats.toNat + 1)) :
    exec (.mmaRepeat core) s = .next (s.onCore core fun c => c.repeated s.cycle r (r.plan a b)) := by
  have hexec : exec (.mmaRepeat core) s = execMmaRepeat core s := rfl
  have hdue : 0 < r.left ∧ r.at_ ≤ s.cycle := ⟨hleft, hat⟩
  rw [hexec, execMmaRepeat, ofCore, if_neg (by omega)]
  simp only [hrep, he, mmaPlan_fitting hm hfit, if_pos hdue, Core.repeated]
  rfl

theorem Core.ctx_repeated (c : Core) (cycle : Nat) (r : Repeat) (p : MmaPlan) :
    (c.repeated cycle r p).ctx r.cid = (c.ctx r.cid).repeatIssue c cycle r p := by
  have hcid (x : Ctx) : (x.repeatIssue c cycle r p).cid = x.cid := by
    obtain ⟨-, hcid, -⟩ := x.repeatIssue_spec c cycle r p
    exact hcid
  exact Eq.trans rfl (Core.ctx_onCtx (c := c) (cid := r.cid) hcid)

/-- Settles O43. One output of an issue is the sum over its reads (`mmaElement_eq`), and an issue writes all 4,096 outputs of
its accumulator; a repeat is an issue further on in the streams. -/
theorem matrixAccumulation : Obligations.MatrixAccumulation := by
  unfold Obligations.MatrixAccumulation
  refine ⟨fun o i s a b sb => ?_, fun s core p a b sb hcore hrep hleft hat hcount he => ?_⟩
  · intro x r beats mode acc x0 y0 total hi hg hf hrows hwf hentry hbase hfit hareg hax hay sum goes
    have h : s.MayIssue o i a b sb := ⟨hi, hg, hf, hrows, hentry, hbase, hfit, hareg, hax, hay⟩
    refine ⟨fun hacc hbound => ?_, fun hacc => ?_⟩
    · obtain ⟨t, hexec, hwent, hread⟩ := h.register hwf hacc hbound
      refine ⟨t, ⟨hexec, hwent⟩, fun m j hm hj => ?_, fun n m j hn hm hj => ?_⟩
      · rw [hread acc m j hm hj, if_pos rfl]
        rfl
      · rw [hread n m j hm hj, if_neg hn]
    · intro target
      have h32 : 32 ≤ o.acc.toNat := by
        have : o.acc.toNat = 32 ∨ o.acc.toNat = 33 := hacc
        omega
      refine ⟨fun hnone ht => ?_, fun k hk hwfk => ?_⟩
      · obtain ⟨htarget, hcells, hopen⟩ := Repeat.shutterOf_none (r := s.firstRepeat o (some (a, b, sb))) (x := s.act.number 0)
          (p := (s.firstRepeat o (some (a, b, sb))).plan a b) hnone
        obtain ⟨t, k, hexec, hwent, hregs, hk, hkt, hsum⟩ := h.shutter h32 (fun _ => ht) rfl hcells
        have htarget' : ((s.firstRepeat o (some (a, b, sb))).shutterOf (s.act.number 0)
            ((s.firstRepeat o (some (a, b, sb))).plan a b)).target = target := by
          rw [htarget, show (s.firstRepeat o (some (a, b, sb))).count = 0 from rfl, Nat.zero_mul, Nat.add_zero]
          rfl
        refine ⟨t, k, ⟨hexec, hwent⟩, hregs, hk, hkt.trans htarget', fun m j hm hj => ?_⟩
        rw [hsum m j hm hj, hopen m j hm hj, htarget']
        rfl
      · obtain ⟨t, k', hexec, hwent, hregs, hk', hkt, hsum⟩ := h.shutter h32 (fun hnone => nomatch hk.symm.trans hnone)
          (Repeat.shutterOf_some hk) hwfk
        exact ⟨t, k', ⟨hexec, hwent⟩, hregs, hk', hkt, hsum⟩
  · intro o c x beats mode acc k0 l0 sum hrows hwf hm hfit hacc
    have hfresh : p.fresh = false := by
      rw [Repeat.fresh, decide_eq_false (by omega), Bool.and_false]
    obtain ⟨hregs, -, hshut⟩ := x.repeatIssue_spec c s.cycle p (p.plan a b)
    have hctx := c.ctx_repeated s.cycle p (p.plan a b)
    have hcore' : (s.onCore core fun c => c.repeated s.cycle p (p.plan a b)).core core = c.repeated s.cycle p (p.plan a b) :=
      s.core_onCore core _
    refine ⟨_, exec_mmaRepeat hcore hrep hleft hat he hm hfit, ?_⟩
    rw [hcore', hctx]
    refine ⟨rfl, fun h32 n m j hm64 hj64 => ?_, fun h32 => ?_, by rw [hregs]; exact x.regs_mmaIssue c p (p.plan a b), c.pool_onCtx _ _, s.onlyCore_onCore _ _⟩
    · have hread := Ctx.readM_mmaIssue (core := c) hrows he hm hfit h32 hwf n hm64 hj64
      rw [hregs, hread, hfresh]
      by_cases hn : n = acc
      · rw [if_pos hn, if_pos hn, hn]
        rfl
      · rw [if_neg hn, if_neg hn]
    · obtain ⟨hkeep, k, hk, htarget, hcells⟩ := Ctx.shutter_mmaIssue (core := c) hrows he hm hfit h32
      rw [hfresh] at hcells
      refine ⟨hregs.trans hkeep, k, (hshut _).trans hk, fun h hh hwfh => ?_, fun hnone => ?_⟩
      · rw [Repeat.shutterOf_some hh] at htarget hcells
        exact ⟨htarget, hcells hwfh⟩
      · obtain ⟨hplace, hwfk, hopen⟩ := Repeat.shutterOf_none (p := p.plan a b) hnone
        refine ⟨htarget.trans hplace, fun m j hm64 hj64 => ?_⟩
        rw [hcells hwfk m j hm64 hj64, if_neg Bool.false_ne_true, hopen m j hm64 hj64, htarget]
        rfl

end Sys2Proof.Machine
end

section
/-! PROOF. Split MMA: the 160-bit accumulator and the exponent word of every output (R63, R205). -/

namespace Sys2Proof.Machine

/-! ## The plan (R205) -/

/-- The model lists the kept pairs in the order of the statement. -/
theorem splitPairs_eq {sl : BitVec 2} (h : sl ≠ 3#2) (tri : Bool) : splitPairs (6 + sl.toNat) tri = keptPairs (6 + sl.toNat) tri := by
  revert h
  revert sl tri
  decide

theorem length_keptPairs {sl : BitVec 2} (h : sl ≠ 3#2) (tri : Bool) :
    let n := 6 + sl.toNat
    (keptPairs n tri).length = if tri then n * (n + 1) / 2 else n * n := by
  revert h
  revert sl tri
  decide

theorem lt_of_mem_keptPairs {sl : BitVec 2} (h : sl ≠ 3#2) (tri : Bool) :
    ∀ e ∈ keptPairs (6 + sl.toNat) tri, e.1 < 8 ∧ e.2 < 8 := by
  revert h
  revert sl tri
  decide

/-- The counts of a split issue of k positions. -/
def splitCounts (k : Nat) : MmaPlan := ⟨1 + 2 * k, 1 + 2 * k, k, k, 1⟩

theorem splitPlan_eq {o : EmOp} (hsl : o.sl ≠ 3#2) (h : (o.head.beats.toNat + 1) %
    (if o.tri then (6 + o.sl.toNat) * (6 + o.sl.toNat + 1) / 2 else (6 + o.sl.toNat) * (6 + o.sl.toNat)) = 0) :
    splitPlan o = some (splitCounts ((o.head.beats.toNat + 1) / (keptPairs (6 + o.sl.toNat) o.tri).length)) := by
  rw [splitPlan, splitPairs_eq hsl, length_keptPairs hsl]
  exact if_pos h

/-! ## The number of five words (R63) -/

theorem toSigned_emod (x n : Nat) : toSigned x n % (2 ^ n : Int) = (x : Int) % 2 ^ n := by
  rw [toSigned]
  split
  · simp
  · simp

/-- The first m words of a number. -/
theorem sum_words (n m : Nat) : ((List.range m).map fun w => (BitVec.ofNat 32 (n / 2 ^ (32 * w))).toNat * 2 ^ (32 * w)).sum =
    n % 2 ^ (32 * m) := by
  induction m with
  | zero => simp [Nat.mod_one]
  | succ m ih =>
    rw [List.range_succ, List.map_append, List.sum_append, ih, List.map_singleton, List.sum_singleton, BitVec.toNat_ofNat, pow_mul,
      pow_mul, Nat.mod_pow_succ (b := 2 ^ 32), Nat.mul_comm]

theorem ofWords_eq_sum (m : Nat) (f : Nat → Word) :
    ofWords 32 ((List.range m).map fun w => (f w).toNat) = ((List.range m).map fun w => (f w).toNat * 2 ^ (32 * w)).sum := by
  induction m generalizing f with
  | zero => rfl
  | succ m ih =>
    have hplace (w : Nat) : (f (w + 1)).toNat * 2 ^ (32 * (w + 1)) = 2 ^ 32 * ((f (w + 1)).toNat * 2 ^ (32 * w)) := by ring
    rw [List.range_succ_eq_map, List.map_cons, List.map_cons, List.map_map, List.map_map, List.sum_cons, ofWords,
      Nat.mod_eq_of_lt (f 0).isLt, Nat.mul_zero, pow_zero, Nat.mul_one]
    refine congrArg _ (Eq.trans (congrArg _ (ih fun w => f (w + 1))) ?_)
    rw [← List.sum_map_mul_left]
    exact congrArg List.sum (List.map_congr_left fun w _ => (hplace w).symm)

theorem splitAcc_eq (r : Regs) (c i j : Nat) : splitAcc r c i j = toSigned (r.splitBits c i j) 160 := by
  rw [splitAcc, ofWords_eq_sum 5 fun w => r.readM (c + w) i j, Regs.splitBits]

/-! ## What a split issue adds (R63, R205) -/

/-- A slice of an operand, as the model reads it. -/
theorem splitSlice_eq {rows : List (List Word)} {rd : Nat → Word} {i kc k n : Nat}
    (h : ∀ t, t < 1 + 2 * kc → nth0 (rows.getD t []) i = rd t) (hk : k < kc) (hn : n < 8) :
    splitSlice rows i k n = signedSlice rd k n := by
  have hslice := codeInt_eq (c := 0) (by decide) (elemOf_lt 8 (n % 4) (rd (1 + 2 * k + n / 4)))
  rw [splitSlice, h _ (by omega), signedSlice, ← hslice]
  rfl

/-- The products of the kept pairs, weighted by their places. -/
def keptSum (pairs : List (Nat × Nat)) (kc : Nat) (rd ln : Nat → Word) : Int :=
  ((List.range kc).map fun k => (pairs.map fun e => signedSlice rd k e.1 * signedSlice ln k e.2 * 2 ^ (98 - 7 * (e.1 + e.2))).sum).sum

theorem splitSum_eq {pairs : List (Nat × Nat)} {reads lines : List (List Word)} {rd ln : Nat → Word} {i j kc : Nat}
    (hpairs : ∀ e ∈ pairs, e.1 < 8 ∧ e.2 < 8) (hrd : ∀ t, t < 1 + 2 * kc → nth0 (reads.getD t []) i = rd t)
    (hln : ∀ t, t < 1 + 2 * kc → nth0 (lines.getD t []) j = ln t) : splitSum pairs reads lines kc i j = keptSum pairs kc rd ln := by
  refine congrArg List.sum (List.map_congr_left fun k hk => congrArg List.sum (List.map_congr_left fun e he => ?_))
  have hk := List.mem_range.mp hk
  rw [splitSlice_eq hrd hk (hpairs e he).1, splitSlice_eq hln hk (hpairs e he).2]

/-! ## The six words of an output (R205) -/

/-- The exponent word after an issue. -/
def splitExponent (fresh : Bool) (x a b : Word) : Word :=
  let e := (a.toNat % 65536 + b.toNat % 65536) % 65536
  let special := decide (a.toNat % 65536 = 0x7FFF) || decide (b.toNat % 65536 = 0x7FFF)
  if fresh then BitVec.ofNat 32 (e + if special then 65536 else 0)
  else if special = true ∨ x.toNat % 65536 ≠ e then x ||| 0x10000#32 else x

/-- Word w of an output after an issue: five of the number, then the exponent word. -/
def splitWord (r : Regs) (c : Nat) (fresh : Bool) (pairs : List (Nat × Nat)) (kc : Nat) (rd ln : Nat → Word) (i j w : Nat) : Word :=
  if w < 5 then BitVec.ofNat 32 (wrapN ((if fresh then 0 else splitAcc r c i j) + keptSum pairs kc rd ln) 160 / 2 ^ (32 * w))
  else splitExponent fresh (r.readM (c + 5) i j) (rd 0) (ln 0)

theorem splitElement_eq {r : Regs} {c : Nat} {fresh : Bool} {pairs : List (Nat × Nat)} {reads lines : List (List Word)}
    {rd ln : Nat → Word} {i j kc : Nat} (hpairs : ∀ e ∈ pairs, e.1 < 8 ∧ e.2 < 8)
    (hrd : ∀ t, t < 1 + 2 * kc → nth0 (reads.getD t []) i = rd t) (hln : ∀ t, t < 1 + 2 * kc → nth0 (lines.getD t []) j = ln t) :
    splitElement r c fresh pairs reads lines kc i j =
      (List.range 6).map fun w => (mKey (c + w) i j, splitWord r c fresh pairs kc rd ln i j w) := by
  have hexp : (if fresh then BitVec.ofNat 32 (((rd 0).toNat % 65536 + (ln 0).toNat % 65536) % 65536 +
      65536 * b2n (decide ((rd 0).toNat % 65536 = 0x7FFF) || decide ((ln 0).toNat % 65536 = 0x7FFF)))
    else if ((decide ((rd 0).toNat % 65536 = 0x7FFF) || decide ((ln 0).toNat % 65536 = 0x7FFF)) ||
      decide ((r.readM (c + 5) i j).toNat % 65536 ≠ ((rd 0).toNat % 65536 + (ln 0).toNat % 65536) % 65536)) = true then
      r.readM (c + 5) i j ||| 0x10000#32 else r.readM (c + 5) i j) = splitExponent fresh (r.readM (c + 5) i j) (rd 0) (ln 0) := by
    rw [splitExponent]
    simp only [b2n, mul_ite, Nat.mul_one, Nat.mul_zero, Bool.or_eq_true, decide_eq_true_eq]
  have hfield (x : Word) : field x.toNat 0 16 = x.toNat % 65536 := by
    rw [field, pow_zero, Nat.div_one]
    rfl
  rw [splitElement, hrd 0 (by omega), hln 0 (by omega), splitSum_eq hpairs hrd hln]
  simp only [hfield]
  rw [hexp, List.range_succ (n := 5), List.map_append, List.map_singleton]
  refine congrArg₂ (· ++ ·) (List.map_congr_left fun w hw => ?_) (by rw [splitWord, if_neg (by decide)])
  rw [splitWord, if_pos (List.mem_range.mp hw)]

/-! ## The cells of an issue -/

/-- The cells of all outputs: word w of output (i, j) under its key. -/
theorem splitRows_eq {o : EmOp} {r : Regs} {fresh : Bool} {kc : Nat} {reads lines : List (List Word)} {rd ln : Nat → Nat → Word}
    (hsl : o.sl ≠ 3#2) (hrd : ∀ i, i < 64 → ∀ t, t < 1 + 2 * kc → nth0 (reads.getD t []) i = rd i t)
    (hln : ∀ j, j < 64 → ∀ t, t < 1 + 2 * kc → nth0 (lines.getD t []) j = ln j t) :
    splitRows o r fresh kc reads lines = (List.range (64 * 384)).map fun k =>
      (mKey (o.acc.toNat + k % 384 % 6) (k / 384) (k % 384 / 6), splitWord r o.acc.toNat fresh (keptPairs (6 + o.sl.toNat) o.tri) kc
        (rd (k / 384)) (ln (k % 384 / 6)) (k / 384) (k % 384 / 6) (k % 384 % 6)) := by
  have hrow (i : Nat) (hi : i ∈ List.range 64) : ((List.range 64).map fun j => splitElement r o.acc.toNat fresh
      (keptPairs (6 + o.sl.toNat) o.tri) reads lines kc i j).flatten = (List.range 384).map fun q =>
      (mKey (o.acc.toNat + q % 6) i (q / 6), splitWord r o.acc.toNat fresh (keptPairs (6 + o.sl.toNat) o.tri) kc
        (rd i) (ln (q / 6)) i (q / 6) (q % 6)) := by
    refine (congrArg List.flatten (List.map_congr_left fun j hj => splitElement_eq (lt_of_mem_keptPairs hsl o.tri)
      (hrd i (List.mem_range.mp hi)) (hln j (List.mem_range.mp hj)))).trans ?_
    exact flatten_map_range (fun j w => (mKey (o.acc.toNat + w) i j, splitWord r o.acc.toNat fresh
      (keptPairs (6 + o.sl.toNat) o.tri) kc (rd i) (ln j) i j w)) 64 6
  rw [splitRows, splitPairs_eq hsl]
  refine (congrArg List.flatten (List.map_congr_left hrow)).trans ?_
  exact flatten_map_range (fun i q => (mKey (o.acc.toNat + q % 6) i (q / 6), splitWord r o.acc.toNat fresh
    (keptPairs (6 + o.sl.toNat) o.tri) kc (rd i) (ln (q / 6)) i (q / 6) (q % 6))) 64 384

/-- A table of the six words of 64 rows and columns, put into the matrix registers. -/
theorem get_setWords_six {t : Store Word} (h : Store.wf 0#32 t = true) (c : Nat) (f : Nat → Nat → Nat → Word) (n : Nat) {i j : Nat}
    (hi : i < 64) (hj : j < 64) : Store.get 0#32 (setWords t ((List.range (64 * 384)).map fun k =>
      (mKey (c + k % 384 % 6) (k / 384) (k % 384 / 6), f (k / 384) (k % 384 / 6) (k % 384 % 6)))) (mKey n i j) =
      if c ≤ n ∧ n ≤ c + 5 then f i j (n - c) else Store.get 0#32 t (mKey n i j) := by
  have hkeys : ((List.range (64 * 384)).map fun k =>
      (mKey (c + k % 384 % 6) (k / 384) (k % 384 / 6), f (k / 384) (k % 384 / 6) (k % 384 % 6))).map (fun e => e.1) =
      (List.range (64 * 384)).map fun k => mKey (c + k % 384 % 6) (k / 384) (k % 384 / 6) := by
    rw [List.map_map]
    rfl
  split
  · next hn =>
    refine get_setWords_of_mem h ?_ (List.mem_map.mpr ⟨384 * i + 6 * j + (n - c), List.mem_range.mpr (by omega), ?_⟩)
    · rw [hkeys]
      refine List.Nodup.map_on (fun k hk k' hk' heq => ?_) List.nodup_range
      have hk := List.mem_range.mp hk
      have hk' := List.mem_range.mp hk'
      obtain ⟨hw, hi, hj⟩ := mKey_inj (by omega) (by omega) (by omega) (by omega) heq
      omega
    · rw [show (384 * i + 6 * j + (n - c)) / 384 = i by omega, show (384 * i + 6 * j + (n - c)) % 384 / 6 = j by omega,
        show (384 * i + 6 * j + (n - c)) % 384 % 6 = n - c by omega, show c + (n - c) = n by omega]
  · next hn =>
    refine get_setWords_of_notMem h ?_
    rw [hkeys, List.mem_map]
    rintro ⟨k, hk, heq⟩
    have hk := List.mem_range.mp hk
    obtain ⟨hw, -, -⟩ := mKey_inj (by omega) (by omega) hi hj heq
    omega

/-! ## One split issue -/

/-- Word w of output (i, j) after the first issue of a split MMA. -/
def State.splitWord (s : State) (o : EmOp) (kc i j w : Nat) : Word :=
  Machine.splitWord s.act.regs o.acc.toNat o.ovr (keptPairs (6 + o.sl.toNat) o.tri) kc
    (fun t => s.act.regs.aRead o (s.act.regs.readA o.ax.toNat).toNat t i)
    (fun t => s.here.bRead (s.act.regs.readA o.ay.toNat).toNat t j) i j w

theorem State.readM_splitIssue {s : State} {o : EmOp} (hrows : s.act.noEngineRows) (hwf : Store.wf 0#32 s.act.regs.m = true)
    (hsl : o.sl ≠ 3#2) (kc n : Nat) {i j : Nat} (hi : i < 64) (hj : j < 64) :
    ((s.act.number 0).mmaIssue s.here (s.firstRepeat o none) (splitCounts kc)).regs.readM n i j =
      if o.acc.toNat ≤ n ∧ n ≤ o.acc.toNat + 5 then s.splitWord o kc i j (n - o.acc.toNat) else s.act.regs.readM n i j := by
  have hregs : (s.act.number 0).engineRegs = s.act.regs := Ctx.engineRegs_eq (x := s.act.number 0) hrows
  have hrd : ∀ i, i < 64 → ∀ t, t < 1 + 2 * kc → nth0 (((List.range (1 + 2 * kc)).map fun t => s.act.regs.readMDir o.areg.toNat
      o.dir.toNat (((s.act.regs.readA o.ax.toNat).toNat + t) % 64)).getD t []) i =
      s.act.regs.aRead o (s.act.regs.readA o.ax.toNat).toNat t i := fun i hi t ht => by
    rw [getD_map_range _ _ ht]
    exact nth0_readMDir s.act.regs o _ t hi
  have hln : ∀ j, j < 64 → ∀ t, t < 1 + 2 * kc → nth0 (((List.range (1 + 2 * kc)).map fun t =>
      s.here.bLine (((s.act.regs.readA o.ay.toNat).toNat + t) % 65536)).getD t []) j =
      s.here.bRead (s.act.regs.readA o.ay.toNat).toNat t j := fun j hj t ht => by
    rw [getD_map_range _ _ ht]
    exact nth0_bLine s.here _ t hj
  have hissue : (s.act.number 0).mmaIssue s.here (s.firstRepeat o none) (splitCounts kc) =
      (s.act.number 0).engineWrite (splitRows o s.act.regs o.ovr kc
        ((List.range (1 + 2 * kc)).map fun t => s.act.regs.readMDir o.areg.toNat o.dir.toNat
          (((s.act.regs.readA o.ax.toNat).toNat + t) % 64))
        ((List.range (1 + 2 * kc)).map fun t => s.here.bLine (((s.act.regs.readA o.ay.toNat).toNat + t) % 65536))) := by
    simp only [Ctx.mmaIssue, State.firstRepeat, hregs, splitCounts, Nat.zero_mul, Nat.add_zero, decide_true, Bool.and_true]
  have hnumber : (s.act.number 0).regs = s.act.regs := rfl
  have hsix := get_setWords_six hwf o.acc.toNat (fun i j w => s.splitWord o kc i j w) n hi hj
  unfold State.splitWord at hsix ⊢
  rw [hissue, splitRows_eq hsl hrd hln, Ctx.regs_engineWrite, Regs.readM, hnumber, hsix]
  rfl

/-- The number of an output after an issue. -/
theorem splitBits_eq {r u : Regs} {c i j kc : Nat} {fresh : Bool} {pairs : List (Nat × Nat)} {rd ln : Nat → Word}
    (h : ∀ w, w < 5 → u.readM (c + w) i j = Machine.splitWord r c fresh pairs kc rd ln i j w) :
    (u.splitBits c i j : Int) = ((if fresh then 0 else (r.splitBits c i j : Int)) + keptSum pairs kc rd ln) % 2 ^ 160 := by
  have hwords : u.splitBits c i j = wrapN ((if fresh then 0 else splitAcc r c i j) + keptSum pairs kc rd ln) 160 % 2 ^ (32 * 5) := by
    rw [← sum_words, Regs.splitBits]
    refine congrArg List.sum (List.map_congr_left fun w hw => ?_)
    have hw := List.mem_range.mp hw
    rw [h w hw, Machine.splitWord, if_pos hw]
  have hacc : (if fresh then 0 else splitAcc r c i j) % (2 ^ 160 : Int) =
      (if fresh then 0 else (r.splitBits c i j : Int)) % 2 ^ 160 := by
    cases fresh with
    | false => rw [if_neg Bool.false_ne_true, if_neg Bool.false_ne_true, splitAcc_eq, toSigned_emod]
    | true => rw [if_pos rfl, if_pos rfl]
  have hpos : (0 : Int) < 2 ^ 160 := by positivity
  have hwrap : (wrapN ((if fresh then 0 else splitAcc r c i j) + keptSum pairs kc rd ln) 160 : Int) =
      ((if fresh then 0 else (r.splitBits c i j : Int)) + keptSum pairs kc rd ln) % 2 ^ 160 := by
    rw [wrapN, Int.toNat_of_nonneg (Int.emod_nonneg _ hpos.ne'), Int.add_emod, hacc, ← Int.add_emod]
  rw [hwords, Int.natCast_emod, hwrap]
  push_cast
  rw [Int.emod_emod_of_dvd _ (dvd_refl _)]

/-- Settles O44: a split issue writes six words of each output, five that hold the accumulator and the exponent sum. -/
theorem splitAccumulation : Obligations.SplitAccumulation := by
  unfold Obligations.SplitAccumulation
  intro o s x r beats n pairs kc c hmode hsl hg hf hrows hwf hbeats hc hbound hareg hax hay
  have hnames : ∀ e ∈ mmaNames o, e.1 < s.act.mBound := by
    rw [mmaNames, if_pos hmode]
    intro e he
    rcases List.mem_cons.mp he with rfl | he
    · exact lt_of_le_of_lt (Nat.le_add_right _ _) hbound
    · rcases List.mem_cons.mp he with rfl | he
      · exact hbound
      · rw [List.mem_singleton.mp he]
        exact hareg
  obtain ⟨hold, rep, hrun⟩ := mmaCommand_runs (entry := none) (p := splitCounts kc) hg hf hnames (fun _ h => nomatch h)
    fun h32 => absurd h32 (by omega)
  have hexec : exec (.mmaSplit o) s = mmaCommand o none (splitPlan o) s := rfl
  have hissue := State.FirstIssue.of_holdEngine (State.firstIssue_mmaFirst (s := s.holdEngine hold rep)
    (by rw [State.clear, State.act_holdEngine]; exact hax) (by rw [State.clear, State.act_holdEngine]; exact hay) none (splitCounts kc))
  have hread {k i j : Nat} (hi : i < 64) (hj : j < 64) := State.readM_splitIssue hrows hwf hsl kc k hi hj
  refine ⟨_, by rw [hexec, splitPlan_eq hsl hbeats]; exact hrun, ?_, fun k i j hk hi hj => ?_, hissue.busyTo, fun i j hi hj => ?_⟩
  · rw [hissue.act]
    exact (s.act.number 0).regs_mmaIssue s.here (s.firstRepeat o none) (splitCounts kc)
  · rw [hissue.act]
    exact (hread hi hj).trans (if_neg (by omega))
  · intro rd ln sum ea eb special e
    rw [hissue.act]
    refine ⟨splitBits_eq fun w hw => ?_, ?_⟩
    · exact (hread hi hj).trans ((if_pos (by omega)).trans (by rw [Nat.add_sub_cancel_left]; rfl))
    · refine (hread hi hj).trans ((if_pos (by omega)).trans ?_)
      rw [Nat.add_sub_cancel_left, State.splitWord, Machine.splitWord, if_neg (by decide)]
      rfl

end Sys2Proof.Machine
end

section
/-! SUPPORT. An operation of the distributor completes: its last words go to a quiet core, and it is gone (R30, R144, R193). -/

namespace Sys2Proof.Machine

/-- In a core whose banks are quiet the bytes of an engine are delivered at once. -/
theorem Core.putCells_of_quiet {c : Core} (h : c.quiet) (cycle prio : Nat) (q : Queued) (cells : List (Nat × Byte)) :
    c.putCells cycle prio q cells = (true, c.deliver prio cycle cells) := by
  obtain ⟨hacc, hdone, hbusy, -, -⟩ := h
  simp [Core.putCells, Core.inPane, hacc, hdone, hbusy]

/-- A change of a context leaves what the core delivers. -/
theorem Core.late_onCtx (c : Core) (cid : Bool) (f : Ctx → Ctx) : (c.onCtx cid f).late = c.late := by
  rw [Core.onCtx]
  split <;> rfl

/-- What a completion makes of its context (R30, R316.6). -/
def Ctx.finished (x : Ctx) (o : CopyOp) (cycle : Nat) : Ctx :=
  { x with comps := x.comps ++ [⟨o.tl, o.num, cycle⟩], clocks := x.clocks ++ [(o.tl, o.num, o.kv)] }

/-- What a completion makes of its core. -/
def Core.finished (c : Core) (o : CopyOp) (cycle : Nat) (cells : List (Nat × Byte)) : Core :=
  (c.deliver 21 cycle cells).onCtx o.cid fun x => x.finished o cycle

/-- The bytes of the last words of an operation. -/
def Core.lastCells (c : Core) (o : CopyOp) (words : List (Nat × Word)) : List (Nat × Byte) :=
  words.flatMap fun w => wordCells ((c.ctx o.cid).poolAddr (o.addr + w.1)) w.2

/-- An operation with no write to wait for ends on a quiet core: its core, and the list of operations, change. -/
theorem State.closeOp_of_quiet {s : State} {o : CopyOp} (hq : (s.core o.core).quiet) (hu : o.unseen = [])
    (words : List (Nat × Word)) : s.closeOp o words =
      { s with
        cores := Store.insert s.cores o.core ((s.core o.core).finished o s.cycle ((s.core o.core).lastCells o words))
        dies := Store.insert s.dies o.die (s.die o.die)
        ops := s.ops.filter fun k => !decide (k.id = o.id) } := by
  have hopen : ((s.die o.die).open_.filter fun e => !(o.unseen.contains e.2)) = (s.die o.die).open_ := by
    simp [hu]
  have hlate (t : State) : (o.unseen.filter fun id => !t.visible id) = [] := by rw [hu]; rfl
  simp only [State.closeOp, Core.putCells_of_quiet hq, if_true, State.retireOp, hlate]
  simp only [State.onCore, State.core_setCore, State.setCore_setCore, State.onDie, State.die_setCore]
  rw [hopen]
  cases o.launch <;> rfl

/-- The dies read the same after it. -/
theorem State.die_insert_self (s : State) (k j : Nat) : Store.get Die.reset (Store.insert s.dies k (s.die k)) j = s.die j := by
  by_cases h : j = k
  · rw [h, Store.get_insert_same]
  · exact Store.get_insert_ne _ _ _ h

/-- What a statement says of an operation that has completed looks at the cores, the operations and the cycle alone. -/
theorem State.opFinished.congr {s s' t t' : State} {o : CopyOp} {other : List (Nat × Byte)} {status : Nat}
    (h : s.opFinished t o other status) (hc : s'.cores = s.cores) (ho : s'.ops = s.ops) (hcy : s'.cycle = s.cycle)
    (htc : t'.cores = t.cores) (hto : t'.ops = t.ops) : s'.opFinished t' o other status := by
  have h1 (n : Nat) : s'.core n = s.core n := by rw [State.core, hc]; rfl
  have h2 (n : Nat) : t'.core n = t.core n := by rw [State.core, htc]; rfl
  have h3 (n : Nat) : s'.op n = s.op n := by rw [State.op, ho]; rfl
  have h4 (n : Nat) : t'.op n = t.op n := by rw [State.op, hto]; rfl
  unfold State.opFinished at h ⊢
  simp only [h1, h2, h3, h4, hcy]
  exact h

/-- An operation taken out of the list is gone, and no other. -/
theorem find?_filter_id (l : List CopyOp) (n id : Nat) :
    (l.filter fun k => !decide (k.id = n)).find? (fun o => decide (o.id = id)) =
    if id = n then none else l.find? fun o => decide (o.id = id) := by
  rw [List.find?_filter]
  split
  · subst id
    simp
  · next h =>
    congr 1
    funext o
    by_cases ho : o.id = id <;> simp [ho, h]

/-- An operation that ends on a quiet core has completed with the status among its last words. -/
theorem State.opFinished_closeOp {s : State} {o : CopyOp} (hq : (s.core o.core).quiet) (hu : o.unseen = [])
    (words : List (Nat × Word)) (status : Nat) :
    s.opFinished (s.closeOp o (words ++ [(60, BitVec.ofNat 32 status)])) o ((s.core o.core).lastCells o words) status := by
  rw [State.closeOp_of_quiet hq hu]
  generalize hw : words ++ [(60, BitVec.ofNat 32 status)] = ws
  let c := (s.core o.core).finished o s.cycle ((s.core o.core).lastCells o ws)
  let t := s.setCore o.core c
  have hop (id : Nat) : ({ t with ops := s.ops.filter fun k => !decide (k.id = o.id) } : State).op id =
      if id = o.id then none else s.op id := find?_filter_id s.ops o.id id
  refine State.opFinished.congr (s := s) (t := { t with ops := s.ops.filter fun k => !decide (k.id = o.id) }) ?_
    rfl rfl rfl rfl rfl
  have hctx : c.ctx o.cid = ((s.core o.core).ctx o.cid).finished o s.cycle := Core.ctx_onCtx fun _ => rfl
  have hc : ({ t with ops := s.ops.filter fun k => !decide (k.id = o.id) } : State).core o.core = c :=
    State.core_setCore s o.core c
  refine ⟨by rw [hop, if_pos rfl], fun id hid => by rw [hop, if_neg hid], ?_, ?_, ?_, ?_,
    fun n hn => State.core_setCore_ne s c hn⟩
  · rw [hc]
    refine (Core.late_onCtx _ _ _).trans ?_
    rw [← hw, Core.lastCells, List.flatMap_append, List.flatMap_singleton]
    rfl
  · rw [hc, hctx]; rfl
  · rw [hc, hctx]; rfl
  · rw [hc]
    exact Core.pool_onCtx _ _ _

end Sys2Proof.Machine
end

section
/-! SUPPORT. What the device's own units write into HBM leaves all but the memory, the controllers of the dies, and whether a
trace is LOST (R281, R352, R354 to R356, R360). -/

namespace Sys2Proof.Machine

/-- A trace but for its mark LOST. -/
def Trace.unlost (t : Trace) : Trace := { t with lost := false }

theorem Trace.eq_of_unlost {t u : Trace} (h : u.unlost = t.unlost) : ∃ x, { t with lost := x } = u :=
  ⟨u.lost, congrArg (fun t : Trace => { t with lost := u.lost }) h.symm⟩

/-- The device's own writes: HBM, the controllers of the dies and the queues and launches of the distributor may differ, a trace
in its mark LOST only, and what is on its way to a die stays so. -/
structure State.Writes (s t : State) : Prop where
  frame : t = { s with
    free := t.free, nextWrite := t.nextWrite, hbm := t.hbm, dies := t.dies
    dist := { s.dist with queues := t.dist.queues, launches := t.dist.launches, traces := t.dist.traces } }
  traces : t.dist.traces.map Trace.unlost = s.dist.traces.map Trace.unlost
  dies : ∀ k, (s.die k).incoming ⊆ (t.die k).incoming ∧ (t.die k).pool = (s.die k).pool

theorem State.Writes.refl (s : State) : s.Writes s := ⟨rfl, rfl, fun _ => ⟨List.Subset.refl _, rfl⟩⟩

theorem State.Writes.trans {s t u : State} (h : s.Writes t) (k : t.Writes u) : s.Writes u := by
  refine ⟨?_, k.traces.trans h.traces, fun j => ⟨List.Subset.trans (h.dies j).1 (k.dies j).1, (k.dies j).2.trans (h.dies j).2⟩⟩
  have hf := h.frame
  have kf := k.frame
  rw [kf]
  dsimp only
  rw [hf]

/-- The device's own writes when they leave the queues and the launches, too. -/
def State.OwnWrites (s t : State) : Prop :=
  s.Writes t ∧ t.dist.queues = s.dist.queues ∧ t.dist.launches = s.dist.launches

theorem State.OwnWrites.refl (s : State) : s.OwnWrites s := ⟨.refl s, rfl, rfl⟩

theorem State.OwnWrites.trans {s t u : State} (h : s.OwnWrites t) (k : t.OwnWrites u) : s.OwnWrites u :=
  ⟨h.1.trans k.1, k.2.1.trans h.2.1, k.2.2.trans h.2.2⟩

/-- Own writes one after the other. -/
theorem State.OwnWrites.foldl {α : Type} {f : State → α → State} (hf : ∀ (s : State) (x : α), s.OwnWrites (f s x))
    (l : List α) (s : State) : s.OwnWrites (l.foldl f s) := by
  induction l generalizing s with
  | nil => exact .refl s
  | cons x l ih => exact (hf s x).trans (ih (f s x))

/-- A step that touches HBM, one die and the free values only. -/
theorem State.OwnWrites.onDie (s : State) (n : Nat) {f : Die → Die} (hin : ∀ d, d.incoming ⊆ (f d).incoming)
    (hpool : ∀ d, (f d).pool = d.pool) : s.OwnWrites (s.onDie n f) := by
  refine ⟨⟨rfl, rfl, fun k => ⟨?_, State.onDie_field (fun d => d.pool) hpool s n k⟩⟩, rfl, rfl⟩
  by_cases hk : k = n
  · subst hk
    rw [State.die_onDie]
    exact hin _
  · rw [State.die_onDie_ne s f hk]
    exact List.Subset.refl _

theorem State.OwnWrites.draw (s : State) : s.OwnWrites s.draw.2 :=
  ⟨⟨rfl, rfl, fun _ => ⟨List.Subset.refl _, rfl⟩⟩, rfl, rfl⟩

/-! ## The home of a write (R315, R356) -/

/-- A home applies a write to HBM, and forwards it. -/
theorem State.OwnWrites.applyPlain (s : State) (die : Nat) {w : Stamped} (h : w.space = 0) :
    s.OwnWrites (s.applyPlain die w) := by
  have hhbm : s.OwnWrites { s with hbm := Memory.writeBytes s.hbm w.addr w.bytes } :=
    ⟨⟨rfl, rfl, fun _ => ⟨List.Subset.refl _, rfl⟩⟩, rfl, rfl⟩
  rw [State.applyPlain, h]
  refine State.OwnWrites.trans (hhbm.trans (.onDie _ die ?_ ?_)) (.foldl (fun s j => ?_) dies16 _)
  · exact fun _ => List.Subset.refl _
  · exact fun _ => rfl
  · dsimp only
    split
    · refine (State.OwnWrites.draw s).trans (.onDie _ j ?_ ?_)
      · exact fun _ => List.subset_append_left _ _
      · exact fun _ => rfl
    · exact .refl s

theorem State.OwnWrites.pokeHbm (s : State) (a : Nat) (bytes : List Byte) : s.OwnWrites (s.pokeHbm a bytes) := by
  have hid : s.OwnWrites { s with nextWrite := s.nextWrite + 1 } :=
    ⟨⟨rfl, rfl, fun _ => ⟨List.Subset.refl _, rfl⟩⟩, rfl, rfl⟩
  exact hid.trans (.foldl (fun s b => .applyPlain s _ rfl) _ _)

/-- A step repeated leaves what each step leaves. -/
theorem foldl_keeps {σ α β : Type} (g : σ → β) {f : σ → α → σ} (hf : ∀ s x, g (f s x) = g s) (l : List α) (s : σ) :
    g (l.foldl f s) = g s := by
  induction l generalizing s with
  | nil => rfl
  | cons x l ih => rw [List.foldl_cons, ih, hf]

/-- The distributor does not see what is written into HBM. -/
theorem State.dist_pokeHbm (s : State) (a : Nat) (bytes : List Byte) : (s.pokeHbm a bytes).dist = s.dist := by
  refine foldl_keeps State.dist (fun s b => ?_) _ _
  refine foldl_keeps State.dist (fun s j => ?_) _ _
  split <;> rfl

/-! ## The traces (R352, R354 to R356) -/

/-- An entry of a list replaced by one that reads alike. -/
theorem map_replaceFirst {α β : Type} (g : α → β) {p : α → Bool} {f : α → α}
    (hf : ∀ x, p x = true → g (f x) = g x) (l : List α) : (replaceFirst p f l).map g = l.map g := by
  induction l with
  | nil => rfl
  | cons x l ih =>
    rw [replaceFirst]
    split
    · rw [List.map_cons, List.map_cons, hf x ‹_›]
    · rw [List.map_cons, List.map_cons, ih]

theorem State.OwnWrites.loseTrace (s : State) (h : Nat) : s.OwnWrites (s.loseTrace h) :=
  ⟨⟨rfl, map_replaceFirst Trace.unlost (by intro _ _; rfl) _, fun _ => ⟨List.Subset.refl _, rfl⟩⟩, rfl, rfl⟩

theorem State.OwnWrites.writeOwn {s t : State} {l : Leaf} {va : Nat} {bytes : List Byte} (h : s.writeOwn l va bytes = some t) :
    s.OwnWrites t := by
  unfold State.writeOwn at h
  split at h
  · cases h
    exact .foldl (fun s a => .pokeHbm s a bytes) _ s
  · cases h

theorem State.OwnWrites.setDirty (s : State) (t : Trace) (bit : Nat) : s.OwnWrites (s.setDirty t bit) := by
  unfold State.setDirty
  dsimp only
  split
  · next l _ =>
    cases hw : s.writeOwn l _ _ with
    | none => exact .loseTrace s t.handle
    | some u => exact .writeOwn hw
  · exact .loseTrace s t.handle

theorem State.OwnWrites.filterWrite (s : State) (a n : Nat) : s.OwnWrites (s.filterWrite a n) := by
  unfold State.filterWrite
  refine .foldl (fun s t => ?_) _ s
  refine .foldl (fun s w => ?_) _ s
  exact .setDirty s t w.2

theorem State.OwnWrites.writeTrace (s : State) (h asid va : Nat) (bytes : List Byte) :
    s.OwnWrites (s.writeTrace h asid va bytes) := by
  have go (l : List (Nat × Nat)) : ∀ (b : List Byte) (s : State), s.OwnWrites (l.foldl (fun (e : List Byte × State) p =>
      (e.1.drop p.2, ((e.2.translateNow 0 asid p.1 true).bind fun l => e.2.writeOwn l p.1 (e.1.take p.2)).getD
        (e.2.loseTrace h))) (b, s)).2 := by
    induction l with
    | nil => exact fun _ s => .refl s
    | cons p l ih =>
      intro b s
      refine State.OwnWrites.trans ?_ (ih _ _)
      cases hw : (s.translateNow 0 asid p.1 true).bind fun l => s.writeOwn l p.1 (b.take p.2) with
      | none => exact .loseTrace s h
      | some u =>
        obtain ⟨l, -, hl⟩ := Option.bind_eq_some_iff.mp hw
        exact .writeOwn hl
  exact go _ bytes s

theorem State.OwnWrites.storeRecords (s : State) (h : Nat) (blks : List Nat) : s.OwnWrites (s.storeRecords h blks) := by
  unfold State.storeRecords
  split
  · exact .foldl (fun s b => .pokeHbm s _ _) _ s
  · exact .refl s

/-- Lent slots are written, past the filters, where the pool is laid out (R281, R347). -/
theorem State.OwnWrites.writeLent (s : State) (n die size : Nat) (old new : Ring) :
    s.OwnWrites (s.writeLent n die size old new) := by
  have go (p : Nat) (l : List (Nat × List Word)) : ∀ (k : Nat) (s : State), s.OwnWrites (l.foldl (fun (z : Nat × State) e =>
      let a := p + 1024 * Config.lentBlock n (z.1 / size) + 1024 / size * (z.1 % size)
      let bytes := e.2.flatMap fun w => toBytes w.toNat 4
      (z.1 + 1, (z.2.filterWrite a bytes.length).pokeHbm a bytes)) (k, s)).2 := by
    induction l with
    | nil => exact fun _ s => .refl s
    | cons e l ih => exact fun k s => ((State.OwnWrites.filterWrite s _ _).trans (.pokeHbm _ _ _)).trans (ih _ _)
  unfold State.writeLent
  split
  · exact .refl s
  · exact go _ _ old.lentUsed s

theorem State.writeLent_of_none {s : State} {die : Nat} (h : (s.die die).pool = none) (n size : Nat) (old new : Ring) :
    s.writeLent n die size old new = s := by rw [State.writeLent, h]

/-! ## What such writes leave to be read -/

section
variable {s t : State} (h : s.Writes t)
include h

theorem State.Writes.cores : t.cores = s.cores := by rw [h.frame]
theorem State.Writes.ops : t.ops = s.ops := by rw [h.frame]
theorem State.Writes.cycle : t.cycle = s.cycle := by rw [h.frame]
theorem State.Writes.host : t.host = s.host := by rw [h.frame]
theorem State.Writes.pod : t.pod = s.pod := by rw [h.frame]
theorem State.Writes.mailboxes : t.dist.mailboxes = s.dist.mailboxes := by rw [h.frame]

/-- A live trace is live, and the same but for its mark LOST. -/
theorem State.Writes.trace {n : Nat} {tr : Trace} (ht : s.trace n = some tr) :
    ∃ u, t.trace n = some u ∧ u.unlost = tr.unlost := by
  have go (l : List Trace) : ((l.map Trace.unlost).find? fun t => decide (t.handle = n)) =
      (l.find? fun t => decide (t.handle = n)).map Trace.unlost := List.find?_map ..
  have heq := (go t.dist.traces).symm.trans ((congrArg _ h.traces).trans (go s.dist.traces))
  have ht' : (s.dist.traces.find? fun t => decide (t.handle = n)) = some tr := ht
  rw [ht', Option.map_some] at heq
  obtain ⟨u, hu, hlost⟩ := Option.map_eq_some_iff.mp heq
  exact ⟨u, hu, hlost⟩

end

end Sys2Proof.Machine
end

section
/-! SUPPORT. Records enter a queue, with their PRED on the counters of their blocks (R281, R284, R285). -/

namespace Sys2Proof.Machine

/-! ## One record -/

/-- What a record's words make of the ring of a queue. -/
def Queue.entered (k : Queue) (w : List Word) : Queue := { k with ring := (k.ring.enter 32 w).1 }

/-- A queue changed, and every other queue left. -/
theorem State.queue_onQueue (s : State) (q j : Nat) (f : Queue → Queue) :
    (s.onQueue q f).queue j = if j = q then f (s.queue q) else s.queue j := by
  split
  · subst j
    exact Store.get_insert_same ..
  · exact Store.get_insert_ne _ _ _ ‹_›

/-- The queues do not see the device's own writes. -/
theorem State.OwnWrites.queue {s t : State} (h : s.OwnWrites t) (q : Nat) : t.queue q = s.queue q := by
  rw [State.queue, h.2.1]
  rfl

theorem State.Writes.onQueue (s : State) (q : Nat) (f : Queue → Queue) : s.Writes (s.onQueue q f) :=
  ⟨rfl, rfl, fun _ => ⟨List.Subset.refl _, rfl⟩⟩

theorem State.Writes.onLaunch (s : State) (n : Nat) (f : Launch → Launch) : s.Writes (s.onLaunch n f) :=
  ⟨rfl, rfl, fun _ => ⟨List.Subset.refl _, rfl⟩⟩

theorem State.OwnWrites.lendBlocks (s : State) (die taken back : Nat) : s.OwnWrites (s.lendBlocks die taken back) := by
  refine .onDie s die ?_ ?_
  · exact fun _ => List.Subset.refl _
  · exact fun _ => rfl

/-- A record's words enter: the ring of the queue, and the device's own writes. -/
theorem State.ringEnter_spec (s : State) (q : Nat) (w : List Word) :
    (s.onQueue q fun k => k.entered w).OwnWrites (s.ringEnter q w) ∧
      ((s.die 0).pool = none → (s.ringEnter q w).hbm = s.hbm) := by
  let u := (s.onQueue q fun k => k.entered w).lendBlocks 0 ((s.queue q).ring.enter 32 w).2 0
  have hu : (s.onQueue q fun k => k.entered w).OwnWrites u := .lendBlocks _ _ _ _
  have hr : s.ringEnter q w = u.writeLent q 0 32 (s.queue q).ring ((s.queue q).ring.enter 32 w).1 := rfl
  rw [hr]
  refine ⟨hu.trans (.writeLent _ _ _ _ _ _), fun hp => ?_⟩
  rw [State.writeLent_of_none ((hu.1.dies 0).2.trans hp)]
  rfl

/-- What a record that enters puts on the counters of its launch. -/
def Record.counted (r : Record) (ls : List Launch) : List Launch :=
  replaceFirst (fun l => decide (l.num = r.launch)) (fun l => l.bump r.blk (field (dw r.words 2) 0 16 : Nat)) ls

/-- A record that has entered stands at the end of its queue, and is counted; the rest is the device's own writes. -/
theorem State.enterRecord_spec (s : State) (q : Nat) (r : Record) :
    let t := s.enterRecord q r
    s.Writes t ∧ (t.queue q).recs = (s.queue q).recs ++ [r] ∧ (∀ j, j ≠ q → t.queue j = s.queue j) ∧
      t.dist.launches = r.counted s.dist.launches ∧ ((s.die 0).pool = none → t.hbm = s.hbm) := by
  obtain ⟨hown, hhbm⟩ := s.ringEnter_spec q r.words
  let u := s.ringEnter q r.words
  let v := u.onQueue q fun k => { k with recs := k.recs ++ [r] }
  have hring (j : Nat) : u.queue j = if j = q then (s.queue q).entered r.words else s.queue j :=
    (hown.queue j).trans (s.queue_onQueue q j _)
  have hq (j : Nat) : (s.enterRecord q r).queue j =
      if j = q then { u.queue q with recs := (u.queue q).recs ++ [r] } else u.queue j :=
    u.queue_onQueue q j fun k => { k with recs := k.recs ++ [r] }
  have hqq : (s.enterRecord q r).queue q = { (s.queue q).entered r.words with recs := (s.queue q).recs ++ [r] } := by
    rw [hq, if_pos rfl, hring, if_pos rfl]
    rfl
  refine ⟨(State.Writes.onQueue s q _).trans (hown.1.trans ((State.Writes.onQueue u q _).trans (.onLaunch v r.launch _))), ?_,
    fun j hj => ?_, congrArg r.counted hown.2.2, hhbm⟩
  · rw [hqq]
  · rw [hq, if_neg hj, hring, if_neg hj]

/-! ## The records of a launch -/

/-- Records that enter one after the other. -/
theorem State.enterRecords_spec (q : Nat) (recs : List Record) (s : State) :
    let t := recs.foldl (fun s r => s.enterRecord q r) s
    s.Writes t ∧ (t.queue q).recs = (s.queue q).recs ++ recs ∧ (∀ j, j ≠ q → t.queue j = s.queue j) ∧
      t.dist.launches = recs.foldl (fun ls r => r.counted ls) s.dist.launches ∧ ((s.die 0).pool = none → t.hbm = s.hbm) := by
  induction recs generalizing s with
  | nil => exact ⟨.refl s, (List.append_nil _).symm, fun _ _ => rfl, rfl, fun _ => rfl⟩
  | cons r recs ih =>
    obtain ⟨hw, hrecs, hother, hcount, hhbm⟩ := s.enterRecord_spec q r
    obtain ⟨hw', hrecs', hother', hcount', hhbm'⟩ := ih (s.enterRecord q r)
    refine ⟨hw.trans hw', ?_, fun j hj => (hother' j hj).trans (hother j hj), ?_, fun hp => ?_⟩
    · rw [List.foldl_cons, hrecs', hrecs, List.append_assoc]
      rfl
    · rw [List.foldl_cons, hcount', hcount]
      rfl
    · exact (hhbm' ((hw.dies 0).2.trans hp)).trans (hhbm hp)

/-! ## The counters of a launch (R285) -/

/-- A launch but for the counters of its blocks. -/
def Launch.uncounted (l : Launch) : Launch := { l with deps := [] }

/-- Records that enter change of the launches their counters alone. -/
theorem map_uncounted_counted (recs : List Record) (ls : List Launch) :
    (recs.foldl (fun ls r => r.counted ls) ls).map Launch.uncounted = ls.map Launch.uncounted := by
  refine foldl_keeps (List.map Launch.uncounted) (fun ls r => ?_) recs ls
  exact map_replaceFirst Launch.uncounted (by intro _ _; rfl) ls

/-- The launch of a number is the first of that number. -/
theorem Distributor.launch_eq (d : Distributor) (n : Nat) : d.launch n = d.launches.find? fun l => decide (l.num = n) := by
  rw [Distributor.launch]
  induction d.launches with
  | nil => rfl
  | cons l ls ih =>
    by_cases h : l.num = n
    · simp [firstSome, h]
    · simp [firstSome, h, ih]

/-- A launch that records have entered for is the same but for its counters. -/
theorem State.launch_of_uncounted {s t : State} {n : Nat} {l : Launch} (hl : s.launch n = some l)
    (h : t.dist.launches.map Launch.uncounted = s.dist.launches.map Launch.uncounted) :
    ∃ k, t.launch n = some k ∧ k.uncounted = l.uncounted := by
  have go (ls : List Launch) : ((ls.map Launch.uncounted).find? fun l => decide (l.num = n)) =
      (ls.find? fun l => decide (l.num = n)).map Launch.uncounted := List.find?_map ..
  have heq := (go t.dist.launches).symm.trans ((congrArg _ h).trans (go s.dist.launches))
  rw [State.launch, Distributor.launch_eq] at hl
  rw [hl, Option.map_some] at heq
  obtain ⟨k, hk, hkl⟩ := Option.map_eq_some_iff.mp heq
  exact ⟨k, by rw [State.launch, Distributor.launch_eq, hk], hkl⟩

/-- The last entry of a list is the one replaced when no other meets the test. -/
theorem replaceFirst_concat {α : Type} {p : α → Bool} (f : α → α) {l : List α} {x : α} (hl : ∀ y ∈ l, p y = false)
    (hx : p x = true) : replaceFirst p f (l ++ [x]) = l ++ [f x] := by
  induction l with
  | nil => rw [List.nil_append, replaceFirst, if_pos hx]; rfl
  | cons y l ih =>
    rw [List.cons_append, replaceFirst, hl y List.mem_cons_self, ih fun z hz => hl z (List.mem_cons_of_mem y hz)]
    rfl

/-- The launch that blocks' records have entered for, the counts added to those of the blocks. -/
def Launch.withCounts (l : Launch) (f : Nat → Nat) (n : Nat) : Launch :=
  (List.range n).foldl (fun l b => l.bump b (f b : Nat)) l

theorem Launch.withCounts_succ (l : Launch) (f : Nat → Nat) (n : Nat) :
    l.withCounts f (n + 1) = (l.withCounts f n).bump n (f n : Nat) := by
  rw [Launch.withCounts, List.range_succ, List.foldl_append]
  rfl

/-- Only the counters change, and each block's is raised once. -/
theorem Launch.withCounts_spec (l : Launch) (hl : Store.wf 0 l.deps = true) (f : Nat → Nat) (n : Nat) :
    (l.withCounts f n).uncounted = l.uncounted ∧ Store.wf 0 (l.withCounts f n).deps = true ∧
      ∀ b, Store.get 0 (l.withCounts f n).deps b = Store.get 0 l.deps b + if b < n then (f b : Int) else 0 := by
  induction n with
  | zero => exact ⟨rfl, hl, fun b => by simp [Launch.withCounts]⟩
  | succ n ih =>
    obtain ⟨hsame, hwf, hget⟩ := ih
    rw [Launch.withCounts_succ]
    refine ⟨hsame, Store.wf_set hwf _ _, fun b => ?_⟩
    rw [Launch.bump, Store.get_set hwf, hget, hget]
    rcases Nat.lt_trichotomy b n with h | rfl | h
    · rw [if_neg (by omega), if_pos h, if_pos (by omega)]
    · rw [if_pos rfl, if_neg (by omega), if_pos (by omega), Int.add_zero]
    · rw [if_neg (by omega), if_neg (by omega), if_neg (by omega)]

/-- The records of a launch that stands last, and whose number no other has, are counted on it. -/
theorem foldl_counted_last {ls : List Launch} {num : Nat} (hnum : ∀ k ∈ ls, k.num ≠ num) (f : Nat → Record)
    (hf : ∀ b, (f b).launch = num ∧ (f b).blk = b) (n : Nat) {l : Launch} (hl : l.num = num) :
    ((List.range n).map f).foldl (fun ls r => r.counted ls) (ls ++ [l]) =
      ls ++ [l.withCounts (fun b => field (dw (f b).words 2) 0 16) n] := by
  induction n with
  | zero => rfl
  | succ n ih =>
    have hn : (l.withCounts (fun b => field (dw (f b).words 2) 0 16) n).num = num := by
      refine (foldl_keeps Launch.num (fun l b => ?_) (List.range n) l).trans hl
      rfl
    rw [List.range_succ, List.map_append, List.foldl_append, ih, Launch.withCounts_succ]
    obtain ⟨hfl, hfb⟩ := hf n
    refine (replaceFirst_concat _ (fun k hk => ?_) ?_).trans ?_
    · rw [hfl]
      exact decide_eq_false (hnum k hk)
    · rw [hfl]
      exact decide_eq_true hn
    · rw [hfb]

end Sys2Proof.Machine
end

section
/-! SUPPORT. The checks of a launch in their order, and its refusal (R125, R144, R347, R368). -/

namespace Sys2Proof.Machine

/-! ## The first check that fails (R368) -/

/-- The STATUS of the first check that fails. -/
def firstFailure (l : List (Bool × Nat)) : Option Nat := (l.find? fun e => e.1).map fun e => e.2

@[simp] theorem firstFailure_nil : firstFailure [] = none := rfl

@[simp] theorem firstFailure_cons (b : Bool) (n : Nat) (l : List (Bool × Nat)) :
    firstFailure ((b, n) :: l) = if b = true then some n else firstFailure l := by
  cases b <;> rfl

/-- The words of an image's header. -/
def headerWord (head : List Byte) (k : Nat) : Nat := ofBytes ((head.drop (4 * k)).take 4)

/-- Does a section of an image with this header run past its known end? -/
def sectionsPast (bytes : Option Nat) (head : List Byte) : Bool :=
  match bytes with
  | some e => decide (e < headerWord head 5 + 32 * headerWord head 4 ∨ e < headerWord head 7 + 48 * headerWord head 6 ∨
      e < headerWord head 9 + headerWord head 8)
  | none => false

/-- The image with a header and sections that pass the checks. -/
def imageOf (head code dict pre : List Byte) : Image :=
  let w := headerWord head
  ⟨BitVec.ofNat 32 (w 2), w 3, w 4, codeOf (w 4) code, dictOf (w 6) dict, cellsAt 0 pre, decide (w 11 = 1)⟩

/-- What an image gives, once its header has been read. -/
theorem State.loadImage_of_head {s : State} {asid va : Nat} {head : List Byte} (h : s.readRange asid va 64 = some head) :
    s.loadImage asid va =
      let w := headerWord head
      if (!headerOk ((List.range 16).map w) || sectionsPast (Store.get none s.images (2 ^ 52 * asid + va)) head) = true then
        .error (1, 0, 0)
      else match s.readRange asid (va + w 5) (32 * w 4), s.readRange asid (va + w 7) (48 * w 6),
          s.readRange asid (va + w 9) (w 8) with
        | some code, some dict, some pre =>
          if !partitionOk (w 2) then .error (2, 0, 0)
          else match badEntry (dictOf (w 6) dict) with
            | some e => .error (3, e.1, e.2)
            | none => .ok (imageOf head code dict pre)
        | _, _, _ => .error (6, 0, 0) := by
  have hpast : (pastEnd (Store.get none s.images (2 ^ 52 * asid + va)) (headerWord head 5) (32 * headerWord head 4) ||
      pastEnd (Store.get none s.images (2 ^ 52 * asid + va)) (headerWord head 7) (48 * headerWord head 6) ||
      pastEnd (Store.get none s.images (2 ^ 52 * asid + va)) (headerWord head 9) (headerWord head 8)) =
      sectionsPast (Store.get none s.images (2 ^ 52 * asid + va)) head := by
    unfold pastEnd sectionsPast
    cases Store.get none s.images (2 ^ 52 * asid + va) with
    | none => rfl
    | some e => simp [Bool.or_assoc]
  simp only [← hpast, ← Bool.or_assoc]
  rw [State.loadImage, h]
  rfl

/-- The checks before those of a tail. -/
theorem firstFailure_append (l m : List (Bool × Nat)) : firstFailure (l ++ m) = (firstFailure l).or (firstFailure m) := by
  induction l with
  | nil => rfl
  | cons e l ih =>
    obtain ⟨b, n⟩ := e
    rw [List.cons_append, firstFailure_cons, firstFailure_cons, ih]
    cases b <;> rfl

/-- A refusal names the STATUS of the first check that fails, and an entry of the dictionary where it is 3 (R74); what passes
fails none. -/
def CheckedBy {α : Type} (checks : List (Bool × Nat)) (P : α → Prop) : Except (Nat × Nat × Nat) α → Prop
  | .error e => firstFailure checks = some e.1 ∧ (e.1 = 3 ↔ e.2.1 ≠ 0)
  | .ok x => firstFailure checks = none ∧ P x

section
variable {α : Type} {b : Bool} {n : Nat} {l : List (Bool × Nat)} {P : α → Prop} {x : Except (Nat × Nat × Nat) α}

/-- A check that passes leaves the rest. -/
theorem CheckedBy.pass (hb : b = false) (h : CheckedBy l P x) : CheckedBy ((b, n) :: l) P x := by
  subst hb
  cases x <;> exact h

/-- A check that fails refuses. -/
theorem CheckedBy.fail (hb : b = true) (hn : n ≠ 3) : CheckedBy ((b, n) :: l) P (.error (n, 0, 0)) := by
  subst hb
  exact ⟨rfl, fun h => absurd h hn, fun h => absurd rfl h⟩

/-- Checks that pass leave the rest. -/
theorem CheckedBy.append {m : List (Bool × Nat)} (hl : firstFailure l = none) (h : CheckedBy m P x) :
    CheckedBy (l ++ m) P x := by
  have hm : firstFailure (l ++ m) = firstFailure m := by rw [firstFailure_append, hl]; rfl
  cases x with
  | error e => exact ⟨hm.trans h.1, h.2⟩
  | ok y => exact ⟨hm.trans h.1, h.2⟩

/-- One check, and the rest where it passes. -/
theorem CheckedBy.cons {c : Prop} [Decidable c] (hb : b = true ↔ c) (hn : n ≠ 3) (h : ¬ c → CheckedBy l P x) :
    CheckedBy ((b, n) :: l) P (if c then .error (n, 0, 0) else x) := by
  split
  · exact .fail (hb.mpr ‹_›) hn
  · exact .pass (Bool.eq_false_iff.mpr fun hc => ‹¬ c› (hb.mp hc)) (h ‹_›)

end

/-- A dictionary's entries are numbered from 1 (R124). -/
theorem badEntry_dictOf_ne {n : Nat} {b : List Byte} {e : Nat × Nat} (h : badEntry (dictOf n b) = some e) : e.1 ≠ 0 := by
  have go (l : List (Nat × Option (BitVec 384))) (hl : ∀ x ∈ l, x.1 ≠ 0) (h : badEntry l = some e) : e.1 ≠ 0 := by
    induction l with
    | nil => cases h
    | cons x l ih =>
      have hx := hl x List.mem_cons_self
      have hrest := ih fun y hy => hl y (List.mem_cons_of_mem x hy)
      obtain ⟨k, w⟩ := x
      cases w with
      | none => exact hrest h
      | some w =>
        cases hd : decodeBundle w.toNat with
        | ok c =>
          simp only [badEntry, firstSome, hd] at h
          exact hrest h
        | error f =>
          simp only [badEntry, firstSome, hd, Option.some.injEq] at h
          subst h
          exact hx
  refine go _ (fun x hx => ?_) h
  obtain ⟨k, -, rfl⟩ := List.mem_map.mp hx
  exact Nat.succ_ne_zero k

/-- The checks of an image whose header has been read (R368, checks 3 to 5), with their STATUS. -/
def State.imageChecks (s : State) (asid va : Nat) (head : List Byte) : List (Bool × Nat) :=
  let w := headerWord head
  let code := s.readRange asid (va + w 5) (32 * w 4)
  let dict := s.readRange asid (va + w 7) (48 * w 6)
  let pre := s.readRange asid (va + w 9) (w 8)
  [(!headerOk ((List.range 16).map w) || sectionsPast (Store.get none s.images (2 ^ 52 * asid + va)) head, 1),
   (code.isNone || dict.isNone || pre.isNone, 6), (!partitionOk (w 2), 2),
   (match dict with
    | some b => (badEntry (dictOf (w 6) b)).isSome
    | none => false, 3)]

/-- An image is refused by the first of its checks that fails; with none it is the one its header describes. -/
theorem State.loadImage_spec {s : State} {asid va : Nat} {head : List Byte} (h : s.readRange asid va 64 = some head) :
    CheckedBy (s.imageChecks asid va head) (fun image => image.entry = headerWord head 3 ∧ image.lines = headerWord head 4)
      (s.loadImage asid va) := by
  rw [State.loadImage_of_head h, State.imageChecks]
  dsimp only
  generalize s.readRange asid _ _ = code
  generalize s.readRange asid _ _ = dict
  generalize s.readRange asid _ _ = pre
  refine .cons Iff.rfl (by decide) fun _ => ?_
  cases code with
  | none => exact .fail rfl (by decide)
  | some code =>
    cases dict with
    | none => exact .fail rfl (by decide)
    | some dict =>
      cases pre with
      | none => exact .fail rfl (by decide)
      | some pre =>
        refine .pass rfl (.cons Iff.rfl (by decide) fun _ => ?_)
        dsimp only
        cases hbad : badEntry (dictOf (headerWord head 6) dict) with
        | none => exact ⟨rfl, rfl, rfl⟩
        | some e => exact ⟨rfl, fun _ => badEntry_dictOf_ne hbad, fun _ => rfl⟩

/-- What an accepted launch reads: its image, its tile, and its block table. -/
structure State.Passes (s : State) (d : List Word) (asid : Nat) (r : Image × List Byte × List (Nat × Nat × Nat)) : Prop where
  tile : s.readRange asid (dw64 d 2) 16384 = some r.2.1
  entry : ∃ head, s.readRange asid (dw64 d 0) 64 = some head ∧ r.1.entry = headerWord head 3
  queues : s.queuesBad d = false
  table : blockTable d r.2.1 = some r.2.2

/-- The trace of a launch is refused with one of three STATUSes (R144, R353, R363). -/
theorem State.traceStatus_cases (s : State) (d : List Word) (asid : Nat) (re : Bool) :
    s.traceStatus d asid re = 0 ∨ s.traceStatus d asid re = 5 ∨ s.traceStatus d asid re = 8 ∨ s.traceStatus d asid re = 13 := by
  unfold State.traceStatus
  dsimp only
  repeat' split
  all_goals simp

/-- The checks of R368 after those of the image, for a launch of an image of so many lines, with their STATUS. -/
def State.lateChecks (s : State) (d : List Word) (asid : Nat) (re : Bool) (lines : Nat) (tile : List Byte) :
    List (Bool × Nat) :=
  [(decide (lines < field (dw d 5) 16 12), 7), (s.layoutRefused d, 4), (decide (s.traceStatus d asid re = 5), 5),
   (decide (s.traceStatus d asid re = 8), 8), (decide (s.traceStatus d asid re = 13), 13), (placementBad d, 9),
   (s.queuesBad d, 10), ((blockTable d tile).isNone, 11)]

/-- A trace that is refused is refused with its own STATUS. -/
theorem State.checkedBy_traceStatus {α : Type} {s : State} {d : List Word} {asid : Nat} {re : Bool} {l : List (Bool × Nat)}
    {P : α → Prop} {x : Except (Nat × Nat × Nat) α} (h : CheckedBy l P x) :
    CheckedBy ((decide (s.traceStatus d asid re = 5), 5) :: (decide (s.traceStatus d asid re = 8), 8) ::
      (decide (s.traceStatus d asid re = 13), 13) :: l) P
      (if s.traceStatus d asid re ≠ 0 then .error (s.traceStatus d asid re, 0, 0) else x) := by
  rcases s.traceStatus_cases d asid re with ht | ht | ht | ht <;> rw [ht]
  · exact .pass rfl (.pass rfl (.pass rfl h))
  · exact .fail rfl (by decide)
  · exact .pass rfl (.fail rfl (by decide))
  · exact .pass rfl (.pass rfl (.fail rfl (by decide)))

/-- The checks of R368 in their order: the first that fails refuses. -/
theorem State.checkLaunch_spec (s : State) (d : List Word) (asid : Nat) (re : Bool) :
    CheckedBy (s.launchChecks d asid re) (s.Passes d asid) (s.checkLaunch d asid re) := by
  rw [State.checkLaunch]
  refine .cons (by simp) (by decide) fun _ => ?_
  cases htile : s.readRange asid (dw64 d 2) 16384 with
  | none => 
    rw [show s.readRange asid (dw d 2 + 2 ^ 32 * dw d 3) 16384 = none from htile]
    exact .fail rfl (by decide)
  | some tile =>
    rw [show s.readRange asid (dw d 2 + 2 ^ 32 * dw d 3) 16384 = some tile from htile]
    cases hhead : s.readRange asid (dw64 d 0) 64 with
    | none =>
      rw [show s.readRange asid (dw d 0 + 2 ^ 32 * dw d 1) 64 = none from hhead]
      have : s.loadImage asid (dw64 d 0) = .error (6, 0, 0) := by rw [State.loadImage, hhead]
      rw [this]
      exact .fail rfl (by decide)
    | some head =>
      rw [show s.readRange asid (dw d 0 + 2 ^ 32 * dw d 1) 64 = some head from hhead]
      refine .pass rfl ?_
      change CheckedBy (s.imageChecks asid (dw64 d 0) head ++ s.lateChecks d asid re (headerWord head 4) tile) _ _
      have himage := s.loadImage_spec hhead
      cases hload : s.loadImage asid (dw64 d 0) with
      | error e =>
        rw [hload] at himage
        obtain ⟨hfirst, hentry⟩ := himage
        exact ⟨by rw [firstFailure_append, hfirst]; rfl, hentry⟩
      | ok image =>
        rw [hload] at himage
        obtain ⟨hfirst, hentry, hlines⟩ := himage
        refine .append hfirst ?_
        rw [← hlines]
        refine .cons decide_eq_true_iff (by decide) fun _ => .cons Iff.rfl (by decide) fun _ => s.checkedBy_traceStatus ?_
        refine .cons Iff.rfl (by decide) fun _ => .cons Iff.rfl (by decide) fun hqueues => ?_
        cases htable : blockTable d tile with
        | none => exact .fail rfl (by decide)
        | some t => exact .pass rfl ⟨rfl, htile, ⟨head, hhead, hentry⟩, Bool.eq_false_iff.mpr hqueues, htable⟩

/-! ## Refusal (R74, R144, R347) -/

/-- The list of launch operations not yet accepted, without one. -/
def Distributor.without (d : Distributor) (id : Nat) : Distributor :=
  { d with waiting := d.waiting.filter fun k => decide (k ≠ id) }

/-- An operation that ends on a quiet core: what it changes. -/
theorem State.finishOp_spec {s : State} {o : CopyOp} (hq : (s.core o.core).quiet) (hu : o.unseen = []) :
    let t := s.finishOp o
    s.opFinished t o [] o.status ∧ t.dist = s.dist ∧ t.hbm = s.hbm ∧ t.host = s.host ∧ ∀ k, t.die k = s.die k := by
  have hend : s.opFinished (s.finishOp o) o [] o.status := State.opFinished_closeOp hq hu [] o.status
  refine ⟨hend, ?_⟩
  rw [State.finishOp, State.closeOp_of_quiet hq hu]
  exact ⟨rfl, rfl, rfl, fun k => s.die_insert_self _ k⟩

/-- A launch that is refused ends with its STATUS; a dictionary's fault leaves an event in the log of die 0. -/
theorem State.refuseLaunch_spec {s : State} {o : CopyOp} (hq : (s.core o.core).quiet) (hu : o.unseen = [])
    (e : Nat × Nat × Nat) : let t := s.refuseLaunch o e
    s.opFinished t o [] e.1 ∧ t.dist = s.dist.without o.id ∧ t.hbm = s.hbm ∧ t.host = s.host ∧
      (t.die 0).log.length = (s.die 0).log.length + if e.1 = 3 ∧ e.2.1 ≠ 0 then 1 else 0 := by
  have hwaits (w : List Nat) : (w.filter fun k => !decide (k = o.id)) = w.filter fun k => decide (k ≠ o.id) := by
    simp only [ne_eq, decide_not]
  let u := if e.1 = 3 ∧ e.2.1 ≠ 0 then s.onDie 0 fun d => { d with log := d.log ++ [⟨3, o.id, e.2.1, e.2.2⟩] } else s
  have hu' : u.cores = s.cores ∧ u.ops = s.ops ∧ u.cycle = s.cycle ∧ u.dist = s.dist ∧ u.hbm = s.hbm ∧ u.host = s.host ∧
      (u.die 0).log.length = (s.die 0).log.length + if e.1 = 3 ∧ e.2.1 ≠ 0 then 1 else 0 := by
    simp only [u]
    split
    · refine ⟨rfl, rfl, rfl, rfl, rfl, rfl, ?_⟩
      rw [State.die_onDie, List.length_append, List.length_singleton]
    · exact ⟨rfl, rfl, rfl, rfl, rfl, rfl, rfl⟩
  obtain ⟨hcores, hops, hcycle, hdist, hhbm, hhost, hlog⟩ := hu'
  have hqu : (u.core o.core).quiet := by
    rw [State.core, hcores]
    exact hq
  obtain ⟨hend, hdist', hhbm', hhost', hdie⟩ := State.finishOp_spec (o := { o with status := e.1 }) hqu hu
  have ht : s.refuseLaunch o e = (u.finishOp { o with status := e.1 }).onDist fun d => d.without o.id := by
    rw [State.refuseLaunch]
    simp only [hwaits]
    rfl
  rw [ht]
  refine ⟨hend.congr hcores.symm hops.symm hcycle.symm rfl rfl, ?_, hhbm'.trans hhbm, hhost'.trans hhost, ?_⟩
  · exact congrArg (Distributor.without · o.id) (hdist'.trans hdist)
  · exact (congrArg (fun d : Die => d.log.length) (hdie 0)).trans hlog

/-! ## LAUNCH_ACCEPT on a launch that is refused (R144, R347) -/

/-- Nothing is taken up that is not ready. -/
theorem exec_launchAccept_waits {s : State} {id : Nat} (h : ∀ o, s.op id = some o → s.launchReady o = false) :
    exec (.launchAccept id) s = .next s := by
  have hx : exec (.launchAccept id) s = execLaunchAccept id s := rfl
  rw [hx, execLaunchAccept]
  cases ho : s.op id with
  | none => rfl
  | some o => simp only [h o ho, Bool.false_eq_true, if_false]

/-- Before bring-up is done a launch ends with a free STATUS. -/
theorem exec_launchAccept_early {s : State} {o : CopyOp} (ho : s.op o.id = some o) (hr : s.launchReady o = true)
    (hq : (s.core o.core).quiet) (hu : o.unseen = []) (hst : (s.die 0).stage ≠ 6) :
    ∃ t status, exec (.launchAccept o.id) s = .next t ∧ status ≠ 0 ∧ status < 2 ^ 32 ∧ s.opFinished t o [] status ∧
      t.dist = s.dist.without o.id ∧ t.hbm = s.hbm := by
  have hx : exec (.launchAccept o.id) s =
      .next (s.draw.2.refuseLaunch o (s.draw.1 % (2 ^ 32 - 1) + 1, 0, 0)) := by
    have hx : exec (.launchAccept o.id) s = execLaunchAccept o.id s := rfl
    simp only [hx, execLaunchAccept, ho, hr, if_true, if_pos hst]
  obtain ⟨hend, hdist, hhbm, -, -⟩ := State.refuseLaunch_spec (s := s.draw.2) hq hu (s.draw.1 % (2 ^ 32 - 1) + 1, 0, 0)
  exact ⟨_, _, hx, Nat.succ_ne_zero _, by omega, hend.congr rfl rfl rfl rfl rfl, hdist, hhbm⟩

/-- A launch that fails a check ends with the STATUS of the first. -/
theorem exec_launchAccept_refused {s : State} {o : CopyOp} {status : Nat} (ho : s.op o.id = some o)
    (hr : s.launchReady o = true) (hq : (s.core o.core).quiet) (hu : o.unseen = []) (hst : (s.die 0).stage = 6)
    (hfirst : firstFailure (s.launchChecks o.packet o.asid (decide (o.kind = 6))) = some status) :
    ∃ t, exec (.launchAccept o.id) s = .next t ∧ s.opFinished t o [] status ∧ t.dist = s.dist.without o.id ∧
      (t.die 0).log.length = (s.die 0).log.length + (if status = 3 then 1 else 0) ∧ t.hbm = s.hbm ∧ t.host = s.host := by
  have hspec := s.checkLaunch_spec o.packet o.asid (decide (o.kind = 6))
  cases hcheck : s.checkLaunch o.packet o.asid (decide (o.kind = 6)) with
  | ok r =>
    rw [hcheck] at hspec
    exact absurd (hspec.1.symm.trans hfirst) nofun
  | error e =>
    rw [hcheck] at hspec
    obtain ⟨hstatus, hentry⟩ := hspec
    obtain rfl : e.1 = status := Option.some.inj (hstatus.symm.trans hfirst)
    have hx : exec (.launchAccept o.id) s = .next (s.refuseLaunch o e) := by
      have hx : exec (.launchAccept o.id) s = execLaunchAccept o.id s := rfl
      simp only [hx, execLaunchAccept, ho, hr, if_true, if_neg (not_not.mpr hst), hcheck]
    obtain ⟨hend, hdist, hhbm, hhost, hlog⟩ := State.refuseLaunch_spec hq hu e
    refine ⟨_, hx, hend, hdist, ?_, hhbm, hhost⟩
    simp only [hlog, ← hentry, and_self]

end Sys2Proof.Machine
end

section
/-! SUPPORT. The acceptance of a launch: its number, its queues, the write of its tile, and its blocks' records (R116, R144,
R284, R288, R289, R294, R316). -/

namespace Sys2Proof.Machine

/-! ## An operation put back -/

theorem find?_replaceFirst_id {l : List CopyOp} {p : CopyOp} {id : Nat}
    (h : ∃ o, (l.find? fun o => decide (o.id = p.id)) = some o) :
    ((replaceFirst (fun k => decide (k.id = p.id)) (fun _ => p) l).find? fun o => decide (o.id = id)) =
      if id = p.id then some p else l.find? fun o => decide (o.id = id) := by
  obtain ⟨o, ho⟩ := h
  induction l with
  | nil => cases ho
  | cons k l ih =>
    by_cases hk : k.id = p.id
    · by_cases hid : id = p.id
      · simp [replaceFirst, hk, hid]
      · simp [replaceFirst, hk, hid, Ne.symm hid]
    · rw [List.find?_cons_of_neg (by simpa using hk)] at ho
      rw [replaceFirst, if_neg (by simpa using hk)]
      by_cases hki : k.id = id
      · have hid : id ≠ p.id := fun h => hk (hki.trans h)
        simp [hki, hid]
      · rw [List.find?_cons_of_neg (by simpa using hki), List.find?_cons_of_neg (by simpa using hki)]
        exact ih ho

/-- An operation put back is the one found under its number. -/
theorem State.opBecomes_setOp {s : State} {o p : CopyOp} (ho : s.op o.id = some o) (hp : p.id = o.id) :
    s.opBecomes (s.setOp p) o p := by
  have h (id : Nat) : (s.setOp p).op id = if id = p.id then some p else s.op id :=
    find?_replaceFirst_id ⟨o, by rw [hp]; exact ho⟩
  exact ⟨by rw [h, if_pos hp.symm], fun id hid => by rw [h, if_neg (hp ▸ hid)]⟩

theorem State.opBecomes.congr {s t u : State} {o p : CopyOp} (h : s.opBecomes t o p) (hu : u.ops = t.ops) :
    s.opBecomes u o p := by
  have hop (id : Nat) : u.op id = t.op id := by rw [State.op, hu]; rfl
  exact ⟨(hop _).trans h.1, fun id hid => (hop id).trans (h.2 id hid)⟩

/-! ## The write of the tile (R116, R316) -/

theorem length_toBytes (x n : Nat) : (toBytes x n).length = n := by
  induction n generalizing x with
  | zero => rfl
  | succ n ih => rw [toBytes, List.length_cons, ih]

/-- Bytes within one aligned block are one block. -/
theorem blocks64_one {a : Nat} {l : List Byte} (ha : a % 64 = 0) (h0 : l ≠ []) (h64 : l.length ≤ 64) :
    blocks64 (l.length + 1) a l = [(a, l)] := by
  obtain ⟨b, m, rfl⟩ := List.exists_cons_of_ne_nil h0
  have hdrop : (b :: m).drop 64 = [] := List.drop_eq_nil_of_le h64
  rw [blocks64, if_neg (by simp), ha, Nat.sub_zero]
  dsimp only
  rw [hdrop, List.take_of_length_le h64, List.length_cons, blocks64]
  rfl

/-- The tile's address goes out as one stamped write of die 0 that no filter sees. -/
theorem State.writeTile_spec {s : State} {asid va : Nat} {l : Leaf} (hl : s.translateNow 0 asid va false = some l)
    (hk : l.kind = 0) (hrep : l.rep = false) (ha : l.translate va % 64 = 0) :
    let t := (s.writeTile asid va).2
    s.OwnWrites t ∧ t.hbm = s.hbm ∧ ∃ w ∈ (t.die (homeDie (l.translate va))).incoming, w.home = true ∧ w.space = 0 ∧ w.src = 0 ∧
      w.num = (s.die 0).sent + 1 ∧ w.clock = s.clockOf 0 ∧ w.addr = l.translate va ∧ w.bytes = toBytes va 8 ∧
      w.watched = false ∧ s.cycle < w.due := by
  let s0 : State := { s with nextWrite := s.nextWrite + 1 }
  let s1 := s0.onDie 0 fun d => d.numbers ((s.die 0).sent + 1) s.nextWrite
  let w : Stamped := ⟨s.nextWrite, 0, (s.die 0).sent + 1, s.clockOf 0, true, 0, l.translate va, toBytes va 8, false,
    s.cycle + 1 + s1.draw.1⟩
  let s2 := s1.draw.2.onDie (homeDie (l.translate va)) fun d => d.expects w
  have hcopies : l.copies = [] := by rw [Leaf.copies, hrep]; rfl
  have hblocks : blocks64 ((toBytes va 8).length + 1) (l.translate va) (toBytes va 8) = [(l.translate va, toBytes va 8)] :=
    blocks64_one ha (List.cons_ne_nil _ _) (by rw [length_toBytes]; decide)
  have ht : (s.writeTile asid va).2 = s2.closeWrite 0 s.nextWrite := by
    simp only [State.writeTile, hl, hk, hcopies, State.sendWrite, hblocks]
    rfl
  have h0 : s.OwnWrites s0 := ⟨⟨rfl, rfl, fun _ => ⟨List.Subset.refl _, rfl⟩⟩, rfl, rfl⟩
  have h1 : s0.OwnWrites s1 := by
    refine .onDie s0 0 ?_ ?_
    · exact fun _ => List.Subset.refl _
    · exact fun _ => rfl
  have h2 : s1.draw.2.OwnWrites s2 := by
    refine .onDie _ _ ?_ ?_
    · exact fun _ => List.subset_append_left _ _
    · exact fun _ => rfl
  have h3 : s2.OwnWrites (s2.closeWrite 0 s.nextWrite) := by
    refine .onDie _ _ ?_ ?_
    · exact fun _ => List.Subset.refl _
    · exact fun _ => rfl
  rw [ht]
  refine ⟨((h0.trans h1).trans (.draw s1)).trans (h2.trans h3), rfl, w, (h3.1.dies _).1 ?_, rfl, rfl, rfl, rfl, rfl, rfl, rfl,
    rfl, by simp only [w]; omega⟩
  rw [State.die_onDie]
  exact List.mem_append_right _ (List.mem_singleton_self w)

/-! ## The queues of a launch (R289, R294) -/

/-- A queue that a launch has opened. -/
def openedQueue (num : Nat) (wire : Option (Nat × Nat)) (q : Nat) : Queue :=
  ⟨some num, decide (wire.map (fun w => w.1) = some q), [], Ring.empty⟩

/-- Queues opened one after the other. -/
theorem State.openQueues_spec (num : Nat) (wire : Option (Nat × Nat)) (qs : List Nat) (s : State) :
    let t := qs.foldl (fun s q => s.onQueue q fun _ => openedQueue num wire q) s
    t = { s with dist := { s.dist with queues := t.dist.queues } } ∧
      ∀ j, t.queue j = if j ∈ qs then openedQueue num wire j else s.queue j := by
  induction qs generalizing s with
  | nil => exact ⟨rfl, fun j => (if_neg List.not_mem_nil).symm⟩
  | cons q qs ih =>
    obtain ⟨hframe, hqueue⟩ := ih (s.onQueue q fun _ => openedQueue num wire q)
    refine ⟨?_, fun j => ?_⟩
    · rw [List.foldl_cons, hframe]
      rfl
    · rw [List.foldl_cons, hqueue, State.queue_onQueue]
      by_cases hj : j ∈ qs
      · rw [if_pos hj, if_pos (List.mem_cons_of_mem q hj)]
      · by_cases hq : j = q
        · rw [if_neg hj, if_pos hq, hq, if_pos List.mem_cons_self]
        · rw [if_neg hj, if_neg hq, if_neg (by simp [hj, hq])]

/-- The queues that a descriptor opens. -/
theorem mem_descQueues {d : List Word} {q : Nat} :
    q ∈ descQueues d ↔ field (dw d 11) 0 8 ≤ q ∧ q < field (dw d 11) 0 8 + field (dw d 11) 8 8 := by
  simp only [descQueues, List.mem_map, List.mem_range]
  constructor
  · rintro ⟨k, hk, rfl⟩
    omega
  · rintro ⟨h1, h2⟩
    exact ⟨q - field (dw d 11) 0 8, by omega, by omega⟩

/-- A launch opens none of the four queues of the levels. -/
theorem State.four_le_of_mem_descQueues {s : State} {d : List Word} (h : s.queuesBad d = false) {q : Nat}
    (hq : q ∈ descQueues d) : 4 ≤ q := by
  simp only [State.queuesBad, Bool.or_eq_false_iff, List.any_eq_false] at h
  have := h.1 q hq
  simp only [Bool.or_eq_true, decide_eq_true_eq, not_or] at this
  omega

/-! ## What is accepted -/

/-- A launch as it is accepted from an operation (R144, R294). -/
structure Launch.AcceptedFrom (l : Launch) (o : CopyOp) (num : Nat) : Prop where
  num : l.num = num
  op : l.op = o.id
  blocks : l.blocks = descBlocks o.packet
  killed : l.killed = false
  left : l.left = List.range (descBlocks o.packet)
  placed : l.placed = 0
  relaunch : l.relaunch = false
  asid : l.asid = o.asid

theorem Launch.AcceptedFrom.congr {l k : Launch} {o : CopyOp} {num : Nat} (h : l.AcceptedFrom o num)
    (hk : k.uncounted = l.uncounted) : k.AcceptedFrom o num :=
  ⟨(congrArg Launch.num hk).trans h.num, (congrArg Launch.op hk).trans h.op, (congrArg Launch.blocks hk).trans h.blocks,
    (congrArg Launch.killed hk).trans h.killed, (congrArg Launch.left hk).trans h.left,
    (congrArg Launch.placed hk).trans h.placed, (congrArg Launch.relaunch hk).trans h.relaunch,
    (congrArg Launch.asid hk).trans h.asid⟩

/-- A launch joins the live ones, and its operation waits no more (R288). -/
def State.registered (s : State) (l : Launch) (id : Nat) : State :=
  s.onDist fun d => { d with launches := d.launches ++ [l], waiting := d.waiting.filter fun k => !decide (k = id) }

/-- The queues of a descriptor opened for a launch. -/
def State.openedFor (s : State) (d : List Word) (num : Nat) : State :=
  (descQueues d).foldl (fun s q => s.onQueue q fun _ => openedQueue num (descWire d) q) s

/-- The tile of a launch written, and the launch's clock begun (R116, R311). -/
def State.tileWritten (s : State) (o : CopyOp) (num : Nat) : State :=
  let t := s.writeTile o.asid (dw64 o.packet 2)
  t.2.onLaunch num fun l => { l with clock := mergeMax o.clock t.1 }

/-- The acceptance of a launch that names no trace, step by step. -/
theorem State.acceptLaunch_eq {s : State} {o : CopyOp} (hkind : o.kind = 5) (htrace : dw o.packet 6 = 0) (num : Nat)
    (image : Image) (tile : List Byte) (table : List (Nat × Nat × Nat)) :
    ∃ l : Launch, l.AcceptedFrom o num ∧ l.deps = [] ∧ s.acceptLaunch o num image tile table =
      (blockRecords o.packet num image tile table).foldl (fun s r => s.enterRecord (field (dw o.packet 5) 0 2) r)
        (((s.registered l o.id).openedFor o.packet num).tileWritten o num) := by
  have hre : decide (o.kind = 6) = false := by rw [hkind]; rfl
  rw [State.acceptLaunch]
  simp only [hre, Bool.false_eq_true, if_false, if_pos htrace]
  exact ⟨_, ⟨rfl, rfl, rfl, rfl, rfl, rfl, rfl, rfl⟩, rfl, rfl⟩

/-- The lowest free number is one that no launch has. -/
theorem Distributor.freeNumber_spec {d : Distributor} {num : Nat} (h : d.freeNumber = some num) :
    num < 4096 ∧ ∀ k ∈ d.launches, k.num ≠ num := by
  rw [Distributor.freeNumber] at h
  have hfree := List.find?_some h
  have hmem := List.mem_of_find?_eq_some h
  simp only [Bool.not_eq_true', List.any_eq_false, decide_eq_true_eq] at hfree
  exact ⟨List.mem_range.mp hmem, hfree⟩

/-- The block table's PRED fit their field (R284). -/
theorem blockTable_pred_lt {d : List Word} {tile : List Byte} {t : List (Nat × Nat × Nat)} (h : blockTable d tile = some t)
    (b : Nat) : (t.getD b (0, 0, 0)).1 < 65536 := by
  have hall : ∀ e ∈ t, e.1 < 65536 := by
    unfold blockTable at h
    dsimp only at h
    split at h
    · cases h
      intro e he
      rw [(List.mem_replicate.mp he).2]
      decide
    · split at h
      · cases h
      · split at h
        · cases h
          intro e he
          obtain ⟨k, -, rfl⟩ := List.mem_map.mp he
          exact Nat.mod_lt _ (by decide)
        · cases h
  rw [List.getD_eq_getElem?_getD]
  cases hb : t[b]? with
  | none => decide
  | some e => exact hall e (List.mem_of_getElem? hb)

/-- What a block's record adds to its counter is its PRED. -/
theorem pred_blockRecord {d : List Word} {num : Nat} {image : Image} {pred nsucc slist b : Nat} {succ : List Nat}
    (h : pred < 65536) : field (dw (blockRecord d num image pred nsucc slist b succ).words 2) 0 16 = pred := by
  have hw : dw (blockRecord d num image pred nsucc slist b succ).words 2 = (pred + 65536 * nsucc) % 2 ^ 32 :=
    BitVec.toNat_ofNat _ _
  rw [hw, field]
  omega

/-- A launch of which no other has the number stands last; a change of it by its number is a change of the last. -/
theorem State.launches_onLaunch_last {s : State} {ls : List Launch} {l : Launch} {num : Nat} (h : s.dist.launches = ls ++ [l])
    (hls : ∀ k ∈ ls, k.num ≠ num) (hl : l.num = num) (f : Launch → Launch) :
    (s.onLaunch num f).dist.launches = ls ++ [f l] := by
  change replaceFirst (fun k => decide (k.num = num)) f s.dist.launches = _
  rw [h]
  exact replaceFirst_concat f (fun k hk => decide_eq_false (hls k hk)) (decide_eq_true hl)

/-- The one block by which the tile's address goes out (R116, R313, R316). -/
def Stamped.carriesTile (w : Stamped) (s : State) (a param : Nat) : Prop :=
  w.home = true ∧ w.space = 0 ∧ w.src = 0 ∧ w.num = (s.die 0).sent + 1 ∧ w.clock = s.clockOf 0 ∧ w.addr = a ∧
    w.bytes = toBytes param 8 ∧ w.watched = false ∧ s.cycle < w.due

/-- A launch put on the list, its queues opened and its tile written: what its blocks' records find. -/
structure State.Begun (s t : State) (o : CopyOp) (num : Nat) (a : Nat) : Prop where
  queues : ∀ j, t.queue j = if j ∈ descQueues o.packet then openedQueue num (descWire o.packet) j else s.queue j
  write : ∃ w ∈ (t.die (homeDie a)).incoming, w.carriesTile s a (dw64 o.packet 2)
  pool : (t.die 0).pool = (s.die 0).pool
  hbm : t.hbm = s.hbm
  rest : t.ops = s.ops ∧ t.cores = s.cores ∧ t.host = s.host ∧ t.pod = s.pod

/-- A translation looks at the dies, HBM, the roots of the tables and the free values alone. -/
theorem State.translateNow_congr {s t : State} (hd : t.dies = s.dies) (hh : t.hbm = s.hbm) (hr : t.roots = s.roots)
    (hf : t.free = s.free) (die asid va : Nat) (write : Bool) :
    t.translateNow die asid va write = s.translateNow die asid va write := by
  cases s
  cases t
  cases hd
  cases hh
  cases hr
  cases hf
  rfl

/-- A launch put on the list, and its queues opened: the rest of the machine is as it was. -/
theorem State.openedFor_registered (s : State) (l : Launch) (o : CopyOp) (num : Nat) :
    ∃ d : Distributor, (s.registered l o.id).openedFor o.packet num = { s with dist := d } ∧
      d.launches = s.dist.launches ++ [l] ∧ ∀ j, Store.get Queue.reset d.queues j =
        if j ∈ descQueues o.packet then openedQueue num (descWire o.packet) j else s.queue j := by
  obtain ⟨hframe, hqueue⟩ := State.openQueues_spec num (descWire o.packet) (descQueues o.packet) (s.registered l o.id)
  exact ⟨_, hframe, rfl, hqueue⟩

theorem State.begun_of_translates {s : State} {o : CopyOp} {leaf : Leaf} {l : Launch} {num : Nat}
    (hnum : ∀ k ∈ s.dist.launches, k.num ≠ num) (hln : l.num = num)
    (hl : s.translateNow 0 o.asid (dw64 o.packet 2) false = some leaf) (hk : leaf.kind = 0) (hrep : leaf.rep = false)
    (ha : leaf.translate (dw64 o.packet 2) % 64 = 0) :
    s.Begun (((s.registered l o.id).openedFor o.packet num).tileWritten o num) o num (leaf.translate (dw64 o.packet 2)) ∧
      ∃ clock, (((s.registered l o.id).openedFor o.packet num).tileWritten o num).dist.launches =
        s.dist.launches ++ [{ l with clock := clock }] := by
  obtain ⟨d, hopened, hlaunches, hqueue⟩ := s.openedFor_registered l o num
  rw [hopened]
  have hleaf : ({ s with dist := d } : State).translateNow 0 o.asid (dw64 o.packet 2) false = some leaf :=
    (State.translateNow_congr (s := s) rfl rfl rfl rfl _ _ _ _).trans hl
  obtain ⟨hown, hhbm, hwrite⟩ := State.writeTile_spec hleaf hk hrep ha
  refine ⟨⟨fun j => (hown.queue j).trans (hqueue j), hwrite, (hown.1.dies 0).2, hhbm, hown.1.ops, hown.1.cores, hown.1.host,
    hown.1.pod⟩, _, State.launches_onLaunch_last (hown.2.2.trans hlaunches) hnum hln _⟩

/-- What an accepted launch that names no trace leaves (R116, R144, R284, R288, R289, R294). -/
structure State.Accepted (s t : State) (o : CopyOp) (num : Nat) (table : List (Nat × Nat × Nat))
    (recs : List Record) (a : Nat) : Prop where
  launches : ∃ l : Launch, t.dist.launches = s.dist.launches ++ [l] ∧ l.AcceptedFrom o num ∧
    ∀ b, b < descBlocks o.packet → Store.get 0 l.deps b = ((table.getD b (0, 0, 0)).1 : Int)
  records : (t.queue (field (dw o.packet 5) 0 2)).recs = (s.queue (field (dw o.packet 5) 0 2)).recs ++ recs
  opened : ∀ q ∈ descQueues o.packet, (t.queue q).launch = some num ∧ (t.queue q).recs = []
  write : ∃ w ∈ (t.die (homeDie a)).incoming, w.carriesTile s a (dw64 o.packet 2)
  hbm : (s.die 0).pool = none → t.hbm = s.hbm
  op : s.opBecomes t o { o with stage := .landing }
  rest : t.cores = s.cores ∧ t.host = s.host ∧ t.pod = s.pod

/-- The counts of the launch that the blocks' records have entered for. -/
theorem counted_blockRecords {ls : List Launch} {l : Launch} {o : CopyOp} {num : Nat} {image : Image} {tile : List Byte}
    {table : List (Nat × Nat × Nat)} (hnum : ∀ k ∈ ls, k.num ≠ num) (hl : l.AcceptedFrom o num) (hdeps : l.deps = [])
    (htable : blockTable o.packet tile = some table) :
    ∃ k : Launch, (blockRecords o.packet num image tile table).foldl (fun ls r => r.counted ls) (ls ++ [l]) = ls ++ [k] ∧
      k.AcceptedFrom o num ∧
      ∀ b, b < descBlocks o.packet → Store.get 0 k.deps b = ((table.getD b (0, 0, 0)).1 : Int) := by
  refine ⟨_, foldl_counted_last hnum _ (fun b => ⟨rfl, rfl⟩) _ hl.num, ?_⟩
  obtain ⟨hsame, -, hget⟩ := l.withCounts_spec (by rw [hdeps]; rfl) (fun b => (table.getD b (0, 0, 0)).1) (descBlocks o.packet)
  simp only [pred_blockRecord (blockTable_pred_lt htable _)]
  refine ⟨hl.congr hsame, fun b hb => ?_⟩
  rw [hget, if_pos hb, hdeps]
  exact Int.zero_add _

/-- The acceptance of a launch that names no trace. -/
theorem State.acceptLaunch_spec {s : State} {o : CopyOp} {num : Nat} (image : Image) {tile : List Byte}
    {table : List (Nat × Nat × Nat)} {leaf : Leaf} (ho : s.op o.id = some o) (hkind : o.kind = 5) (htrace : dw o.packet 6 = 0)
    (hnum : ∀ k ∈ s.dist.launches, k.num ≠ num) (hqueues : s.queuesBad o.packet = false)
    (htable : blockTable o.packet tile = some table)
    (hl : s.translateNow 0 o.asid (dw64 o.packet 2) false = some leaf) (hk : leaf.kind = 0) (hrep : leaf.rep = false)
    (ha : leaf.translate (dw64 o.packet 2) % 64 = 0) :
    s.Accepted ((s.setOp { o with stage := .landing }).acceptLaunch o num image tile table) o num table
      (blockRecords o.packet num image tile table) (leaf.translate (dw64 o.packet 2)) := by
  obtain ⟨l, hl0, hdeps, ht⟩ :=
    State.acceptLaunch_eq (s := s.setOp { o with stage := .landing }) hkind htrace num image tile table
  obtain ⟨hbegun, clock, hlaunches⟩ :=
    State.begun_of_translates (s := s.setOp { o with stage := .landing }) hnum hl0.num hl hk hrep ha
  rw [ht]
  generalize (((s.setOp { o with stage := .landing }).registered l o.id).openedFor o.packet num).tileWritten o num = u
    at hbegun hlaunches
  obtain ⟨hwr, hrecs, hother, hcount, hhbm⟩ :=
    State.enterRecords_spec (field (dw o.packet 5) 0 2) (blockRecords o.packet num image tile table) u
  have hprio : ∀ q ∈ descQueues o.packet, q ≠ field (dw o.packet 5) 0 2 := fun q hq => by
    have h4 := State.four_le_of_mem_descQueues hqueues hq
    have : field (dw o.packet 5) 0 2 < 4 := Nat.mod_lt _ (by decide)
    omega
  obtain ⟨hops, hcores, hhost, hpod⟩ := hbegun.rest
  obtain ⟨w, hw, hcarries⟩ := hbegun.write
  refine ⟨?_, ?_, fun q hq => ?_, ⟨w, (hwr.dies _).1 hw, hcarries⟩, fun hp => (hhbm (hbegun.pool.trans hp)).trans hbegun.hbm,
    (State.opBecomes_setOp (p := { o with stage := .landing }) ho rfl).congr (hwr.ops.trans hops),
    hwr.cores.trans hcores, hwr.host.trans hhost, hwr.pod.trans hpod⟩
  · obtain ⟨k, hk, hrest⟩ := counted_blockRecords (l := { l with clock := clock }) (image := image) hnum
      ⟨hl0.num, hl0.op, hl0.blocks, hl0.killed, hl0.left, hl0.placed, hl0.relaunch, hl0.asid⟩ hdeps htable
    rw [hlaunches] at hcount
    exact ⟨k, hcount.trans hk, hrest⟩
  · rw [hrecs, hbegun.queues, if_neg fun h => hprio _ h rfl]
    rfl
  · rw [hother q (hprio q hq), hbegun.queues, if_pos hq]
    exact ⟨rfl, rfl⟩

/-- What a launch's records say of its blocks. -/
theorem map_blockRecords (d : List Word) (num : Nat) (image : Image) (tile : List Byte) (table : List (Nat × Nat × Nat)) :
    ((blockRecords d num image tile table).map fun k => (k.blk, k.launch, k.entry, k.release, k.ready)) =
      (List.range (descBlocks d)).map fun b => (b, num, image.entry, dw d 13, false) := List.map_map

/-- A launch that passes its checks and names no trace is accepted. -/
theorem exec_launchAccept_accepted {s : State} {o : CopyOp} {tile head : List Byte} {tb : List (Nat × Nat × Nat)} {leaf : Leaf}
    (ho : s.op o.id = some o) (hr : s.launchReady o = true) (hkind : o.kind = 5) (hst : (s.die 0).stage = 6)
    (htrace : dw o.packet 6 = 0) (hfirst : firstFailure (s.launchChecks o.packet o.asid false) = none)
    (htile : s.readRange o.asid (dw64 o.packet 2) 16384 = some tile)
    (hhead : s.readRange o.asid (dw64 o.packet 0) 64 = some head)
    (htable : blockTable o.packet tile = some tb)
    (hl : s.translateNow 0 o.asid (dw64 o.packet 2) false = some leaf) (hk : leaf.kind = 0) (hrep : leaf.rep = false)
    (ha : leaf.translate (dw64 o.packet 2) % 64 = 0) :
    ∃ t num r, exec (.launchAccept o.id) s = .next t ∧ num < 4096 ∧ (∀ k ∈ s.dist.launches, k.num ≠ num) ∧
      s.Accepted t o num tb r (leaf.translate (dw64 o.packet 2)) ∧
      (r.map fun k => (k.blk, k.launch, k.entry, k.release, k.ready)) =
        (List.range (descBlocks o.packet)).map fun b => (b, num, headerWord head 3, dw o.packet 13, false) := by
  have hre : decide (o.kind = 6) = false := by rw [hkind]; rfl
  have hspec := s.checkLaunch_spec o.packet o.asid false
  have hsome : s.dist.freeNumber.isSome = true := by
    simp only [State.launchReady, Bool.and_eq_true] at hr
    exact hr.1.2
  obtain ⟨num, hfree⟩ := Option.isSome_iff_exists.mp hsome
  obtain ⟨hnum, hnums⟩ := Distributor.freeNumber_spec hfree
  cases hcheck : s.checkLaunch o.packet o.asid false with
  | error e =>
    rw [hcheck] at hspec
    exact absurd (hspec.1.symm.trans hfirst) nofun
  | ok r =>
    rw [hcheck] at hspec
    obtain ⟨image, tile', tb'⟩ := r
    obtain ⟨-, htile', ⟨head', hhead', hentry⟩, hqueues, htable'⟩ := hspec
    obtain rfl : tile' = tile := Option.some.inj (htile'.symm.trans htile)
    obtain rfl : tb' = tb := Option.some.inj (htable'.symm.trans htable)
    obtain rfl : head' = head := Option.some.inj (hhead'.symm.trans hhead)
    have hx : exec (.launchAccept o.id) s =
        .next ((s.setOp { o with stage := .landing }).acceptLaunch o num image tile' tb') := by
      have hx : exec (.launchAccept o.id) s = execLaunchAccept o.id s := rfl
      simp only [hx, execLaunchAccept, ho, hr, if_true, if_neg (not_not.mpr hst), hre, hcheck, hfree]
    refine ⟨_, num, _, hx, hnum, hnums, State.acceptLaunch_spec image ho hkind htrace hnums hqueues htable hl hk hrep ha, ?_⟩
    rw [map_blockRecords, hentry]

end Sys2Proof.Machine
end

section
/-! SUPPORT. The end of a launch: its queues close, and it completes (R294, R302, R304). -/

namespace Sys2Proof

/-- A key of a table that reads no default is listed. -/
theorem Store.mem_of_get_ne {α : Type} {d : α} {l : Store α} {k : Nat} (h : Store.get d l k ≠ d) : ∃ e ∈ l, e.1 = k := by
  induction l with
  | nil => exact absurd rfl h
  | cons e l ih =>
    obtain ⟨j, x⟩ := e
    by_cases hk : k = j
    · exact ⟨(j, x), List.mem_cons_self, hk.symm⟩
    · rw [Store.get, if_neg hk] at h
      split at h
      · exact absurd rfl h
      · obtain ⟨e, he, hek⟩ := ih h
        exact ⟨e, List.mem_cons_of_mem _ he, hek⟩

/-- An entry of a table in canonical form is what its key reads. -/
theorem Store.get_of_mem {α : Type} [DecidableEq α] {d : α} {b : Nat} {l : Store α} (h : Store.okAbove d b l = true)
    {e : Nat × α} (he : e ∈ l) : Store.get d l e.1 = e.2 ∧ b ≤ e.1 := by
  induction l generalizing b with
  | nil => cases he
  | cons x l ih =>
    simp only [Store.okAbove, Bool.and_eq_true, decide_eq_true_eq] at h
    rcases List.mem_cons.mp he with rfl | he
    · exact ⟨if_pos rfl, h.1.1⟩
    · obtain ⟨hget, hle⟩ := ih h.2 he
      rw [Store.get, if_neg (by omega), if_neg (by omega)]
      exact ⟨hget, by omega⟩

end Sys2Proof

namespace Sys2Proof.Machine

/-! ## The queues close (R294, R302) -/

/-- Queues closed one after the other, their lent blocks returned. -/
theorem State.closeEntries_spec (mine : Nat → Bool) (l : List (Nat × Queue)) (s : State) :
    let t := l.foldl (fun s e => if mine e.1 then (s.onQueue e.1 fun _ => Queue.reset).lendBlocks 0 0 e.2.ring.blocks else s) s
    (∃ qs ds, t = { s with dist := { s.dist with queues := qs }, dies := ds }) ∧
      ∀ q, t.queue q = if mine q = true ∧ ∃ e ∈ l, e.1 = q then Queue.reset else s.queue q := by
  induction l generalizing s with
  | nil => exact ⟨⟨_, _, rfl⟩, fun q => (if_neg fun ⟨_, _, he, _⟩ => List.not_mem_nil he).symm⟩
  | cons e l ih =>
    have hmem (q : Nat) : (∃ x ∈ e :: l, x.1 = q) ↔ e.1 = q ∨ ∃ x ∈ l, x.1 = q := by
      simp only [List.mem_cons, exists_eq_or_imp]
    by_cases he : mine e.1 = true
    · obtain ⟨⟨qs, ds, hframe⟩, hqueue⟩ := ih ((s.onQueue e.1 fun _ => Queue.reset).lendBlocks 0 0 e.2.ring.blocks)
      rw [List.foldl_cons, if_pos he]
      refine ⟨⟨qs, ds, hframe⟩, fun q => ?_⟩
      have hstep : ((s.onQueue e.1 fun _ => Queue.reset).lendBlocks 0 0 e.2.ring.blocks).queue q =
          if q = e.1 then Queue.reset else s.queue q := s.queue_onQueue e.1 q fun _ => Queue.reset
      rw [hqueue, hstep]
      by_cases hq : q = e.1
      · rw [if_pos hq, ite_self, if_pos ⟨hq ▸ he, hmem q |>.mpr (.inl hq.symm)⟩]
      · rw [if_neg hq]
        exact if_congr (by rw [hmem, or_iff_right (Ne.symm hq)]) rfl rfl
    · obtain ⟨hframe, hqueue⟩ := ih s
      rw [List.foldl_cons, if_neg he]
      refine ⟨hframe, fun q => ?_⟩
      rw [hqueue]
      refine if_congr ⟨fun ⟨h, k⟩ => ⟨h, (hmem q).mpr (.inr k)⟩, fun ⟨h, k⟩ => ⟨h, ((hmem q).mp k).resolve_left ?_⟩⟩ rfl rfl
      rintro rfl
      exact he h

/-- With no mailbox registered, what closing the queues of a launch leaves: its queues reset, and every other as it was. -/
theorem State.closeQueues_spec {s : State} {l : Launch} (hm : s.dist.mailboxes = []) :
    (∃ qs gs ds, s.closeQueues l = { s with dist := { s.dist with queues := qs, gangs := gs }, dies := ds }) ∧
      ∀ q, (s.closeQueues l).queue q = if (s.queue q).launch = some l.num then Queue.reset else s.queue q := by
  obtain ⟨⟨qs, ds, hframe⟩, hqueue⟩ :=
    State.closeEntries_spec (fun q => decide ((s.queue q).launch = some l.num)) s.dist.queues s
  have hmine (q : Nat) : (decide ((s.queue q).launch = some l.num) = true ∧ ∃ e ∈ s.dist.queues, e.1 = q) ↔
      (s.queue q).launch = some l.num := by
    refine ⟨fun h => of_decide_eq_true h.1, fun h => ⟨decide_eq_true h, Store.mem_of_get_ne (d := Queue.reset) fun hr => ?_⟩⟩
    have : (s.queue q).launch = none := congrArg Queue.launch hr
    exact absurd (this.symm.trans h) nofun
  simp only [hmine] at hqueue
  generalize hF : s.dist.queues.foldl (fun s' e => if decide ((s.queue e.1).launch = some l.num) then
    (s'.onQueue e.1 fun _ => Queue.reset).lendBlocks 0 0 e.2.ring.blocks else s') s = F at hframe hqueue
  have hclose : ∃ (p : Nat × Option Mailbox → Bool) (f : CopyOp → CopyOp) (gs : Store (Option Gang)) (ds : Store Die),
      (∀ o, f o = o) ∧ s.closeQueues l = { F with
        dist := { F.dist with mailboxes := F.dist.mailboxes.filter p, gangs := gs }, ops := F.ops.map f, dies := ds } := by
    rw [State.closeQueues, hm, ← hF]
    exact ⟨_, _, _, _, fun _ => rfl, rfl⟩
  obtain ⟨p, f, gs, ds', hf, hclose⟩ := hclose
  obtain rfl : f = id := funext hf
  rw [hclose]
  refine ⟨?_, hqueue⟩
  rw [hframe]
  dsimp only
  rw [hm, List.map_id]
  exact ⟨_, _, _, rfl⟩

/-! ## The launch completes (R302, R303) -/

/-- What closing the queues leaves to be read. -/
theorem State.closeQueues_rest {s : State} {l : Launch} (hm : s.dist.mailboxes = []) : let c := s.closeQueues l
    c.cores = s.cores ∧ c.ops = s.ops ∧ c.cycle = s.cycle ∧ c.hbm = s.hbm ∧ c.host = s.host ∧
      c.dist.launches = s.dist.launches ∧ c.dist.traces = s.dist.traces := by
  obtain ⟨⟨qs, gs, ds, hclose⟩, -⟩ := State.closeQueues_spec (l := l) hm
  rw [hclose]
  exact ⟨rfl, rfl, rfl, rfl, rfl, rfl, rfl⟩

/-- A launch that ends completes its operation; its queues close, and its number is free. -/
theorem State.endLaunch_spec {s : State} {l : Launch} {o : CopyOp} (ho : s.op l.op = some o) (hm : s.dist.mailboxes = [])
    (hq : (s.core o.core).quiet) (hu : o.unseen = []) : let t := s.endLaunch l
    s.opFinished t o [] (if l.killed then 12 else 0) ∧ (∀ k, k ∈ t.dist.launches ↔ k ∈ s.dist.launches ∧ k.num ≠ l.num) ∧
      (∀ q, t.queue q = if (s.queue q).launch = some l.num then Queue.reset else s.queue q) ∧
      t.dist.traces = s.dist.traces ∧ t.hbm = s.hbm ∧ t.host = s.host := by
  have hqueue := (State.closeQueues_spec (l := l) hm).2
  obtain ⟨hcores, hops, hcycle, hhbm, hhost, hlaunches, htraces⟩ := State.closeQueues_rest (l := l) hm
  have hop : (s.closeQueues l).op l.op = some o := by
    rw [State.op, hops]
    exact ho
  simp only [State.endLaunch, hop]
  generalize s.closeQueues l = c at *
  have hqc : (c.core o.core).quiet := by
    rw [State.core, hcores]
    exact hq
  obtain ⟨hend, hdist, hhbm', hhost', -⟩ :=
    State.finishOp_spec (o := { o with status := if l.killed then 12 else 0, kv := mergeMax o.kv l.clock }) hqc hu
  refine ⟨hend.congr hcores.symm hops.symm hcycle.symm rfl rfl, fun k => ?_, fun q => ?_, ?_,
    hhbm'.trans hhbm, hhost'.trans hhost⟩
  · rw [State.onDist, hdist, ← hlaunches]
    simp only [List.mem_filter, Bool.not_eq_true', decide_eq_false_iff_not, ne_eq]
  · rw [← hqueue, State.queue, State.onDist, hdist]
    rfl
  · rw [State.onDist, hdist]
    exact htraces

/-- No record of a launch can still run: each in a queue that is not wired waits for a decrement (R302). -/
theorem State.recordsPending_eq_false_iff {s : State} {l : Launch} (hwf : Store.wf Queue.reset s.dist.queues = true) :
    s.recordsPending l = false ↔ ∀ q, (s.queue q).launch = some l.num → (s.queue q).wired = false →
      ∀ r ∈ (s.queue q).recs, r.ready = false ∧ Store.get 0 l.deps r.blk ≠ 0 := by
  simp only [State.recordsPending, List.any_eq_false, Bool.and_eq_true, Bool.not_eq_true', decide_eq_true_eq, List.any_eq_true,
    Bool.or_eq_true, not_and, not_exists, not_or, Bool.not_eq_true, ne_eq]
  constructor
  · intro h q hq hw r hr
    obtain ⟨e, he, rfl⟩ := Store.mem_of_get_ne (d := Queue.reset) (l := s.dist.queues) (k := q) fun hreset => by
      have : (s.queue q).launch = none := congrArg Queue.launch hreset
      exact absurd (this.symm.trans hq) nofun
    have hget : s.queue e.1 = e.2 := (Store.get_of_mem hwf he).1
    rw [hget] at hq hw hr
    exact h e he ⟨hq, hw⟩ r hr
  · intro h e he hmine r hr
    have hget : s.queue e.1 = e.2 := (Store.get_of_mem hwf he).1
    exact h e.1 (by rw [hget]; exact hmine.1) (by rw [hget]; exact hmine.2) r (by rw [hget]; exact hr)

/-- When a launch that is no relaunch has come to its end (R144, R302). -/
theorem State.launchDone_iff {s : State} {l : Launch} (hwf : Store.wf Queue.reset s.dist.queues = true)
    (hre : l.relaunch = false) : s.launchDone l = true ↔ l.left = [] ∧ l.placed = 0 ∧ s.stillWrites l = false ∧
      (∀ id ∈ l.writes, s.visible id = true) ∧ ∀ q, (s.queue q).launch = some l.num → (s.queue q).wired = false →
        ∀ r ∈ (s.queue q).recs, r.ready = false ∧ Store.get 0 l.deps r.blk ≠ 0 := by
  rw [← State.recordsPending_eq_false_iff hwf]
  simp only [State.launchDone, hre, Bool.and_eq_true, Bool.not_eq_true', Bool.not_false, Bool.true_or, List.isEmpty_iff,
    decide_eq_true_eq, List.all_eq_true]
  tauto

theorem exec_launchComplete {s : State} {l : Launch} (hl : s.launch l.num = some l) (hre : l.relaunch = false) :
    exec (.launchComplete l.num) s = .next (if s.launchDone l = true then s.endLaunch l else s) := by
  have hx : exec (.launchComplete l.num) s = execLaunchComplete l.num s := rfl
  simp only [hx, execLaunchComplete, hl, hre, Bool.not_false, Bool.true_and]

end Sys2Proof.Machine
end

section
/-! SUPPORT. Traces are created and released (R145, R351 to R353). -/

namespace Sys2Proof.Machine

/-! ## The end of a TRACE (R145) -/

/-- The words that a TRACE returns beside its STATUS. -/
def handleWords (status handle : Nat) : List (Nat × Word) :=
  if status = 0 ∧ handle ≠ 0 then [(56, BitVec.ofNat 32 handle)] else []

/-- A TRACE that ends on a quiet core. -/
theorem State.endTrace_spec {s : State} {o : CopyOp} (hq : (s.core o.core).quiet) (hu : o.unseen = []) (status handle : Nat) :
    let t := s.endTrace o status handle
    s.opFinished t o ((s.core o.core).lastCells o (handleWords status handle)) status ∧ t.dist.traces = s.dist.traces := by
  have hend : s.opFinished
      (s.closeOp { o with status := status } (handleWords status handle ++ [(60, BitVec.ofNat 32 status)])) o
      ((s.core o.core).lastCells o (handleWords status handle)) status :=
    State.opFinished_closeOp (o := { o with status := status }) hq hu (handleWords status handle) status
  refine ⟨hend.congr rfl rfl rfl rfl rfl, ?_⟩
  simp only [State.endTrace, State.onDist]
  rw [State.closeOp_of_quiet (o := { o with status := status }) hq hu]

/-! ## TRACE_COMPLETE (R351, R353) -/

section
variable {s : State} {o : CopyOp} (ho : s.op o.id = some o)
include ho

/-- A release waits for the launches that name its trace. -/
theorem exec_traceComplete_busy (hh : dw o.packet 14 ≠ 0) (hl : ∃ l ∈ s.dist.launches, l.trace = dw o.packet 14) :
    exec (.traceComplete o.id) s = .next s := by
  have hx : exec (.traceComplete o.id) s = execTraceComplete o.id s := rfl
  have hbusy : s.dist.traceBusy (dw o.packet 14) = true := by
    obtain ⟨l, hl, ht⟩ := hl
    simp only [Distributor.traceBusy, Bool.and_eq_true, decide_eq_true_eq, List.any_eq_true]
    exact ⟨hh, l, hl, ht⟩
  simp only [hx, execTraceComplete, ho, State.traceReady, hbusy, Bool.not_true, Bool.and_false, Bool.not_false, if_true]

variable (hkind : o.kind = 7) (hb : o.notBefore ≤ s.cycle) (hst : o.stage = .ready)
include hkind hb hst

omit ho in
theorem State.traceReady_of (hfree : dw o.packet 14 = 0 ∨ ∀ l ∈ s.dist.launches, l.trace ≠ dw o.packet 14) :
    s.traceReady o = true := by
  have hbusy : s.dist.traceBusy (dw o.packet 14) = false := by
    rcases hfree with h | h
    · simp [Distributor.traceBusy, h]
    · rw [Distributor.traceBusy, List.any_eq_false.mpr fun l hl => by simpa using h l hl, Bool.and_false]
  simp [State.traceReady, hkind, hb, hst, hbusy]

/-- With HANDLE zero a trace is created. -/
theorem exec_traceComplete_create (hh : dw o.packet 14 = 0) : exec (.traceComplete o.id) s = .next (s.createTrace o) := by
  have hx : exec (.traceComplete o.id) s = execTraceComplete o.id s := rfl
  simp only [hx, execTraceComplete, ho, State.traceReady_of hkind hb hst (.inl hh), Bool.not_true, Bool.false_eq_true, if_false,
    if_pos hh]

/-- With a HANDLE its trace is released, where the descriptor is well-formed and the trace is the address space's own. -/
theorem exec_traceComplete_release (hh : dw o.packet 14 ≠ 0) (hl : ∀ l ∈ s.dist.launches, l.trace ≠ dw o.packet 14)
    (hzero : ∀ k, k < 14 → dw o.packet k = 0) {tr : Trace} (ht : s.trace (dw o.packet 14) = some tr) (ha : tr.asid = o.asid) :
    exec (.traceComplete o.id) s = .next ((s.onDist fun d =>
      { d with traces := d.traces.filter fun k => !decide (k.handle = dw o.packet 14) }).endTrace o 0 0) := by
  have hx : exec (.traceComplete o.id) s = execTraceComplete o.id s := rfl
  have hany : ((List.range 14).any fun k => decide (dw o.packet k ≠ 0)) = false :=
    List.any_eq_false.mpr fun k hk => by simpa using hzero k (List.mem_range.mp hk)
  simp only [hx, execTraceComplete, ho, State.traceReady_of hkind hb hst (.inr hl), Bool.not_true, Bool.false_eq_true, if_false,
    if_neg hh, hany, ht, if_pos ha]

/-- A release that is refused ends with STATUS 4. -/
theorem exec_traceComplete_refused (hh : dw o.packet 14 ≠ 0) (hl : ∀ l ∈ s.dist.launches, l.trace ≠ dw o.packet 14)
    (h : (∃ k, k < 14 ∧ dw o.packet k ≠ 0) ∨ s.trace (dw o.packet 14) = none ∨
      ∃ tr, s.trace (dw o.packet 14) = some tr ∧ tr.asid ≠ o.asid) :
    exec (.traceComplete o.id) s = .next (s.endTrace o 4 0) := by
  have hx : exec (.traceComplete o.id) s = execTraceComplete o.id s := rfl
  simp only [hx, execTraceComplete, ho, State.traceReady_of hkind hb hst (.inr hl), Bool.not_true, Bool.false_eq_true, if_false,
    if_neg hh]
  split
  · rfl
  · next hany =>
    rcases h with ⟨k, hk, hne⟩ | hnone | ⟨tr, htr, hne⟩
    · exact absurd (List.any_eq_true.mpr ⟨k, List.mem_range.mpr hk, decide_eq_true hne⟩) hany
    · rw [hnone]
    · simp only [htr, if_neg hne]

end

/-! ## A trace is created (R351 to R353) -/

/-- Are all 64 slots of traces taken? -/
def Distributor.tracesFull (d : Distributor) : Prop := ∀ k, k < 64 → ∃ t ∈ d.traces, t.slot = k

/-- The lowest slot that no trace has. -/
def Distributor.freeSlot (d : Distributor) : Option Nat :=
  (List.range 64).find? fun k => !(d.traces.any fun t => decide (t.slot = k))

theorem Distributor.freeSlot_eq_none_iff {d : Distributor} : d.freeSlot = none ↔ d.tracesFull := by
  simp only [Distributor.freeSlot, List.find?_eq_none, List.mem_range, Bool.not_eq_true', Bool.not_eq_false, List.any_eq_true,
    decide_eq_true_eq, Distributor.tracesFull]

theorem Distributor.freeSlot_spec {d : Distributor} {k : Nat} (h : d.freeSlot = some k) :
    k < 64 ∧ ∀ t ∈ d.traces, t.slot ≠ k := by
  rw [Distributor.freeSlot] at h
  have hfree := List.find?_some h
  have hmem := List.mem_of_find?_eq_some h
  simp only [Bool.not_eq_true', List.any_eq_false, decide_eq_true_eq] at hfree
  exact ⟨List.mem_range.mp hmem, hfree⟩

/-- Watched tiles of a descriptor. -/
def traceTotal (d : List Word) : Nat := ((traceWindows d).map fun w => w.2).sum

/-- The trace that a descriptor describes. -/
def newTrace (d : List Word) (slot gen asid : Nat) (watch : List (Nat × Nat)) : Trace :=
  { slot := slot, gen := gen, asid := asid, bmap := traceBmap d, isLocal := bitOf (dw d 1) 31, windows := traceWindows d,
    watch := watch, recorded := none, recs := [], stale := [], lost := false, lostRun := false }

/-- A trace put on the list, with the next generation (R353). -/
def State.armed (s : State) (t : Trace) : State :=
  s.onDist fun e => { e with traces := e.traces ++ [t], traceGen := if e.traceGen + 1 < 2 ^ 26 then e.traceGen + 1 else 1 }

/-- The creation of a trace, check by check (R351). -/
theorem State.createTrace_eq (s : State) (o : CopyOp) : s.createTrace o =
    if !traceOk o.packet then s.endTrace o 2 0
    else match s.dist.freeSlot with
      | none => s.endTrace o 3 0
      | some k =>
        if s.dist.trsbase = 0 ∨ o.accepted = false then s.endTrace o 3 0
        else match s.watchWindows o.asid 0 (traceWindows o.packet) with
          | none => s.endTrace o 1 0
          | some watch =>
            if !s.ownWritable o.asid (traceOwn (traceBmap o.packet) (traceTotal o.packet)) then s.endTrace o 1 0
            else
              let t := newTrace o.packet k s.dist.traceGen o.asid watch
              ((s.armed t).writeTrace t.handle o.asid t.bmap (zeroBytes (t.bitmapBytes + 64))).endTrace o 0 t.handle := rfl

/-- What refuses the creation of a trace, with its STATUS (R145, R351). -/
theorem State.createTrace_refused {s : State} {o : CopyOp} {status : Nat}
    (h : (traceOk o.packet = false ∧ status = 2) ∨
      (traceOk o.packet = true ∧ (s.dist.tracesFull ∨ s.dist.trsbase = 0 ∨ o.accepted = false) ∧ status = 3) ∨
      (traceOk o.packet = true ∧ ¬ s.dist.tracesFull ∧ s.dist.trsbase ≠ 0 ∧ o.accepted = true ∧
        (s.watchWindows o.asid 0 (traceWindows o.packet) = none ∨
          s.ownWritable o.asid (traceOwn (traceBmap o.packet) (traceTotal o.packet)) = false) ∧ status = 1)) :
    s.createTrace o = s.endTrace o status 0 := by
  rw [State.createTrace_eq]
  rcases h with ⟨hok, rfl⟩ | ⟨hok, hfull, rfl⟩ | ⟨hok, hfull, hbase, hacc, hmem, rfl⟩
  · rw [hok]
    rfl
  · rw [hok]
    cases hslot : s.dist.freeSlot with
    | none => rfl
    | some k =>
      have hnot : ¬ s.dist.tracesFull := fun h => by
        rw [Distributor.freeSlot_eq_none_iff.mpr h] at hslot
        cases hslot
      exact if_pos (hfull.resolve_left hnot)
  · have hgo : ¬ (s.dist.trsbase = 0 ∨ o.accepted = false) := by simp [hbase, hacc]
    cases hslot : s.dist.freeSlot with
    | none => exact absurd (Distributor.freeSlot_eq_none_iff.mp hslot) hfull
    | some k =>
      simp only [hok, Bool.not_true, Bool.false_eq_true, if_false, if_neg hgo]
      cases hwatch : s.watchWindows o.asid 0 (traceWindows o.packet) with
      | none => rfl
      | some w => simp only [hmem.resolve_left (by simp [hwatch]), Bool.not_false, if_true]

/-- A trace that passes its checks. -/
theorem State.createTrace_armed {s : State} {o : CopyOp} {w : List (Nat × Nat)} (hok : traceOk o.packet = true)
    (hfull : ¬ s.dist.tracesFull) (hbase : s.dist.trsbase ≠ 0) (hacc : o.accepted = true)
    (hwatch : s.watchWindows o.asid 0 (traceWindows o.packet) = some w)
    (hown : s.ownWritable o.asid (traceOwn (traceBmap o.packet) (traceTotal o.packet)) = true) :
    ∃ k, s.dist.freeSlot = some k ∧ (let t := newTrace o.packet k s.dist.traceGen o.asid w
      s.createTrace o =
        ((s.armed t).writeTrace t.handle o.asid t.bmap (zeroBytes (t.bitmapBytes + 64))).endTrace o 0 t.handle) := by
  have hgo : ¬ (s.dist.trsbase = 0 ∨ o.accepted = false) := by simp [hbase, hacc]
  cases hslot : s.dist.freeSlot with
  | none => exact absurd (Distributor.freeSlot_eq_none_iff.mp hslot) hfull
  | some k =>
    refine ⟨k, rfl, ?_⟩
    simp only [State.createTrace_eq, hok, hslot, if_neg hgo, hwatch, hown, Bool.not_true, Bool.false_eq_true, if_false]

/-- What the creation of a trace leaves: it stands last among the traces, and its handle is returned. -/
theorem State.createTrace_spec {s : State} {o : CopyOp} {t : Trace} (hq : (s.core o.core).quiet) (hu : o.unseen = [])
    (bytes : List Byte) : let u := ((s.armed t).writeTrace t.handle o.asid t.bmap bytes).endTrace o 0 t.handle
    (∃ pre tr, u.dist.traces = pre ++ [tr] ∧ (pre.map fun k => k.handle) = (s.dist.traces.map fun k => k.handle) ∧
      tr.unlost = t.unlost) ∧
    s.opFinished u o ((s.core o.core).lastCells o (handleWords 0 t.handle)) 0 := by
  have hwr := (State.OwnWrites.writeTrace (s.armed t) t.handle o.asid t.bmap bytes).1
  generalize (s.armed t).writeTrace t.handle o.asid t.bmap bytes = v at hwr
  have hcore : v.core o.core = s.core o.core := by
    rw [State.core, hwr.cores]
    rfl
  have hqv : (v.core o.core).quiet := by rw [hcore]; exact hq
  obtain ⟨hend, htraces⟩ := State.endTrace_spec hqv hu 0 t.handle
  rw [hcore] at hend
  refine ⟨?_, hend.congr hwr.cores.symm hwr.ops.symm hwr.cycle.symm rfl rfl⟩
  have hmap : v.dist.traces.map Trace.unlost = s.dist.traces.map Trace.unlost ++ [t.unlost] := by
    rw [hwr.traces]
    exact List.map_append
  obtain ⟨pre, last, hv, hpre, hlast⟩ := List.map_eq_append_iff.mp hmap
  obtain ⟨tr, rfl, htr⟩ := List.map_eq_singleton_iff.mp hlast
  refine ⟨pre, tr, htraces.trans hv, ?_, htr⟩
  have := congrArg (List.map Trace.handle) hpre
  rw [List.map_map, List.map_map] at this
  exact this

end Sys2Proof.Machine
end

section
/-! SUPPORT. The blocks that a relaunch runs: the smallest set that obeys R363 (R352, R362 to R365). -/

namespace Sys2Proof.Machine

/-! ## The closure (R363) -/

/-- A set that holds the successors of its blocks, and a gang whole. -/
def SuccClosed (n : Nat) (gang : Bool) (recs : List Record) (p : Nat → Prop) : Prop :=
  (∀ r ∈ recs, p r.blk → ∀ c ∈ r.succ, c < n → p c) ∧ (gang = true → ∀ b, p b → ∀ c, c < n → p c)

/-- One round adds the successors, or the whole gang. -/
theorem mem_closeOnce {n : Nat} {gang : Bool} {recs : List Record} {set : List Nat} {b : Nat} :
    b ∈ closeOnce n gang recs set ↔
      b < n ∧ ((gang = true ∧ set ≠ []) ∨ b ∈ set ∨ ∃ r ∈ recs, r.blk ∈ set ∧ b ∈ r.succ) := by
  unfold closeOnce
  split
  · next h =>
    simp only [Bool.and_eq_true, Bool.not_eq_true', List.isEmpty_eq_false_iff] at h
    simp [h]
  · next h =>
    simp only [Bool.and_eq_true, Bool.not_eq_true', List.isEmpty_eq_false_iff] at h
    simp [h]

/-- What a round leaves is some of the blocks in ascending order. -/
def Ascending (n : Nat) (set : List Nat) : Prop := ∃ f : Nat → Bool, set = (List.range n).filter f

theorem Ascending.lt {n : Nat} {set : List Nat} (h : Ascending n set) {b : Nat} (hb : b ∈ set) : b < n := by
  obtain ⟨f, rfl⟩ := h
  exact List.mem_range.mp (List.mem_filter.mp hb).1

theorem ascending_closeOnce (n : Nat) (gang : Bool) (recs : List Record) (set : List Nat) :
    Ascending n (closeOnce n gang recs set) := by
  unfold closeOnce
  split
  · exact ⟨fun _ => true, (List.filter_true _).symm⟩
  · exact ⟨_, rfl⟩

/-- A round that changes a set makes it longer. -/
theorem length_lt_closeOnce {n : Nat} {gang : Bool} {recs : List Record} {set : List Nat} (h : Ascending n set)
    (hne : closeOnce n gang recs set ≠ set) : set.length < (closeOnce n gang recs set).length := by
  have hsub : set ⊆ closeOnce n gang recs set := fun b hb => mem_closeOnce.mpr ⟨h.lt hb, .inr (.inl hb)⟩
  obtain ⟨g, hg⟩ := ascending_closeOnce n gang recs set
  rw [hg] at hne hsub ⊢
  obtain ⟨f, rfl⟩ := h
  have hle : ((List.range n).filter f).Sublist ((List.range n).filter g) := by
    have : (List.range n).filter f = ((List.range n).filter g).filter f := by
      rw [List.filter_filter]
      refine List.filter_congr fun b hb => ?_
      cases hf : f b with
      | false => rfl
      | true => simp [(List.mem_filter.mp (hsub (List.mem_filter.mpr ⟨hb, hf⟩))).2]
    rw [this]
    exact List.filter_sublist
  exact lt_of_le_of_ne hle.length_le fun hlen => hne (hle.eq_of_length hlen).symm

/-- With a round for each block left, and one more, the closure is reached. -/
theorem closeOnce_closure {n : Nat} {gang : Bool} {recs : List Record} {fuel : Nat} {set : List Nat} (h : Ascending n set)
    (hfuel : n < set.length + fuel) : closeOnce n gang recs (closure n gang recs fuel set) = closure n gang recs fuel set := by
  induction fuel generalizing set with
  | zero =>
    obtain ⟨f, rfl⟩ := h
    have := List.length_filter_le f (List.range n)
    rw [List.length_range] at this
    omega
  | succ fuel ih =>
    rw [closure]
    by_cases hfix : closeOnce n gang recs set = set
    · have hstay (k : Nat) : closure n gang recs k set = set := by
        induction k with
        | zero => rfl
        | succ k ihk => rw [closure, hfix, ihk]
      rw [hfix, hstay, hfix]
    · have hlt := length_lt_closeOnce h hfix
      exact ih (ascending_closeOnce n gang recs set) (by omega)

/-- The closure is closed. -/
theorem succClosed_closure {n : Nat} {gang : Bool} {recs : List Record} {set : List Nat} (h : Ascending n set) :
    SuccClosed n gang recs fun b => b ∈ closure n gang recs (n + 1) set := by
  have hfix := closeOnce_closure (gang := gang) (recs := recs) h (show n < set.length + (n + 1) by omega)
  refine ⟨fun r hr hb c hc hcn => ?_, fun hg b hb c hcn => ?_⟩
  · rw [← hfix]
    exact mem_closeOnce.mpr ⟨hcn, .inr (.inr ⟨r, hr, hb, hc⟩)⟩
  · rw [← hfix]
    exact mem_closeOnce.mpr ⟨hcn, .inl ⟨hg, List.ne_nil_of_mem hb⟩⟩

/-- The closure holds the set, and its blocks only. -/
theorem subset_closure {n : Nat} {gang : Bool} {recs : List Record} (fuel : Nat) {set : List Nat} (h : Ascending n set) :
    set ⊆ closure n gang recs fuel set ∧ Ascending n (closure n gang recs fuel set) := by
  induction fuel generalizing set with
  | zero => exact ⟨List.Subset.refl _, h⟩
  | succ fuel ih =>
    obtain ⟨hsub, hasc⟩ := ih (ascending_closeOnce n gang recs set)
    exact ⟨fun b hb => hsub (mem_closeOnce.mpr ⟨h.lt hb, .inr (.inl hb)⟩), hasc⟩

/-- No closed set that holds the set is smaller than the closure. -/
theorem closure_subset {n : Nat} {gang : Bool} {recs : List Record} {p : Nat → Prop}
    (hp : SuccClosed n gang recs p) (fuel : Nat) {set : List Nat} (h : ∀ b ∈ set, p b) :
    ∀ b ∈ closure n gang recs fuel set, p b := by
  induction fuel generalizing set with
  | zero => exact h
  | succ fuel ih =>
    refine ih fun b hb => ?_
    obtain ⟨hbn, ⟨hg, hne⟩ | hb | ⟨r, hr, hrb, hbs⟩⟩ := mem_closeOnce.mp hb
    · obtain ⟨c, hc⟩ := List.exists_mem_of_ne_nil set hne
      exact hp.2 hg c (h c hc) b hbn
    · exact h b hb
    · exact hp.1 r hr (h _ hrb) b hbs hbn

/-! ## The blocks that must run (R363, R364) -/

theorem runsMeet_iff {runs : List (Nat × Nat)} {tiles : List Nat} :
    runsMeet runs tiles = true ↔ ∃ x, x ∈ tiles ∧ inRuns runs x := by
  simp only [runsMeet, inRuns, List.any_eq_true, Bool.and_eq_true, decide_eq_true_eq]
  constructor
  · rintro ⟨r, hr, x, hx, h⟩
    exact ⟨x, hx, r, hr, h⟩
  · rintro ⟨x, hx, r, hr, h⟩
    exact ⟨r, hr, x, hx, h⟩

theorem Trace.mem_dirtyTiles {t : Trace} {map : List Byte} {x : Nat} : x ∈ t.dirtyTiles map ↔
    (∃ b, b < t.tileCount ∧ (nth0 map (b / 8)).getLsbD (b % 8) = true ∧ tileOfBit t.windows b = some x) ∨
      (x ∈ t.paramTile ∧ (nth0 map (t.tileCount / 8)).getLsbD (t.tileCount % 8) = true) := by
  simp only [Trace.dirtyTiles, List.mem_flatMap, List.mem_filter, List.mem_range]
  constructor
  · rintro ⟨b, ⟨hb, hbit⟩, hx⟩
    split at hx
    · next h =>
      subst h
      exact .inr ⟨hx, hbit⟩
    · exact .inl ⟨b, by omega, hbit, Option.mem_toList.mp hx⟩
  · rintro (⟨b, hb, hbit, hx⟩ | ⟨hx, hbit⟩)
    · refine ⟨b, ⟨by omega, hbit⟩, ?_⟩
      rw [if_neg (by omega)]
      exact Option.mem_toList.mpr hx
    · exact ⟨t.tileCount, ⟨by omega, hbit⟩, by rw [if_pos rfl]; exact hx⟩

/-- The recorded tile of PARAM is one or none. -/
theorem Trace.mem_paramTile {t : Trace} {x y : Nat} (hx : x ∈ t.paramTile) : t.paramTile = [y] ↔ x = y := by
  unfold Trace.paramTile at hx ⊢
  split
  · next r h =>
    rw [h] at hx
    rw [List.mem_singleton.mp hx]
    simp
  · next h =>
    rw [h] at hx
    cases hx

/-- The tiles that count as dirty are those of R364, and the PARAM that is replaced. -/
theorem Trace.mem_dirty {t : Trace} {map : List Byte} {param x : Nat} : x ∈ t.dirty map param ↔ t.isDirty map param x := by
  have hmoved : x ∈ (if t.paramTile = [param / 16384] then [] else t.paramTile) ↔ x ∈ t.paramTile ∧ x ≠ param / 16384 := by
    by_cases hx : x ∈ t.paramTile
    · simp only [t.mem_paramTile hx, hx, true_and]
      split <;> simp_all
    · split <;> simp_all
  rw [Trace.dirty, List.mem_append, hmoved, Trace.mem_dirtyTiles, or_assoc, ← and_or_left]
  rfl

/-- A block that must run whatever the others do. -/
theorem Trace.mem_mustRun {t : Trace} {n : Nat} {map : List Byte} {param b : Nat} : b ∈ t.mustRun n (t.dirty map param) ↔
    b < n ∧ (t.lost = true ∨ (t.record b).valid = false ∨ (t.record b).rovf = true ∨ (t.record b).ext = true ∨
      (t.record b).loc = true ∨ (t.record b).kill = true ∨ ∃ x, t.isDirty map param x ∧ inRuns (t.record b).reads x) := by
  simp only [Trace.mustRun, List.mem_filter, List.mem_range, Bool.or_eq_true, Bool.not_eq_true', TraceRec.alwaysRun,
    runsMeet_iff, Trace.mem_dirty, or_assoc]

/-- The choice of a relaunch is the smallest set that obeys R363. -/
theorem Launch.choose_spec (l : Launch) (t : Trace) (map : List Byte) :
    l.closed t map (fun b => b ∈ l.choose t map) ∧ (∀ b ∈ l.choose t map, b < l.blocks) ∧
      ∀ p : Nat → Prop, l.closed t map p → ∀ b ∈ l.choose t map, p b := by
  have hasc : Ascending l.blocks (t.mustRun l.blocks (t.dirty map l.param)) := ⟨_, rfl⟩
  obtain ⟨hsub, hasc'⟩ := subset_closure (gang := l.gang) (recs := l.prepared) (l.blocks + 1) hasc
  obtain ⟨hsucc, hgang⟩ := succClosed_closure (gang := l.gang) (recs := l.prepared) hasc
  refine ⟨⟨fun b hb hmust => hsub (Trace.mem_mustRun.mpr ⟨hb, hmust⟩), hsucc, hgang⟩, fun b hb => hasc'.lt hb, fun p hp => ?_⟩
  obtain ⟨hmust, hsuccp, hgangp⟩ := hp
  refine closure_subset ⟨hsuccp, hgangp⟩ _ fun b hb => ?_
  obtain ⟨hbn, hb⟩ := Trace.mem_mustRun.mp hb
  exact hmust b hbn hb

end Sys2Proof.Machine
end

section
/-! SUPPORT. A relaunch consumes the dirty bits and runs its blocks (R352, R361 to R365). -/

namespace Sys2Proof.Machine

/-! ## The trace's own memory within one page (R351, R352, R364) -/

/-- A range within one page is one part. -/
theorem tracePages_one {va n : Nat} (hn : 0 < n) (h : va % 65536 + n ≤ 65536) : tracePages va n = [(va, n)] := by
  have hmin : min n (65536 - va % 65536) = n := by omega
  rw [tracePages, show n / 65536 + 2 = (n / 65536 + 1) + 1 from rfl, pageParts, if_neg (by omega)]
  simp only [hmin, Nat.sub_self, pageParts, if_true]

section
variable {s : State} {asid va n : Nat} {leaf : Leaf} (hl : s.translateNow 0 asid va true = some leaf) (hk : leaf.kind = 0)
  (hn : 0 < n) (hpage : va % 65536 + n ≤ 65536)
include hl hk hn hpage

/-- A read that is served reaches no fenced channel. -/
theorem State.not_fenced_of_readTrace {map : List Byte} (h : s.readTrace asid va n = some map) :
    s.fencedRange (leaf.translate va) n = false := by
  rw [State.readTrace, tracePages_one hn hpage] at h
  simp only [List.foldl_cons, List.foldl_nil, Option.bind_some, hl, hk, decide_true, Bool.true_and] at h
  split at h
  · next hf => simpa using hf
  · cases h

/-- A write to memory that is not fenced goes to HBM. -/
theorem State.writeTrace_page (hrep : leaf.rep = false) (hf : s.fencedRange (leaf.translate va) n = false) (h : Nat)
    {bytes : List Byte} (hb : bytes.length = n) : s.writeTrace h asid va bytes = s.pokeHbm (leaf.translate va) bytes := by
  have htake : bytes.take n = bytes := List.take_of_length_le hb.le
  have hplaces : leaf.places 0 va true = [leaf.translate va] := by rw [Leaf.places, hrep]; rfl
  have hown : s.writeOwn leaf va bytes = some (s.pokeHbm (leaf.translate va) bytes) := by
    simp [State.writeOwn, hk, hplaces, hb, hf]
  simp only [State.writeTrace, hb, tracePages_one hn hpage, List.foldl_cons, List.foldl_nil, hl, Option.bind_some, htake, hown,
    Option.getD_some]

end

theorem Trace.bitmapBytes_pos (t : Trace) : 0 < t.bitmapBytes := by
  simp only [Trace.bitmapBytes, ceilDiv']
  omega

/-- The dirty bits that a relaunch consumes: the distributor is as it was. -/
theorem State.consume_spec {s : State} {t : Trace} {map : List Byte} {leaf : Leaf} (hmap : s.bitmap t = some map)
    (hl : s.translateNow 0 t.asid t.bmap true = some leaf) (hk : leaf.kind = 0) (hrep : leaf.rep = false)
    (hpage : t.bmap % 65536 + t.bitmapBytes ≤ 65536) :
    (s.consume t).1 = map ∧ s.OwnWrites (s.consume t).2 ∧ (s.consume t).2.dist = s.dist := by
  have hf := State.not_fenced_of_readTrace hl hk t.bitmapBytes_pos hpage hmap
  have hw := State.writeTrace_page hl hk t.bitmapBytes_pos hpage hrep hf t.handle
    (bytes := zeroBytes t.bitmapBytes) List.length_replicate
  rw [State.consume, hmap]
  dsimp only
  rw [hw]
  exact ⟨rfl, .pokeHbm _ _ _, State.dist_pokeHbm _ _ _⟩

/-! ## A trace changed -/

/-- The first that meets a test, replaced by one that meets it, is the first. -/
theorem find?_replaceFirst {α : Type} {p : α → Bool} {f : α → α} {l : List α} {x : α} (h : l.find? p = some x)
    (hf : p (f x) = true) : (replaceFirst p f l).find? p = some (f x) := by
  induction l with
  | nil => cases h
  | cons y l ih =>
    by_cases hy : p y = true
    · rw [List.find?_cons_of_pos hy, Option.some.injEq] at h
      subst h
      rw [replaceFirst, if_pos hy, List.find?_cons_of_pos hf]
    · rw [List.find?_cons_of_neg hy] at h
      rw [replaceFirst, if_neg hy, List.find?_cons_of_neg hy, ih h]

/-- The handle of a trace that is found. -/
theorem State.handle_of_trace {s : State} {h : Nat} {t : Trace} (ht : s.trace h = some t) : t.handle = h :=
  of_decide_eq_true (List.find?_some (p := fun t : Trace => decide (t.handle = h)) ht)

/-- A trace changed is the trace found under its handle. -/
theorem State.trace_onTrace {s : State} {h : Nat} {t : Trace} (ht : s.trace h = some t) {f : Trace → Trace}
    (hf : (f t).handle = t.handle) : (s.onTrace h f).trace h = some (f t) :=
  find?_replaceFirst ht (decide_eq_true (hf.trans (State.handle_of_trace ht)))

/-- The records of the blocks that run are begun afresh, and the others kept (R361, R363). -/
theorem Trace.record_rerun (t : Trace) (set : List Nat) (param b : Nat) :
    (t.rerun set param).record b = if set.contains b then TraceRec.empty b else t.record b := by
  have hblk (r : TraceRec) : (if set.contains r.blk then TraceRec.empty r.blk else r).blk = r.blk := by split <;> rfl
  rw [Trace.record, Trace.rerun, List.find?_map]
  simp only [Function.comp_def, hblk, Trace.record]
  cases h : t.recs.find? fun r => decide (r.blk = b) with
  | none =>
    rw [Option.map_none, Option.getD_none, ite_self]
  | some r =>
    have hb : r.blk = b := of_decide_eq_true (List.find?_some (p := fun r : TraceRec => decide (r.blk = b)) h)
    rw [Option.map_some, Option.getD_some, Option.getD_some, hb]

/-! ## The chosen blocks enter their queue (R363, R365) -/

/-- A relaunch with its choice. -/
def Launch.begun (l : Launch) (set : List Nat) (old : List (Nat × Bool × List (Nat × Nat))) : Launch :=
  { l with chosen := some set, left := set, oldW := old, redone := set }

/-- The trace taken over for a relaunch, its new PARAM watched, and the records begun afresh. -/
theorem State.rerunTrace_spec {s : State} {l : Launch} {t : Trace} (ht : s.trace l.trace = some t) (set : List Nat) :
    let u := (((s.onTrace l.trace fun t => t.rerun set l.param).watchParam t l.param).storeRecords l.trace set)
    u.dist.launches = s.dist.launches ∧ (∀ q, u.queue q = s.queue q) ∧ u.cores = s.cores ∧ u.host = s.host ∧ u.pod = s.pod ∧
      ∃ tr, u.trace l.trace = some tr ∧ tr.recs = (t.rerun set l.param).recs := by
  have h1 : (s.onTrace l.trace fun t => t.rerun set l.param).trace l.trace = some (t.rerun set l.param) :=
    State.trace_onTrace ht rfl
  obtain ⟨f, hf, hwatch⟩ : ∃ f : Trace → Trace, (∀ k, (f k).handle = k.handle ∧ (f k).recs = k.recs) ∧
      (s.onTrace l.trace fun t => t.rerun set l.param).watchParam t l.param =
        (s.onTrace l.trace fun t => t.rerun set l.param).onTrace l.trace f := by
    rw [State.watchParam, State.handle_of_trace ht]
    refine ⟨_, ?_, rfl⟩
    exact fun _ => ⟨rfl, rfl⟩
  rw [hwatch]
  have h2 := State.trace_onTrace h1 (hf _).1
  obtain ⟨hwr, hqueues, hlaunches⟩ := State.OwnWrites.storeRecords
    ((s.onTrace l.trace fun t => t.rerun set l.param).onTrace l.trace f) l.trace set
  obtain ⟨tr, htr, hlost⟩ := hwr.trace h2
  refine ⟨hlaunches, fun q => ?_, hwr.cores, hwr.host, hwr.pod, tr, htr, (congrArg Trace.recs hlost).trans (hf _).2⟩
  rw [State.queue, hqueues]
  rfl

/-- What the run of a relaunch leaves. -/
theorem State.rerunBlocks_spec {s : State} {l : Launch} {t : Trace} (hl : s.launch l.num = some l)
    (ht : s.trace l.trace = some t) (set : List Nat) : let u := s.rerunBlocks l t set
    (∃ k, u.launch l.num = some k ∧ k.chosen = some set ∧ k.left = set) ∧
      ((u.queue l.prio).recs.map fun r => r.blk) = ((s.queue l.prio).recs.map fun r => r.blk) ++
        (l.prepared.map fun r => r.blk).filter (fun b => set.contains b) ∧
      (∃ tr, u.trace l.trace = some tr ∧ ∀ b, tr.record b = if set.contains b then TraceRec.empty b else t.record b) ∧
      u.cores = s.cores ∧ u.host = s.host ∧ u.pod = s.pod := by
  obtain ⟨hlaunches, hqueue, hcores, hhost, hpod, tr, htr, hrecs⟩ := State.rerunTrace_spec (l := l) ht set
  let old := set.map fun b => (b, (t.record b).wovf, (t.record b).writes)
  let recs := (l.prepared.filter fun r => set.contains r.blk)
  have hu : s.rerunBlocks l t set = (recs.map fun r => r.withPred (occurrences recs r.blk)).foldl
      (fun s r => s.enterRecord l.prio r)
      ((((s.onTrace l.trace fun t => t.rerun set l.param).watchParam t l.param).storeRecords l.trace set).onLaunch l.num
        fun l => l.begun set old) := by
    rw [List.foldl_map]
    rfl
  rw [hu]
  generalize ((s.onTrace l.trace fun t => t.rerun set l.param).watchParam t l.param).storeRecords l.trace set = v at *
  have hlv : v.launch l.num = some l := by
    rw [State.launch, Distributor.launch, hlaunches]
    exact hl
  have hbegun := State.launch_onLaunch hlv (fun l => l.begun set old) fun _ => rfl
  obtain ⟨hwr, hentered, -, hcount, -⟩ := State.enterRecords_spec l.prio
    (recs.map fun r => r.withPred (occurrences recs r.blk)) (v.onLaunch l.num fun l => l.begun set old)
  obtain ⟨k, hk, hkl⟩ := State.launch_of_uncounted hbegun (by rw [hcount, map_uncounted_counted])
  obtain ⟨tr', htr', hlost⟩ := hwr.trace (tr := tr) htr
  refine ⟨⟨k, hk, (congrArg Launch.chosen hkl : _), (congrArg Launch.left hkl : _)⟩, ?_, ⟨tr', htr', fun b => ?_⟩,
    hwr.cores.trans hcores, hwr.host.trans hhost, hwr.pod.trans hpod⟩
  · have hq : (v.onLaunch l.num fun l => l.begun set old).queue l.prio = s.queue l.prio := hqueue l.prio
    rw [hentered, hq, List.map_append, List.map_map, List.filter_map]
    rfl
  · rw [← Trace.record_rerun t set l.param b, Trace.record, Trace.record, ← hrecs]
    exact congrArg (fun t : Trace => (t.recs.find? fun r => decide (r.blk = b)).getD (TraceRec.empty b)) hlost

/-- RELAUNCH_RUN of a relaunch whose writes are all visible. -/
theorem exec_relaunchRun {s : State} {l : Launch} {t : Trace} (hl : s.launch l.num = some l) (hre : l.relaunch = true)
    (hch : l.chosen = none) (hf : s.forwarding = false) (ht : s.trace l.trace = some t) :
    exec (.relaunchRun l.num) s = .next ((s.consume t).2.rerunBlocks l (((s.consume t).2.trace l.trace).getD t)
      (l.choose (((s.consume t).2.trace l.trace).getD t) (s.consume t).1)) := by
  have hx : exec (.relaunchRun l.num) s = execRelaunchRun l.num s := rfl
  simp only [hx, execRelaunchRun, hl, State.relaunchReady, hre, hch, hf, ht, Option.isNone_none, Bool.and_self, Bool.not_false,
    Bool.not_true, Bool.false_eq_true, if_false]

/-- What it leaves, where the dirty bits can be read and cleared: the blocks of the choice have entered their queue, and are
recorded afresh. -/
theorem exec_relaunchRun_spec {s : State} {l : Launch} {t : Trace} {map : List Byte} {leaf : Leaf}
    (hl : s.launch l.num = some l) (hre : l.relaunch = true) (hch : l.chosen = none) (hf : s.forwarding = false)
    (ht : s.trace l.trace = some t) (hmap : s.bitmap t = some map) (hleaf : s.translateNow 0 t.asid t.bmap true = some leaf)
    (hk : leaf.kind = 0) (hrep : leaf.rep = false) (hpage : t.bmap % 65536 + t.bitmapBytes ≤ 65536) :
    let set := l.choose t map
    ∃ u, exec (.relaunchRun l.num) s = .next u ∧ (∃ k, u.launch l.num = some k ∧ k.chosen = some set ∧ k.left = set) ∧
      ((u.queue l.prio).recs.map fun r => r.blk) = ((s.queue l.prio).recs.map fun r => r.blk) ++
        (l.prepared.map fun r => r.blk).filter (fun b => set.contains b) ∧
      (∃ tr, u.trace l.trace = some tr ∧ ∀ b, tr.record b = if set.contains b then TraceRec.empty b else t.record b) ∧
      u.cores = s.cores ∧ u.host = s.host ∧ u.pod = s.pod := by
  obtain ⟨hbits, hown, hdist⟩ := State.consume_spec hmap hleaf hk hrep hpage
  have hx := exec_relaunchRun hl hre hch hf ht
  rw [hbits] at hx
  generalize (s.consume t).2 = v at *
  have hlv : v.launch l.num = some l := by
    rw [State.launch, hdist]
    exact hl
  have htv : v.trace l.trace = some t := by
    rw [State.trace, hdist]
    exact ht
  rw [htv] at hx
  obtain ⟨hlaunch, hrecs, htrace, hcores, hhost, hpod⟩ := State.rerunBlocks_spec hlv htv (l.choose t map)
  rw [hown.queue] at hrecs
  exact ⟨_, hx, hlaunch, hrecs, htrace, hcores.trans hown.1.cores, hhost.trans hown.1.host, hpod.trans hown.1.pod⟩

end Sys2Proof.Machine
end

section
/-! SUPPORT. The stale set of a relaunch, and its completion (R363, R366). -/

namespace Sys2Proof.Machine

/-! ## Sets of tiles -/

theorem mem_runTiles {runs : List (Nat × Nat)} {x : Nat} : x ∈ runTiles runs ↔ inRuns runs x := by
  simp only [runTiles, inRuns, List.mem_flatMap, List.mem_map, List.mem_range]
  constructor
  · rintro ⟨r, hr, k, hk, rfl⟩
    exact ⟨r, hr, by omega, by omega⟩
  · rintro ⟨r, hr, h1, h2⟩
    exact ⟨r, hr, x - r.1, by omega, by omega⟩

theorem runsMeet_one {runs : List (Nat × Nat)} {x : Nat} : runsMeet runs [x] = true ↔ inRuns runs x := by
  rw [runsMeet_iff]
  simp only [List.mem_singleton, exists_eq_left]

/-! ## The ranges of a stale set (R366) -/

/-- A tile of a stale set. -/
def InStale (l : List (Nat × Nat × Nat)) (x : Nat) : Prop := ∃ e ∈ l, e.1 ≤ x ∧ x < e.1 + e.2.1

theorem inStale_append {l m : List (Nat × Nat × Nat)} {x : Nat} : InStale (l ++ m) x ↔ InStale l x ∨ InStale m x := by
  simp only [InStale, List.mem_append, or_and_right, exists_or]

theorem inStale_cons {e : Nat × Nat × Nat} {l : List (Nat × Nat × Nat)} {x : Nat} :
    InStale (e :: l) x ↔ (e.1 ≤ x ∧ x < e.1 + e.2.1) ∨ InStale l x := by
  simp only [InStale, List.mem_cons, or_and_right, exists_or, exists_eq_left]

/-- Entries that say only that a block's list overflowed name no tile. -/
theorem not_inStale_of_zero {l : List (Nat × Nat × Nat)} (h : ∀ e ∈ l, e.2.1 = 0) (x : Nat) : ¬ InStale l x := by
  rintro ⟨e, he, h1, h2⟩
  have := h e he
  omega

/-- The ranges hold the tiles that were joined, and no other. -/
theorem inStale_staleRanges {l : List (Nat × Nat)} {x : Nat} : InStale (staleRanges l) x ↔ ∃ e ∈ l, e.1 = x := by
  induction l with
  | nil => simp [staleRanges, InStale]
  | cons e l ih =>
    have hnew : InStale (staleRanges (e :: l)) x ↔ x = e.1 ∨ InStale (staleRanges l) x := by
      rw [staleRanges]
      cases hl : staleRanges l with
      | nil =>
        rw [inStale_cons]
        refine or_congr_left ?_
        simp only
        omega
      | cons r m =>
        simp only
        split
        · next h =>
          rw [inStale_cons, inStale_cons, ← or_assoc]
          refine or_congr_left ?_
          simp only
          omega
        · rw [inStale_cons]
          refine or_congr_left ?_
          simp only
          omega
    rw [hnew, ih, eq_comm]
    simp only [List.mem_cons, exists_eq_or_imp]

/-- A tile put into a list of stale tiles. -/
theorem mem_addStale {l : List (Nat × Nat)} {tile blk x : Nat} :
    (∃ e ∈ addStale l tile blk, e.1 = x) ↔ tile = x ∨ ∃ e ∈ l, e.1 = x := by
  rw [addStale]
  cases hl : lookup l tile with
  | none =>
    simp only [mem_insertBy, exists_eq_or_imp]
  | some b =>
    have htile : ∃ e ∈ l, e.1 = tile := by
      by_contra h
      push Not at h
      rw [lookup_eq_none fun e he => (h e he).symm] at hl
      cases hl
    have hkey (e : Nat × Nat) : (if e.1 = tile then (tile, min b blk) else e).1 = e.1 := by
      split
      · exact (‹e.1 = tile›).symm
      · rfl
    simp only [List.mem_map, exists_exists_and_eq_and, hkey]
    constructor
    · exact .inr
    · rintro (rfl | h)
      · exact htile
      · exact h

theorem mem_foldl_addStale {l : List (Nat × Nat)} {x : Nat} (kept : List (Nat × Nat)) :
    (∃ e ∈ l.foldl (fun l e => addStale l e.1 e.2) kept, e.1 = x) ↔ (∃ e ∈ kept, e.1 = x) ∨ ∃ e ∈ l, e.1 = x := by
  induction l generalizing kept with
  | nil => simp
  | cons e l ih =>
    rw [List.foldl_cons, ih, mem_addStale]
    simp only [List.mem_cons, exists_eq_or_imp]
    rw [or_assoc, or_left_comm]

/-! ## UpdateStale (R366) -/

/-- The tiles of a stale set one by one. -/
theorem mem_keptTiles {l : List (Nat × Nat × Nat)} {x : Nat} :
    (∃ e ∈ (l.filter fun e => decide (0 < e.2.1)).flatMap fun e => (List.range e.2.1).map fun k => (e.1 + k, e.2.2), e.1 = x) ↔
      InStale l x := by
  simp only [InStale, List.mem_flatMap, List.mem_filter, List.mem_map, List.mem_range, decide_eq_true_eq]
  constructor
  · rintro ⟨_, ⟨e, ⟨he, -⟩, k, hk, rfl⟩, rfl⟩
    exact ⟨e, he, by dsimp only; omega, by dsimp only; omega⟩
  · rintro ⟨e, he, h1, h2⟩
    exact ⟨(e.1 + (x - e.1), e.2.2), ⟨e, ⟨he, by omega⟩, x - e.1, by omega, rfl⟩, by dsimp only; omega⟩

/-- The tiles that the blocks wrote before and do not write now. -/
theorem mem_droppedTiles {t : Trace} {old : List (Nat × Bool × List (Nat × Nat))} {x : Nat} :
    (∃ e ∈ old.flatMap fun w => ((runTiles w.2.2).filter fun x => !runsMeet (t.record w.1).writes [x]).map fun x => (x, w.1),
      e.1 = x) ↔ ∃ w ∈ old, inRuns w.2.2 x ∧ ¬ inRuns (t.record w.1).writes x := by
  simp only [List.mem_flatMap, List.mem_map, List.mem_filter, Bool.not_eq_true', ← Bool.not_eq_true, runsMeet_one, mem_runTiles]
  constructor
  · rintro ⟨_, ⟨w, hw, y, hy, rfl⟩, rfl⟩
    exact ⟨w, hw, hy⟩
  · rintro ⟨w, hw, hx⟩
    exact ⟨(x, w.1), ⟨w, hw, x, hx, rfl⟩, rfl⟩

/-- The tiles that the valid records of a trace write. -/
theorem inRuns_validWrites {t : Trace} {x : Nat} : inRuns ((t.recs.filter fun r => r.valid).flatMap fun r => r.writes) x ↔
    ∃ r ∈ t.recs, r.valid = true ∧ inRuns r.writes x := by
  simp only [inRuns, List.mem_flatMap, List.mem_filter]
  constructor
  · rintro ⟨w, ⟨r, ⟨hr, hv⟩, hw⟩, h⟩
    exact ⟨r, hr, hv, w, hw, h⟩
  · rintro ⟨r, hr, hv, w, hw, h⟩
    exact ⟨w, ⟨r, ⟨hr, hv⟩, hw⟩, h⟩

/-- The stale set of R366. -/
theorem Trace.inStale_updateStale {t : Trace} {old : List (Nat × Bool × List (Nat × Nat))} {x : Nat} :
    InStale (t.updateStale old) x ↔ (InStale t.stale x ∨ ∃ w ∈ old, inRuns w.2.2 x ∧ ¬ inRuns (t.record w.1).writes x) ∧
      ¬ ∃ r ∈ t.recs, r.valid = true ∧ inRuns r.writes x := by
  have hsort (l : List (Nat × Nat × Nat)) : InStale (sortBy (fun e => e.1) l) x ↔ InStale l x := by
    simp only [InStale, mem_sortBy (fun e : Nat × Nat × Nat => e.1)]
  have hfilter (l : List (Nat × Nat)) (p : Nat → Bool) : (∃ e ∈ l.filter fun e => p e.1, e.1 = x) ↔
      (∃ e ∈ l, e.1 = x) ∧ p x = true := by
    simp only [List.mem_filter]
    constructor
    · rintro ⟨e, ⟨he, hp⟩, rfl⟩
      exact ⟨⟨e, he, rfl⟩, hp⟩
    · rintro ⟨⟨e, he, rfl⟩, hp⟩
      exact ⟨e, ⟨he, hp⟩, rfl⟩
  rw [Trace.updateStale, hsort, inStale_append, inStale_append, or_iff_right, inStale_staleRanges]
  · rw [hfilter _ fun y => !runsMeet _ [y], mem_foldl_addStale, mem_keptTiles, mem_droppedTiles, Bool.not_eq_true',
      ← Bool.not_eq_true, runsMeet_one, inRuns_validWrites]
  · rintro (h | h)
    · exact not_inStale_of_zero (fun e he => of_decide_eq_true (List.mem_filter.mp he).2) x h
    · refine not_inStale_of_zero (fun e he => ?_) x h
      obtain ⟨w, -, rfl⟩ := List.mem_map.mp he
      rfl

/-! ## RELAUNCH_COMPLETE (R363, R366, R367) -/

/-- A relaunch that has come to its end leaves its stale set with the trace, and completes. -/
theorem exec_relaunchComplete {s : State} {o : CopyOp} {l : Launch} {tr : Trace} (hl : s.launch l.num = some l)
    (ho : s.op l.op = some o) (hu : o.unseen = []) (hq : (s.core o.core).quiet) (hre : l.relaunch = true)
    (hdone : s.launchDone l = true) (ht : s.trace l.trace = some tr) (hm : s.dist.mailboxes = []) :
    ∃ t u, exec (.relaunchComplete l.num) s = .next t ∧ s.opFinished t o [] (if l.killed then 12 else 0) ∧
      (∀ k, k ∈ t.dist.launches ↔ k ∈ s.dist.launches ∧ k.num ≠ l.num) ∧ t.trace l.trace = some u ∧ u.recs = tr.recs ∧
      u.stale = tr.updateStale l.oldW := by
  let f : Trace → Trace := fun t => { t with stale := tr.updateStale l.oldW, lost := false }
  obtain ⟨bytes, hx⟩ : ∃ bytes, exec (.relaunchComplete l.num) s =
      .next (((s.onTrace l.trace f).writeTrace l.trace tr.asid (tr.bmap + tr.bitmapBytes) bytes).endLaunch l) := by
    have hx : exec (.relaunchComplete l.num) s = execRelaunchComplete l.num s := rfl
    refine ⟨staleBytes (tr.updateStale l.oldW) (((s.bitmap tr).getD []).any fun b => !decide (b = 0#8)) tr.lostRun
      (l.chosen.getD []).length, ?_⟩
    simp only [hx, execRelaunchComplete, hl, State.relaunchDone, hre, hdone, ht, Bool.and_self, Bool.not_true,
      Bool.false_eq_true, if_false]
    rfl
  have h1 : (s.onTrace l.trace f).trace l.trace = some (f tr) := State.trace_onTrace ht rfl
  obtain ⟨hwr, -, hlaunches⟩ :=
    State.OwnWrites.writeTrace (s.onTrace l.trace f) l.trace tr.asid (tr.bmap + tr.bitmapBytes) bytes
  generalize (s.onTrace l.trace f).writeTrace l.trace tr.asid (tr.bmap + tr.bitmapBytes) bytes = v at *
  obtain ⟨u, hut, hlost⟩ := hwr.trace h1
  have hcores : v.cores = s.cores := hwr.cores
  have hops : v.ops = s.ops := hwr.ops
  have hov : v.op l.op = some o := by
    rw [State.op, hops]
    exact ho
  have hqv : (v.core o.core).quiet := by
    rw [State.core, hcores]
    exact hq
  obtain ⟨hend, hlive, -, htraces, -, -⟩ := State.endLaunch_spec hov (hwr.mailboxes.trans hm) hqv hu
  have hrecs : u.unlost.recs = (f tr).unlost.recs := congrArg Trace.recs hlost
  have hstale : u.unlost.stale = (f tr).unlost.stale := congrArg Trace.stale hlost
  refine ⟨_, u, hx, hend.congr hcores.symm hops.symm hwr.cycle.symm rfl rfl, fun k => ?_, ?_, hrecs, hstale⟩
  · rw [hlive, hlaunches]
    rfl
  · rw [State.trace, htraces]
    exact hut

end Sys2Proof.Machine
end

section
/-! PROOF. Launches, traces and relaunches, clause by clause. -/

namespace Sys2Proof.Machine

/-- Settles O57: each clause is the equation of its event, and what the shared operations behind it leave. -/
theorem launches : Obligations.Launches := by
  unfold Obligations.Launches
  refine ⟨?early, ?refused, ?accepted, ?waits, ?complete, ?trace, ?relaunchRun, ?relaunchComplete⟩
  case early =>
    intro s o ho hr _ hu hq hst
    exact exec_launchAccept_early ho hr hq hu hst
  case refused =>
    intro s o status ho hr _ hu hq hst hfirst
    exact exec_launchAccept_refused ho hr hq hu hst hfirst
  case accepted =>
    intro s o tile head tb leaf ho hr hkind hst d param prio htrace hfirst htile hhead htable hl hk hrep ha
    have hnone : firstFailure (s.launchChecks d o.asid false) = none := by rw [firstFailure, hfirst]; rfl
    obtain ⟨t, num, r, hx, hnum, hnums, hacc, hrecs⟩ :=
      exec_launchAccept_accepted ho hr hkind hst htrace hnone htile hhead htable hl hk hrep ha
    obtain ⟨l, hlaunches, hl0, hdeps⟩ := hacc.launches
    obtain ⟨hcores, hhost, hpod⟩ := hacc.rest
    exact ⟨t, l, num, r, hx, hnum, hnums, hlaunches, hl0.num, hl0.op, hl0.blocks, hl0.killed, hl0.left, hl0.placed,
      hl0.relaunch, hl0.asid, hdeps, hacc.records, hrecs, fun q h1 h2 => hacc.opened q (mem_descQueues.mpr ⟨h1, h2⟩),
      hacc.write, hacc.hbm, hacc.op, hcores, hhost, hpod⟩
  case waits =>
    exact fun s id h => exec_launchAccept_waits h
  case complete =>
    intro s o l hl ho _ hu hre hm done
    refine ⟨fun hdone hq hwf => ?_, fun hwf hdone => ?_⟩
    · obtain ⟨hend, hlive, hqueue, -, hhbm, hhost⟩ := State.endLaunch_spec ho hm hq hu
      refine ⟨_, (exec_launchComplete hl hre).trans (by rw [if_pos ((State.launchDone_iff hwf hre).mpr hdone)]), hend, hlive,
        fun q hmine => ?_, fun q hother => by rw [hqueue, if_neg hother], hhbm, hhost⟩
      rw [hqueue, if_pos hmine]
      exact ⟨rfl, rfl⟩
    · rw [exec_launchComplete hl hre, if_neg fun h => hdone ((State.launchDone_iff hwf hre).mp h)]
  case trace =>
    intro s o ho hkind hb hst _ hu hq d h total watch writable full
    refine ⟨fun hh hlaunch => exec_traceComplete_busy ho hh hlaunch, fun hh status hbad => ?_,
        fun hh hok hfull hbase hacc w hwatch hown hgen _ => ?_, fun hh hlaunch => ⟨fun hzero tr htr ha => ?_, fun hbad => ?_⟩⟩
    · have hx := exec_traceComplete_create ho hkind hb hst hh
      rw [State.createTrace_refused hbad] at hx
      have hnz : status ≠ 0 := by
        rcases hbad with ⟨-, rfl⟩ | ⟨-, -, rfl⟩ | ⟨-, -, -, -, -, rfl⟩ <;> decide
      obtain ⟨hend, htraces⟩ := State.endTrace_spec hq hu status 0
      rw [handleWords, if_neg fun h => hnz h.1] at hend
      exact ⟨_, hx, hend, htraces⟩
    · have hx := exec_traceComplete_create ho hkind hb hst hh
      obtain ⟨k, hslot, hcreate⟩ := State.createTrace_armed hok hfull hbase hacc hwatch hown
      obtain ⟨hlt, hslots⟩ := Distributor.freeSlot_spec hslot
      rw [hcreate] at hx
      obtain ⟨⟨pre, tr, htraces, hpre, htr⟩, hend⟩ := State.createTrace_spec (s := s)
        (t := newTrace o.packet k s.dist.traceGen o.asid w) hq hu _
      obtain ⟨x, rfl⟩ := Trace.eq_of_unlost htr
      have hhandle : k + 64 * s.dist.traceGen ≠ 0 := by omega
      refine ⟨_, _, pre, hx, htraces, hpre, hlt, hslots, ?_, rfl, rfl, rfl, rfl, rfl, rfl, ?_⟩
      · change (k + 64 * s.dist.traceGen) / 64 ≠ 0
        omega
      · rw [handleWords, if_pos ⟨rfl, hhandle⟩, Core.lastCells, List.flatMap_singleton] at hend
        exact hend
    · obtain ⟨hend, htraces⟩ := State.endTrace_spec (s := s.onDist fun d =>
        { d with traces := d.traces.filter fun k => !decide (k.handle = dw o.packet 14) }) hq hu 0 0
      refine ⟨_, exec_traceComplete_release ho hkind hb hst hh hlaunch hzero htr ha, hend.congr rfl rfl rfl rfl rfl,
        fun k => ?_⟩
      rw [htraces]
      simp only [State.onDist, List.mem_filter, Bool.not_eq_true', decide_eq_false_iff_not, ne_eq]
      rfl
    · obtain ⟨hend, htraces⟩ := State.endTrace_spec hq hu 4 0
      exact ⟨_, exec_traceComplete_refused ho hkind hb hst hh hlaunch hbad, hend, htraces⟩
  case relaunchRun =>
    intro s l tr map leaf hl hre hch hf ht hmap hleaf hk hrep hpage hprep
    obtain ⟨t, hx, hlaunch, hrecs, htrace, hcores, hhost, hpod⟩ :=
      exec_relaunchRun_spec hl hre hch hf ht hmap hleaf hk hrep hpage
    obtain ⟨k, hkl, hchosen, hleft⟩ := hlaunch
    obtain ⟨u, hu, hrecord⟩ := htrace
    obtain ⟨hclosed, hlt, hleast⟩ := l.choose_spec tr map
    rw [hprep] at hrecs
    exact ⟨t, k, u, _, hx, hkl, hchosen, hleft, hclosed, hlt, hleast, hrecs, hu, hrecord, hcores, hhost, hpod⟩
  case relaunchComplete =>
    intro s o l tr hl ho _ hu hq hre hdone ht hm
    obtain ⟨t, u, hx, hend, hlive, htu, hrecs, hstale⟩ := exec_relaunchComplete hl ho hu hq hre hdone ht hm
    refine ⟨t, u, hx, hend, hlive, htu, hrecs, fun x => ?_⟩
    rw [hstale]
    exact Trace.inStale_updateStale

end Sys2Proof.Machine
end
